-- ==== Sys2Proof/Word.lean ====
section
/-! DEFINITION. Word types, register-number types and the enumerations that operands of instructions range over
(R25, R27, R41, R165), with the records that loading and registration events carry. -/

namespace Sys2Proof

abbrev Byte := BitVec 8
abbrev Word := BitVec 64

/-- Register numbers (R159, R344): each as wide as its class needs. -/
abbrev XReg := BitVec 5
abbrev VReg := BitVec 5
abbrev KReg := BitVec 3
abbrev TReg := BitVec 3
abbrev BReg := BitVec 3
abbrev AReg := BitVec 2
abbrev LReg := BitVec 1
abbrev NReg := BitVec 5
abbrev CReg := BitVec 4
abbrev SReg := BitVec 4
abbrev QReg := BitVec 3

/-- Rounding modes (R55, R165). -/
inductive Rnd where
  | rne | rtz | rup | rdn | rna
  deriving DecidableEq, Repr

/-- Scopes (R92, R165), narrowest first. -/
inductive Scope where
  | cell | die | device | pod | system
  deriving DecidableEq, Repr

/-- Lane types of the vector engine (R219). -/
inductive LaneTy where
  | s8 | s16 | s32 | n8 | n16 | n32 | bf16 | f32
  deriving DecidableEq, Repr

/-- The two floating-point lane types. -/
inductive FloatTy where
  | bf16 | f32
  deriving DecidableEq, Repr

/-- Block formats (R46). -/
inductive PbTy where
  | pb2 | pb4 | pb7
  deriving DecidableEq, Repr

/-- Formats a matrix operand panel may have (R290). -/
inductive MatTy where
  | bf16 | pb2 | pb4 | pb7
  deriving DecidableEq, Repr

/-- Types of VGTH and VSCT (R228). -/
inductive GathTy where
  | f32 | s32 | n32
  deriving DecidableEq, Repr

/-- Types of VABS and VNEG (R228). -/
inductive SgnTy where
  | f32 | bf16 | s32 | s16 | s8
  deriving DecidableEq, Repr

/-- Types of VREDX and VREDM (R228). -/
inductive RedTy where
  | f32 | bf16 | s32 | n32
  deriving DecidableEq, Repr

/-- Drain types: of VXRND (R228), MDRN (R299) and QRND (R346). -/
inductive DrainTy where
  | f32 | bf16 | s32
  deriving DecidableEq, Repr

/-- Integer lane types of VIOTA (R228). -/
inductive IntTy where
  | s8 | s16 | s32 | n8 | n16 | n32
  deriving DecidableEq, Repr

/-- Element types of RAP and CPYC (R173, R268). -/
inductive RapTy where
  | s32 | n32 | f32 | xa
  deriving DecidableEq, Repr

/-- Operations of RAP and CPYC (R173, R268). -/
inductive RapOp where
  | add | min | max
  deriving DecidableEq, Repr

/-- Width and signedness of LD and LDA (R170). -/
inductive LdTy where
  | s8 | s16 | s32 | d64 | n8 | n16 | n32
  deriving DecidableEq, Repr

/-- Width of ST and STL (R170). -/
inductive StTy where
  | w8 | w16 | w32 | w64
  deriving DecidableEq, Repr

/-- Operations of AMO (R171). -/
inductive AmoOp where
  | swap | add | and | or | xor | min | minn | max | maxn
  deriving DecidableEq, Repr

/-- Kinds of FENCE (R99, R171). -/
inductive FenceKind where
  | acq | rel | full
  deriving DecidableEq, Repr

/-- Selectors of PGET (R172). -/
inductive PgetSel where
  | addr | fmt | bll
  deriving DecidableEq, Repr

/-- Conditions of VCMP (R236). -/
inductive CmpCond where
  | eq | ne | lt | le | gt | ge
  deriving DecidableEq, Repr

/-- Conditions of BR and WAITC (R346). -/
inductive BrCond where
  | eq | ne | lt | ge | ltn | gen
  deriving DecidableEq, Repr

/-- The keys every engine instruction carries (R29, R164): the wait mask and the completion token. -/
structure EngKeys where
  wait : BitVec 8
  tok  : Option TReg
  deriving DecidableEq, Repr

/-- Operands of VMX by operation (R250). -/
inductive VmxOp where
  | get (t : LaneTy) (lane : BitVec 6) (xd : XReg) (va : VReg)
  | put (t : LaneTy) (lane : BitVec 6) (vd : VReg) (xa : XReg)
  | kget (xd : XReg) (ka : KReg)
  | kput (kd : KReg) (xa : XReg)
  deriving DecidableEq, Repr

/-- Operands of KOP by operation (R251). -/
inductive KopOp where
  | and (kd ka kb : KReg)
  | or (kd ka kb : KReg)
  | xor (kd ka kb : KReg)
  | andn (kd ka kb : KReg)
  | not (kd ka : KReg)
  | first (kd ka : KReg)
  | pop (xd : XReg) (ka : KReg)
  | set (kd : KReg)
  deriving DecidableEq, Repr

/-- Operands of VPTAG by operation (R256). -/
inductive VptagOp where
  | get (xd : XReg) (va : VReg)
  | set (vd : VReg)
  | clr (vd : VReg)
  | or (vd va : VReg)
  deriving DecidableEq, Repr

/-- How a matrix instruction names its tile: directly, or through the ring pointer its entry allows (R291, R299). -/
inductive AccSel where
  | tile (a : AReg)
  | ring
  deriving DecidableEq, Repr

/-- Operands of MRTG by operation (R310). -/
inductive MrtgOp where
  | get (xd : XReg) (a : AReg)
  | put (a : AReg) (xa : XReg)
  | or (a : AReg) (xa : XReg)
  deriving DecidableEq, Repr

/-- What system software gives when it loads an agent program (R317, R39). -/
structure ProgLoad where
  asid   : Nat
  entry  : Nat
  cls    : Nat
  weight : Nat
  mask   : BitVec 6
  image  : List Word
  /-- context register and binding of each .context declaration (R39) -/
  ctxs   : List (Nat × Nat)
  /-- the bindings that its .model directives name (R39) -/
  models : List Nat
  deriving DecidableEq, Repr

/-- What system software registers as a model binding (R39, R324, R330, R338). -/
structure BindingReg where
  vocab     : Nat
  tpp       : Nat
  recurrent : Bool
  /-- the draft binding, where the binding names one (R338) -/
  draft     : Option Nat
  /-- the 128-byte launch descriptors of its step graph, in queue order (R10, R117) -/
  graph     : List (List Byte)
  deriving DecidableEq, Repr

/-- Compositor tables of a binding, entry by entry as R388 lays them out. -/
structure CompTables where
  split    : List (BitVec 16)
  byteTok  : List (BitVec 32)
  /-- left, right and merged id -/
  merges   : List (BitVec 32 × BitVec 32 × BitVec 32)
  tokBytes : List Word
  pool     : List Byte
  deriving DecidableEq, Repr

/-- Registers that a REGISTER_WRITE event reaches (R6), the debug windows of the Hall cores among them (R136). -/
inductive MmioReg where
  | ppCtl
  | imCfg
  | sqCtl
  | frStat
  | pcLim
  | impCtl
  | lqBase (asid q : Nat)
  | lqCfg (asid q : Nat)
  | lqStat (asid q : Nat)
  | invAsid (die slot : Nat)
  | invBase (die slot : Nat)
  | invLen (die slot : Nat)
  | invCtl (die slot : Nat)
  | asidBase (die : Nat)
  | einjAddr (die : Nat)
  | einjCtl (die : Nat)
  | rmCtl (stack : Nat)
  | sliceEntry (die h : Nat)
  | lqTail (asid q : Nat)
  | lqEnts (asid q : Nat)
  | lqHead (asid q : Nat)
  | ps (stack i : Nat)
  | drCnt (district : Nat)
  | bsStat
  | impCyc (block : Nat)
  | dwCtl (district : Nat)
  /-- eight bytes of the debug window of a district's Hall core (R136) -/
  | dw (district off : Nat)
  | hallPolicy (district cause : Nat)
  /-- the Attic's report that the in-field test of a district has passed (R155) -/
  | testPassed (district : Nat)
  | idNode
  | sqDesc
  | replyPort
  | bufBase
  | fmCtl
  | lqCancel (asid q : Nat)
  | psClr (stack : Nat)
  | fpRet (cell : Nat)
  deriving DecidableEq, Repr

end Sys2Proof
end

