-- ==== Sys2Proof/Syntax.lean ====
section
/-! DEFINITION. Instr: one constructor per row of spec/opcode_table.json. Damvon instructions (R167 to R177), Crium
instructions (R346), and the events that are the device's other whole steps (file 95). An event's operands name the unit the
step acts on; they are the model's, since the table gives events no encoding. -/

namespace Sys2Proof

inductive Instr where
  -- integer register operations (R168, R200)
  | add (rd ra rb : XReg)
  | sub (rd ra rb : XReg)
  | mul (rd ra rb : XReg)
  | mulh (rd ra rb : XReg)
  | mulhn (rd ra rb : XReg)
  | div (rd ra rb : XReg)
  | divn (rd ra rb : XReg)
  | rem (rd ra rb : XReg)
  | remn (rd ra rb : XReg)
  | and (rd ra rb : XReg)
  | or (rd ra rb : XReg)
  | xor (rd ra rb : XReg)
  | andn (rd ra rb : XReg)
  | shl (rd ra rb : XReg)
  | shr (rd ra rb : XReg)
  | sra (rd ra rb : XReg)
  | min (rd ra rb : XReg)
  | minn (rd ra rb : XReg)
  | max (rd ra rb : XReg)
  | maxn (rd ra rb : XReg)
  | slt (rd ra rb : XReg)
  | sltn (rd ra rb : XReg)
  | seq (rd ra rb : XReg)
  | clz (rd ra : XReg)
  | popc (rd ra : XReg)
  -- integer immediates (R169, R201)
  | addi (rd ra : XReg) (imm : BitVec 16)
  | andi (rd ra : XReg) (imm : BitVec 16)
  | ori (rd ra : XReg) (imm : BitVec 16)
  | xori (rd ra : XReg) (imm : BitVec 16)
  | shli (rd ra : XReg) (sh : BitVec 6)
  | shri (rd ra : XReg) (sh : BitVec 6)
  | srai (rd ra : XReg) (sh : BitVec 6)
  | slti (rd ra : XReg) (imm : BitVec 16)
  | lui (rd : XReg) (imm : BitVec 16)
  -- memory (R170, R171, R203 to R206)
  | ld (t : LdTy) (rd base : XReg) (off : BitVec 12)
  | st (t : StTy) (data base : XReg) (off : BitVec 12)
  | lda (t : LdTy) (rd base : XReg) (sc : Scope)
  | stl (t : StTy) (data base : XReg) (sc : Scope)
  | amo (op : AmoOp) (w64 : Bool) (sc : Scope) (rd ra rb : XReg)
  | cas (w64 : Bool) (sc : Scope) (rd ra rb : XReg)
  | fence (k : FenceKind) (sc : Scope)
  -- pointers (R172, R202)
  | addp (rd ra rb : XReg)
  | addpe (rd ra rb : XReg)
  | pfmt (rd ra rb : XReg)
  | pget (rd ra : XReg) (sel : PgetSel)
  -- control (R172, R162, R207 to R209)
  | beq (ra rb : XReg) (off : BitVec 16)
  | bne (ra rb : XReg) (off : BitVec 16)
  | blt (ra rb : XReg) (off : BitVec 16)
  | bge (ra rb : XReg) (off : BitVec 16)
  | bltn (ra rb : XReg) (off : BitVec 16)
  | bgen (ra rb : XReg) (off : BitVec 16)
  | jal (off : BitVec 26)
  | jalr (rd ra : XReg) (off : BitVec 14)
  | loop (ra : XReg) (body : BitVec 14)
  | loopi (cnt : BitVec 12) (body : BitVec 12)
  -- messages and bellboard (R173, R211 to R216)
  | send (rd ra rb : XReg) (n : BitVec 3)
  | rap (t : RapTy) (op : RapOp) (ordered : Bool) (sc : Scope) (rd ra rb : XReg)
  | bind (e : BitVec 9) (prio : BitVec 2) (ra rb : XReg)
  | arm (e : BitVec 9) (barrier : Bool) (ra : XReg)
  | enab (e : BitVec 9) (on : Bool)
  | arrv (e : BitVec 8) (rd ra rb : XReg)
  | waitb (e : BitVec 8) (ra rb : XReg)
  | endAct (retire : Bool)
  -- special registers and system (R174, R210, R217)
  | mfs (rd : XReg) (idx : BitVec 10)
  | mts (idx : BitVec 10) (ra : XReg)
  | synce (eng : BitVec 3)
  | trap (code : BitVec 8)
  | bkpt (code : BitVec 8)
  -- vector engine (R175, R228)
  | vld (k : EngKeys) (t : LaneTy) (vd : VReg) (xa : XReg) (m : Option KReg)
  | vst (k : EngKeys) (t : LaneTy) (vs : VReg) (xa : XReg) (m : Option KReg)
  | vlds (k : EngKeys) (t : LaneTy) (vd : VReg) (xa xs : XReg) (m : Option KReg)
  | vsts (k : EngKeys) (t : LaneTy) (vs : VReg) (xa xs : XReg) (m : Option KReg)
  | vgth (k : EngKeys) (t : GathTy) (vd : VReg) (xa : XReg) (vb : VReg) (kn : KReg) (strict : Bool) (m : Option KReg)
  | vsct (k : EngKeys) (t : GathTy) (vs : VReg) (xa : XReg) (vb : VReg) (m : Option KReg)
  | vadd (k : EngKeys) (t : LaneTy) (vd va vb : VReg) (m : Option KReg) (r : Rnd)
  | vsub (k : EngKeys) (t : LaneTy) (vd va vb : VReg) (m : Option KReg) (r : Rnd)
  | vmul (k : EngKeys) (t : LaneTy) (vd va vb : VReg) (m : Option KReg) (r : Rnd)
  | vmin (k : EngKeys) (t : LaneTy) (vd va vb : VReg) (m : Option KReg)
  | vmax (k : EngKeys) (t : LaneTy) (vd va vb : VReg) (m : Option KReg)
  | vabs (k : EngKeys) (t : SgnTy) (vd va : VReg) (m : Option KReg)
  | vneg (k : EngKeys) (t : SgnTy) (vd va : VReg) (m : Option KReg)
  | vfma (k : EngKeys) (t : FloatTy) (vd va vb vc : VReg) (m : Option KReg) (r : Rnd)
  | vcmp (k : EngKeys) (t : LaneTy) (kd : KReg) (va vb : VReg) (c : CmpCond) (m : Option KReg)
  | vsel (k : EngKeys) (t : LaneTy) (vd va vb : VReg) (sel : KReg)
  | vcvt (k : EngKeys) (td ts : LaneTy) (vd va : VReg) (part : BitVec 4) (m : Option KReg) (r : Rnd)
  | vexp2 (k : EngKeys) (t : FloatTy) (vd va : VReg) (m : Option KReg) (r : Rnd)
  | vlog2 (k : EngKeys) (t : FloatTy) (vd va : VReg) (m : Option KReg) (r : Rnd)
  | vrcp (k : EngKeys) (t : FloatTy) (vd va : VReg) (m : Option KReg) (r : Rnd)
  | vsqrt (k : EngKeys) (t : FloatTy) (vd va : VReg) (m : Option KReg) (r : Rnd)
  | vrcpa (k : EngKeys) (t : FloatTy) (vd va : VReg) (m : Option KReg)
  | vrsqa (k : EngKeys) (t : FloatTy) (vd va : VReg) (m : Option KReg)
  | vredx (k : EngKeys) (t : RedTy) (vd va : VReg) (acc : Bool) (m : Option KReg)
  | vredm (k : EngKeys) (t : RedTy) (vd va : VReg) (isMin : Bool) (m : Option KReg)
  | vredf (k : EngKeys) (vd va : VReg) (m : Option KReg) (r : Rnd)
  | vxadd (k : EngKeys) (vd va : VReg)
  | vxrnd (k : EngKeys) (t : DrainTy) (vd va : VReg) (lane : BitVec 8) (r : Rnd)
  | vxscan (k : EngKeys) (t : FloatTy) (xd : XReg) (va vb vc : VReg) (m : Option KReg)
  | vrng (k : EngKeys) (vd : VReg) (xs xq xi : XReg) (m : Option KReg)
  | vshf (k : EngKeys) (t : LaneTy) (vd va vb : VReg) (m : Option KReg)
  | vbc (k : EngKeys) (t : LaneTy) (vd : VReg) (xa : XReg) (m : Option KReg)
  | viota (k : EngKeys) (t : IntTy) (vd : VReg) (xa : XReg) (m : Option KReg)
  | vmx (k : EngKeys) (op : VmxOp)
  | kop (k : EngKeys) (op : KopOp)
  | qhist (k : EngKeys) (t : FloatTy) (xh : XReg) (va : VReg) (m : Option KReg)
  | qscale (k : EngKeys) (xd xh xp : XReg)
  | qpack (k : EngKeys) (p : PbTy) (t : FloatTy) (xa : XReg) (va : VReg) (xc : XReg)
  | qunpk (k : EngKeys) (t : FloatTy) (p : PbTy) (vd : VReg) (xa : XReg)
  | vptag (k : EngKeys) (op : VptagOp)
  -- matrix engine (R176, R299)
  | mlda (k : EngKeys) (t : MatTy) (l : LReg) (xa xs : XReg)
  | mldb (k : EngKeys) (t : MatTy) (l : LReg) (xa xs : XReg)
  | mgth (k : EngKeys) (t : MatTy) (l : LReg) (xa : XReg) (vb : VReg) (xs : XReg)
  | mmac (k : EngKeys) (acc : AccSel) (la lb : LReg)
  | mzero (k : EngKeys) (acc : AccSel)
  | madv (k : EngKeys) (zero : Bool)
  | mspl (k : EngKeys) (acc : AccSel) (xa : XReg)
  | mfil (k : EngKeys) (acc : AccSel) (xa : XReg)
  | mdrn (k : EngKeys) (t : DrainTy) (acc : AccSel) (xa xs xr : XReg) (adv : Bool) (r : Rnd)
  | mepi (k : EngKeys) (xa : XReg)
  | mrtg (k : EngKeys) (op : MrtgOp)
  | mstat (k : EngKeys) (xd : XReg) (stray : Bool) (clr : Bool)
  -- copy engine (R177, R268)
  | cpy (k : EngKeys) (xd xs xn xc : XReg)
  | cpyg (k : EngKeys) (xd xb xi xc : XReg) (strict : Bool)
  | cpyr (k : EngKeys) (xt xs xn xc : XReg)
  | cpym (k : EngKeys) (xr xs xn xc : XReg)
  | cpyc (k : EngKeys) (t : RapTy) (op : RapOp) (xd xs xn xc : XReg)
  | claim (k : EngKeys) (xd xq xb xc : XReg) (n : BitVec 6) (key : Bool)
  | cbdef (k : EngKeys) (b : BReg) (xa xg xp : XReg)
  | cbadv (k : EngKeys) (xd : XReg) (b : BReg) (n : BitVec 8)
  | cpyx (wait : BitVec 8) (toks : BitVec 8)
  | twait (wait : BitVec 8) (xd : XReg)
  -- events of the cells, engines, memory and network
  | vectorOpStart (c : Nat)
  | vectorOpComplete (c : Nat)
  | matrixOpStart (c : Nat)
  | matrixOpComplete (c : Nat)
  | copyOpStart (c : Nat)
  | copyOpComplete (c k : Nat)
  | delivery (i : Nat)
  | arrival (i : Nat)
  | landing (i : Nat)
  | activationStart (c : Nat)
  | runQueuePromotion (c lvl : Nat)
  | hangFault (c : Nat)
  | storePerform (c : Nat)
  | remoteStoreArrival (i : Nat)
  | rapApply (i : Nat)
  | rapSequenceTimeout (c j : Nat)
  | remoteRequest (i : Nat)
  | stairRequestTimeout (i : Nat)
  | pageWalkComplete (die i : Nat)
  | pinExpiry (c i : Nat)
  | invalidationStart (die slot : Nat) (v : Word)
  | invalidationDone (die slot : Nat)
  | mergeWindowExpiry (stack i : Nat)
  | bankHoldExpiry (stack bank : Nat)
  | rowRefresh (stack row : Nat)
  | statsClear (stack : Nat)
  | traceClear (c : Nat)
  -- faults, Hall cores, migration, retirement
  | faultPacket (c : Nat)
  | bankPacket (c : Nat)
  | resume (c : Nat)
  | resumeWithSkip (c : Nat)
  | killActivation (c : Nat)
  | killJob (c : Nat)
  | migrateAndResume (c dst : Nat)
  | migrationHandover (c : Nat)
  | proofDigestCompare (c : Nat)
  | processKill (asid : Nat)
  | retireScratchpadBank (c idx : Nat)
  | retireVectorBank (c idx : Nat)
  | retireAccumulatorTile (c idx : Nat)
  | evacuationComplete (c : Nat)
  | inFieldTestFail (district : Nat)
  -- launch unit
  | launchSubmit (asid q : Nat) (v : Word)
  | lqEntsWrite (asid q : Nat) (v : Word)
  | queueErrorClear (asid q : Nat)
  | descriptorRead (asid q : Nat)
  | launchPlacement (asid q seq : Nat)
  | districtWakeComplete (district : Nat)
  | districtGate (district : Nat)
  | launchComplete (asid q seq : Nat)
  | cancelLaunch (asid q seq : Nat)
  | cancelGraph (asid q seq : Nat)
  | cancelJob (asid : Nat)
  -- Crium (R346)
  | nmovi (hi : Bool) (a : NReg) (imm : BitVec 32)
  | nadd (a b c : NReg)
  | naddi (a b : NReg) (imm : BitVec 32)
  | nsub (a b c : NReg)
  | nmul (a b c : NReg)
  | nslt (uns : Bool) (a b c : NReg)
  | br (cond : BrCond) (a b : NReg) (off : BitVec 32)
  | jmp (off : BitVec 32)
  | call (a : NReg) (off : BitVec 32)
  | ret (b : NReg)
  | cnew (c : CReg) (seqn : NReg) (model : BitVec 16)
  | cfork (c src : CReg) (seqn : NReg)
  | ctrim (c : CReg) (len : NReg)
  | cfree (c : CReg)
  | clen (dst : NReg) (c : CReg)
  | cget (dst : NReg) (c : CReg) (sel : BitVec 6)
  | cbind (c : CReg) (model : BitVec 16)
  | sld (ids : Bool) (dst : SReg) (addr : NReg)
  | sst (src : SReg) (addr : NReg)
  | scat (dst x y : SReg)
  | ssub (dst src : SReg) (off : NReg) (len : BitVec 32)
  | slen (dst : NReg) (src : SReg)
  | tokz (dst src : SReg) (c : CReg)
  | detok (dst src : SReg) (c : CReg)
  | append (text : Bool) (c : CReg) (str : SReg)
  | genu (ids : Bool) (c : CReg) (out : SReg)
  | score (text : Bool) (dst : QReg) (c : CReg) (str : SReg)
  | choose (text : Bool) (dst : NReg) (c : CReg) (first : SReg) (n : BitVec 8) (q : QReg)
  | setgen (c : CReg) (addr : NReg)
  | setfr (c : CReg) (stack : NReg) (auto : BitVec 16) (st : BitVec 12) (depth : BitVec 4)
  | qcmp (dst : NReg) (x y : QReg)
  | qrnd (t : DrainTy) (r : Rnd) (dst : NReg) (src : QReg)
  | waitc (cond : BrCond) (dst addr val : NReg)
  | waitcReread (p : Nat)
  | programDoorbell (p : Nat)
  | stat (clr : Bool) (dst : NReg)
  | enda (code : BitVec 32)
  | trapa (code : BitVec 32)
  -- events of the Imposer and the system
  | programLoad (p : Nat) (ld : ProgLoad)
  | programResume (p : Nat) (skip : Bool)
  | longInstructionReissue (p : Nat)
  | bindingWithdrawal (b : Nat)
  | compositorTablesRegister (b : Nat) (t : CompTables)
  | automatonRegister (id asid : Nat) (va : Nat)
  | samplerReply (row : Nat) (v : Word)
  | samplingTimeout (row : Nat)
  | serviceDone (sq : Nat)
  | fmCtlWrite (v : Word)
  | bootStageVerify (image : List Byte)
  | attestationRequest (nonce : List Byte)
  | droopDetect (district : Nat)
  | droopRecovery (district : Nat)
  | registerWrite (r : MmioReg) (v : Word)
  | illegalInstruction (pointer : Bool)
  | unassignedOpcode (field : Bool)
  | hostPortAttach (ranges : Option (List (Nat × Nat × Nat)))
  | modelBindingRegister (b : Nat) (r : BindingReg)
  | samplerTemplateRegister (t : List Byte)
  | galleyPoolGrant (pages : List Nat)
  | liveMigration (c dst : Nat)
  | dieCacheSliceRetirement (die slice : Nat)
  -- rows without operands, last: the runtime bounds the tags of constructors that have fields
  | nop
  | impressionTrigger
  | yield
  | stepForm
  | frisketMasks
  | stepGraphPlace
  | stepCommit
  | coldReset
  | powerCapStretch
  | fetchFault
  | agentFetchFault
  | powerWithinCap
  deriving DecidableEq, Repr

end Sys2Proof
end

