-- ==== Sys2Proof/WellFormed.lean ====
section
/-! DEFINITION. Which instructions the encoding tables admit: the limits that an instruction's entry puts on operands
beyond what the operand types say already (R159, R162, R173, R174, R221, R228, R229, R238, R243, R250, R268, R299,
R346, R347), and the launch's vector register budget (R223). -/

namespace Sys2Proof

/-- Lanes of a type in a 512-bit register (R219). -/
def LaneTy.lanes : LaneTy → Nat
  | .s8 | .n8 => 64
  | .s16 | .n16 | .bf16 => 32
  | .s32 | .n32 | .f32 => 16

/-- Lane width in bits (R219). -/
def LaneTy.width : LaneTy → Nat
  | .s8 | .n8 => 8
  | .s16 | .n16 | .bf16 => 16
  | .s32 | .n32 | .f32 => 32

def LaneTy.isFloat : LaneTy → Bool
  | .bf16 | .f32 => true
  | _ => false

/-- Types read as two's complement. -/
def LaneTy.isSigned : LaneTy → Bool
  | .s8 | .s16 | .s32 => true
  | _ => false

def DrainTy.lanes : DrainTy → Nat
  | .bf16 => 32
  | .f32 | .s32 => 16

/-- An XA pair starts at an even register (R221). -/
def evenReg {n : Nat} (v : BitVec n) : Bool := v.toNat % 2 == 0

/-- The special-register indices R186 assigns. -/
def specialAssigned (idx : BitVec 10) : Bool :=
  let i := idx.toNat
  i ≤ 0x00e || (0x010 ≤ i && i ≤ 0x012) || (0x018 ≤ i && i ≤ 0x01b) || (0x020 ≤ i && i ≤ 0x023)

/-- Range of VCVT's part for a destination and a source type (R238). -/
def vcvtPartOk (td ts : LaneTy) (part : BitVec 4) : Bool :=
  let nd := td.lanes
  let ns := ts.lanes
  if nd = ns then part = 0 else if nd < ns then part.toNat < ns / nd else part.toNat < nd / ns

/-- Integer lane types take no rounding mode (R229). -/
def roundOk (t : LaneTy) (r : Rnd) : Bool := t.isFloat || r = .rne

def VmxOp.wf : VmxOp → Bool
  | .get t lane _ _ | .put t lane _ _ => lane.toNat < t.lanes
  | .kget _ _ | .kput _ _ => true

/-- What an instruction's fields must keep. DESIGN CHOICE: VCVT and VXRND take any rounding mode, between integer lane types too (R229; log entry
99). -/
def Instr.wf : Instr → Bool
  | .loop _ body => body ≠ 0
  | .loopi _ body => body ≠ 0
  | .send _ _ rb n => n.toNat ≤ 4 && (if n = 0 then rb = 0 else rb.toNat + n.toNat ≤ 32)
  | .rap t op ordered _ rd _ _ => (t ≠ .xa || op = .add) && (ordered || rd = 0)
  | .arm e barrier _ => !barrier || e.toNat < 256
  | .mfs _ idx => specialAssigned idx
  | .mts idx _ => specialAssigned idx
  | .synce eng => eng ≠ 0
  | .vadd _ t _ _ _ _ r | .vsub _ t _ _ _ _ r | .vmul _ t _ _ _ _ r => roundOk t r
  | .vgth _ _ _ _ _ kn _ _ => evenReg kn
  | .vcvt _ td ts _ _ part _ _ => vcvtPartOk td ts part
  | .vredx _ _ vd _ _ _ => evenReg vd
  | .vxadd _ vd va => evenReg vd && evenReg va
  | .vxrnd _ t _ va lane _ => evenReg va && lane.toNat < t.lanes
  | .vxscan _ _ _ _ vb vc _ => evenReg vb && evenReg vc
  | .vmx _ op => op.wf
  | .mdrn _ _ acc _ _ _ adv _ => !adv || acc = .ring
  | .cpy _ _ _ xn _ => xn.toNat ≤ 30
  | .cpyg _ _ _ xi _ _ => xi.toNat ≤ 28
  | .cpyc _ t op _ _ _ _ => t ≠ .xa || op = .add
  | .cpyx _ toks => toks ≠ 0
  | .twait wait _ => wait ≠ 0
  | .choose _ _ _ first n _ => 2 ≤ n.toNat && n.toNat ≤ 16 && first.toNat + n.toNat ≤ 16
  | .setfr _ _ _ _ depth => depth.toNat ≤ 8
  | _ => true

def VmxOp.vmax : VmxOp → Nat
  | .get _ _ _ va => va.toNat
  | .put _ _ vd _ => vd.toNat
  | _ => 0

def VptagOp.vmax : VptagOp → Nat
  | .get _ va => va.toNat
  | .set vd | .clr vd => vd.toNat
  | .or vd va => Nat.max vd.toNat va.toNat

/-- The vector registers an instruction names, a pair by both of its registers (R221, R223). -/
def Instr.vregsUsed : Instr → List Nat
  | .vld _ _ v _ _ | .vst _ _ v _ _ | .vlds _ _ v _ _ _ | .vsts _ _ v _ _ _ => [v.toNat]
  | .vgth _ _ vd _ vb _ _ _ => [vd.toNat, vb.toNat]
  | .vsct _ _ vs _ vb _ => [vs.toNat, vb.toNat]
  | .vadd _ _ vd va vb _ _ | .vsub _ _ vd va vb _ _ | .vmul _ _ vd va vb _ _ => [vd.toNat, va.toNat, vb.toNat]
  | .vmin _ _ vd va vb _ | .vmax _ _ vd va vb _ => [vd.toNat, va.toNat, vb.toNat]
  | .vabs _ _ vd va _ | .vneg _ _ vd va _ => [vd.toNat, va.toNat]
  | .vfma _ _ vd va vb vc _ _ => [vd.toNat, va.toNat, vb.toNat, vc.toNat]
  | .vcmp _ _ _ va vb _ _ => [va.toNat, vb.toNat]
  | .vsel _ _ vd va vb _ => [vd.toNat, va.toNat, vb.toNat]
  | .vcvt _ _ _ vd va _ _ _ => [vd.toNat, va.toNat]
  | .vexp2 _ _ vd va _ _ | .vlog2 _ _ vd va _ _ | .vrcp _ _ vd va _ _ | .vsqrt _ _ vd va _ _ => [vd.toNat, va.toNat]
  | .vrcpa _ _ vd va _ | .vrsqa _ _ vd va _ => [vd.toNat, va.toNat]
  | .vredx _ _ vd va _ _ => [vd.toNat + 1, va.toNat]
  | .vredm _ _ vd va _ _ => [vd.toNat, va.toNat]
  | .vredf _ vd va _ _ => [vd.toNat, va.toNat]
  | .vxadd _ vd va => [vd.toNat + 1, va.toNat + 1]
  | .vxrnd _ _ vd va _ _ => [vd.toNat, va.toNat + 1]
  | .vxscan _ _ _ va vb vc _ => [va.toNat, vb.toNat + 1, vc.toNat + 1]
  | .vrng _ vd _ _ _ _ => [vd.toNat]
  | .vshf _ _ vd va vb _ => [vd.toNat, va.toNat, vb.toNat]
  | .vbc _ _ vd _ _ | .viota _ _ vd _ _ => [vd.toNat]
  | .vmx _ op => [op.vmax]
  | .qhist _ _ _ va _ => [va.toNat]
  | .qpack _ _ _ _ va _ => [va.toNat]
  | .qunpk _ _ _ vd _ => [vd.toNat]
  | .vptag _ op => [op.vmax]
  | .mgth _ _ _ _ vb _ => [vb.toNat]
  | _ => []

/-- Every vector register named lies below the launch's budget (R223). -/
def Instr.vregsOk (vregs : Nat) (i : Instr) : Bool := i.vregsUsed.all (· < vregs)

end Sys2Proof
end

