-- ==== Sys2Proof/Decode.lean ====
section
/-! DEFINITION. The decoders of Damvon and Crium words and, after them, the encoder written from the same tables
(R158 to R184, R228, R268, R299, R343 to R347). Both decoders are total and reject by name. -/

namespace Sys2Proof

/-- What a decoder answers: an instruction, or the name of its rejection. -/
inductive DecodeResult where
  | ok (i : Instr)
  /-- Damvon: an illegal word (R178) -/
  | illegal
  /-- Damvon: a reserved format code where nothing else is wrong (R179) -/
  | pointer
  /-- Crium: opcode 0x00, unassigned or reserved (R347, cause 0x01) -/
  | unassigned
  /-- Crium: a field the map does not permit (R347, cause 0x02) -/
  | field
  deriving DecidableEq, Repr

/-! ## Codes -/

def Rnd.code : Rnd → BitVec 3
  | .rne => 0 | .rtz => 1 | .rup => 2 | .rdn => 3 | .rna => 4

def Rnd.ofCode (c : BitVec 3) : Option Rnd :=
  match c.toNat with
  | 0 => some .rne | 1 => some .rtz | 2 => some .rup | 3 => some .rdn | 4 => some .rna | _ => none

def Scope.code : Scope → BitVec 3
  | .cell => 0 | .die => 1 | .device => 2 | .pod => 3 | .system => 4

def Scope.ofCode (c : BitVec 3) : Option Scope :=
  match c.toNat with
  | 0 => some .cell | 1 => some .die | 2 => some .device | 3 => some .pod | 4 => some .system | _ => none

def LaneTy.fmt : LaneTy → BitVec 4
  | .s8 => 1 | .s16 => 2 | .s32 => 3 | .n8 => 4 | .n16 => 5 | .n32 => 6 | .bf16 => 7 | .f32 => 8

def LaneTy.ofFmt (c : BitVec 4) : Option LaneTy :=
  match c.toNat with
  | 1 => some .s8 | 2 => some .s16 | 3 => some .s32 | 4 => some .n8 | 5 => some .n16 | 6 => some .n32
  | 7 => some .bf16 | 8 => some .f32 | _ => none

def FloatTy.fmt : FloatTy → BitVec 4
  | .bf16 => 7 | .f32 => 8

def FloatTy.ofFmt (c : BitVec 4) : Option FloatTy :=
  match c.toNat with
  | 7 => some .bf16 | 8 => some .f32 | _ => none

def PbTy.fmt : PbTy → BitVec 4
  | .pb2 => 9 | .pb4 => 10 | .pb7 => 11

def PbTy.ofFmt (c : BitVec 4) : Option PbTy :=
  match c.toNat with
  | 9 => some .pb2 | 10 => some .pb4 | 11 => some .pb7 | _ => none

def MatTy.fmt : MatTy → BitVec 4
  | .bf16 => 7 | .pb2 => 9 | .pb4 => 10 | .pb7 => 11

def MatTy.ofFmt (c : BitVec 4) : Option MatTy :=
  match c.toNat with
  | 7 => some .bf16 | 9 => some .pb2 | 10 => some .pb4 | 11 => some .pb7 | _ => none

def GathTy.fmt : GathTy → BitVec 4
  | .s32 => 3 | .n32 => 6 | .f32 => 8

def GathTy.ofFmt (c : BitVec 4) : Option GathTy :=
  match c.toNat with
  | 3 => some .s32 | 6 => some .n32 | 8 => some .f32 | _ => none

def SgnTy.fmt : SgnTy → BitVec 4
  | .s8 => 1 | .s16 => 2 | .s32 => 3 | .bf16 => 7 | .f32 => 8

def SgnTy.ofFmt (c : BitVec 4) : Option SgnTy :=
  match c.toNat with
  | 1 => some .s8 | 2 => some .s16 | 3 => some .s32 | 7 => some .bf16 | 8 => some .f32 | _ => none

def RedTy.fmt : RedTy → BitVec 4
  | .s32 => 3 | .n32 => 6 | .bf16 => 7 | .f32 => 8

def RedTy.ofFmt (c : BitVec 4) : Option RedTy :=
  match c.toNat with
  | 3 => some .s32 | 6 => some .n32 | 7 => some .bf16 | 8 => some .f32 | _ => none

def DrainTy.fmt : DrainTy → BitVec 4
  | .s32 => 3 | .bf16 => 7 | .f32 => 8

def DrainTy.ofFmt (c : BitVec 4) : Option DrainTy :=
  match c.toNat with
  | 3 => some .s32 | 7 => some .bf16 | 8 => some .f32 | _ => none

def IntTy.fmt : IntTy → BitVec 4
  | .s8 => 1 | .s16 => 2 | .s32 => 3 | .n8 => 4 | .n16 => 5 | .n32 => 6

def IntTy.ofFmt (c : BitVec 4) : Option IntTy :=
  match c.toNat with
  | 1 => some .s8 | 2 => some .s16 | 3 => some .s32 | 4 => some .n8 | 5 => some .n16 | 6 => some .n32 | _ => none

def RapTy.fmt : RapTy → BitVec 4
  | .s32 => 3 | .n32 => 6 | .f32 => 8 | .xa => 12

def RapTy.ofFmt (c : BitVec 4) : Option RapTy :=
  match c.toNat with
  | 3 => some .s32 | 6 => some .n32 | 8 => some .f32 | 12 => some .xa | _ => none

def RapOp.code : RapOp → BitVec 2
  | .add => 0 | .min => 1 | .max => 2

def RapOp.ofCode (c : BitVec 2) : Option RapOp :=
  match c.toNat with
  | 0 => some .add | 1 => some .min | 2 => some .max | _ => none

def LdTy.code : LdTy → BitVec 4
  | .s8 => 0 | .s16 => 1 | .s32 => 2 | .d64 => 3 | .n8 => 4 | .n16 => 5 | .n32 => 6

def LdTy.ofCode (c : BitVec 4) : Option LdTy :=
  match c.toNat with
  | 0 => some .s8 | 1 => some .s16 | 2 => some .s32 | 3 => some .d64 | 4 => some .n8 | 5 => some .n16 | 6 => some .n32
  | _ => none

def StTy.code : StTy → BitVec 4
  | .w8 => 0 | .w16 => 1 | .w32 => 2 | .w64 => 3

def StTy.ofCode (c : BitVec 4) : Option StTy :=
  match c.toNat with
  | 0 => some .w8 | 1 => some .w16 | 2 => some .w32 | 3 => some .w64 | _ => none

def AmoOp.code : AmoOp → BitVec 4
  | .swap => 0 | .add => 1 | .and => 2 | .or => 3 | .xor => 4 | .min => 5 | .minn => 6 | .max => 7 | .maxn => 8

def AmoOp.ofCode (c : BitVec 4) : Option AmoOp :=
  match c.toNat with
  | 0 => some .swap | 1 => some .add | 2 => some .and | 3 => some .or | 4 => some .xor | 5 => some .min
  | 6 => some .minn | 7 => some .max | 8 => some .maxn | _ => none

def FenceKind.code : FenceKind → BitVec 2
  | .acq => 0 | .rel => 1 | .full => 2

def FenceKind.ofCode (c : BitVec 2) : Option FenceKind :=
  match c.toNat with
  | 0 => some .acq | 1 => some .rel | 2 => some .full | _ => none

def PgetSel.code : PgetSel → BitVec 5
  | .addr => 0 | .fmt => 1 | .bll => 2

def PgetSel.ofCode (c : BitVec 5) : Option PgetSel :=
  match c.toNat with
  | 0 => some .addr | 1 => some .fmt | 2 => some .bll | _ => none

def CmpCond.code : CmpCond → BitVec 8
  | .eq => 0 | .ne => 1 | .lt => 2 | .le => 3 | .gt => 4 | .ge => 5

def CmpCond.ofCode (c : BitVec 8) : Option CmpCond :=
  match c.toNat with
  | 0 => some .eq | 1 => some .ne | 2 => some .lt | 3 => some .le | 4 => some .gt | 5 => some .ge | _ => none

def BrCond.code : BrCond → BitVec 6
  | .eq => 0 | .ne => 1 | .lt => 2 | .ge => 3 | .ltn => 4 | .gen => 5

def BrCond.ofCode (c : BitVec 6) : Option BrCond :=
  match c.toNat with
  | 0 => some .eq | 1 => some .ne | 2 => some .lt | 3 => some .ge | 4 => some .ltn | 5 => some .gen | _ => none

def DrainTy.ofQ (c : BitVec 2) : Option DrainTy :=
  match c.toNat with
  | 0 => some .f32 | 1 => some .bf16 | 2 => some .s32 | _ => none

def DrainTy.q : DrainTy → BitVec 2
  | .f32 => 0 | .bf16 => 1 | .s32 => 2

/-- A register number of a smaller class sits in the low bits of its field; the rest must be zero (R159). -/
def k5 (f : BitVec 5) : Option KReg := if f.extractLsb' 3 2 = 0 then some (f.extractLsb' 0 3) else none
def a5 (f : BitVec 5) : Option AReg := if f.extractLsb' 2 3 = 0 then some (f.extractLsb' 0 2) else none
def l5 (f : BitVec 5) : Option LReg := if f.extractLsb' 1 4 = 0 then some (f.extractLsb' 0 1) else none

/-- Mask key of a vector instruction (R164). -/
def maskOf (m : BitVec 4) : Option (Option KReg) :=
  if m.extractLsb' 3 1 = 1 then some (some (m.extractLsb' 0 3)) else if m = 0 then some none else none

def maskBits : Option KReg → BitVec 4
  | none => 0
  | some k => (1 : BitVec 1) ++ k

/-- Keep an answer only when a check holds. -/
def chk (c : Bool) (i : Option Instr) : Option Instr := if c then i else none

/-- Keep a well-formed instruction. -/
def wfOnly (i : Instr) : Option Instr := if i.wf then some i else none

/-! ## Single words (R160 to R162, R168 to R174) -/

/-- Major 0x01 (R168). -/
def decodeInt (rd ra rb : XReg) (fn : BitVec 11) : Option Instr :=
  match fn.toNat with
  | 0x000 => some (.add rd ra rb)
  | 0x001 => some (.sub rd ra rb)
  | 0x002 => some (.mul rd ra rb)
  | 0x003 => some (.mulh rd ra rb)
  | 0x004 => some (.mulhn rd ra rb)
  | 0x005 => some (.div rd ra rb)
  | 0x006 => some (.divn rd ra rb)
  | 0x007 => some (.rem rd ra rb)
  | 0x008 => some (.remn rd ra rb)
  | 0x009 => some (.and rd ra rb)
  | 0x00a => some (.or rd ra rb)
  | 0x00b => some (.xor rd ra rb)
  | 0x00c => some (.andn rd ra rb)
  | 0x00d => some (.shl rd ra rb)
  | 0x00e => some (.shr rd ra rb)
  | 0x00f => some (.sra rd ra rb)
  | 0x010 => some (.min rd ra rb)
  | 0x011 => some (.minn rd ra rb)
  | 0x012 => some (.max rd ra rb)
  | 0x013 => some (.maxn rd ra rb)
  | 0x014 => some (.slt rd ra rb)
  | 0x015 => some (.sltn rd ra rb)
  | 0x016 => some (.seq rd ra rb)
  | 0x017 => chk (rb = 0) (some (.clz rd ra))
  | 0x018 => chk (rb = 0) (some (.popc rd ra))
  | _ => none

/-- Major 0x14 (R171). -/
def decodeAmo (rd ra rb : XReg) (fn : BitVec 11) : Option Instr :=
  match Scope.ofCode (fn.extractLsb' 8 3) with
  | none => none
  | some sc =>
    let mid := fn.extractLsb' 4 4
    let w := fn.extractLsb' 3 1
    match (fn.extractLsb' 0 3).toNat with
    | 0 => match AmoOp.ofCode mid with
      | some op => some (.amo op (w = 1) sc rd ra rb)
      | none => none
    | 1 => chk (mid = 0) (some (.cas (w = 1) sc rd ra rb))
    | 2 => match FenceKind.ofCode (mid.extractLsb' 0 2) with
      | some k => chk (mid.extractLsb' 2 2 = 0 && w = 0 && rd = 0 && ra = 0 && rb = 0) (some (.fence k sc))
      | none => none
    | _ => none

/-- Major 0x1f (R162). -/
def decodeL (w : BitVec 32) : Option Instr :=
  match (w.extractLsb' 0 2).toNat with
  | 0 => some (.jalr (w.extractLsb' 21 5) (w.extractLsb' 16 5) (w.extractLsb' 2 14))
  | 1 => chk (w.extractLsb' 21 5 = 0) (wfOnly (.loop (w.extractLsb' 16 5) (w.extractLsb' 2 14)))
  | 2 => wfOnly (.loopi (w.extractLsb' 14 12) (w.extractLsb' 2 12))
  | _ => none

/-- RAP (R173); `f` is the format code. -/
def decodeRap (f : BitVec 4) (rd ra rb : XReg) (fn : BitVec 11) : Option Instr :=
  match RapTy.ofFmt f, RapOp.ofCode (fn.extractLsb' 4 2), Scope.ofCode (fn.extractLsb' 7 3) with
  | some t, some op, some sc =>
    chk (fn.extractLsb' 10 1 = 0) (wfOnly (.rap t op (fn.extractLsb' 6 1 = 1) sc rd ra rb))
  | _, _, _ => none

/-- Major 0x2a (R174). -/
def decodeSys (rd ra rb : XReg) (fn : BitVec 11) : Option Instr :=
  chk (rd = 0 && ra = 0 && rb = 0)
    (match (fn.extractLsb' 8 3).toNat with
    | 0 => chk (fn.extractLsb' 0 8 = 0) (some .nop)
    | 1 => chk (fn.extractLsb' 3 5 = 0) (wfOnly (.synce (fn.extractLsb' 0 3)))
    | 2 => some (.trap (fn.extractLsb' 0 8))
    | 3 => some (.bkpt (fn.extractLsb' 0 8))
    | _ => none)

/-- A single word (R160 to R174); `none` where R178 makes it illegal or a RAP format is reserved. -/
def decode1 (w : BitVec 32) : Option Instr :=
  let rd := w.extractLsb' 21 5
  let ra := w.extractLsb' 16 5
  let rb := w.extractLsb' 11 5
  let fn := w.extractLsb' 0 11
  let imm := w.extractLsb' 0 16
  match (w.extractLsb' 26 6).toNat with
  | 0x01 => decodeInt rd ra rb fn
  | 0x02 => some (.addi rd ra imm)
  | 0x03 => some (.andi rd ra imm)
  | 0x04 => some (.ori rd ra imm)
  | 0x05 => some (.xori rd ra imm)
  | 0x06 => chk (imm.extractLsb' 6 10 = 0) (some (.shli rd ra (imm.extractLsb' 0 6)))
  | 0x07 => chk (imm.extractLsb' 6 10 = 0) (some (.shri rd ra (imm.extractLsb' 0 6)))
  | 0x08 => chk (imm.extractLsb' 6 10 = 0) (some (.srai rd ra (imm.extractLsb' 0 6)))
  | 0x09 => some (.slti rd ra imm)
  | 0x0a => chk (ra = 0) (some (.lui rd imm))
  | 0x10 => match LdTy.ofCode (imm.extractLsb' 12 4) with
    | some t => some (.ld t rd ra (imm.extractLsb' 0 12))
    | none => none
  | 0x11 => match StTy.ofCode (imm.extractLsb' 12 4) with
    | some t => some (.st t rd ra (imm.extractLsb' 0 12))
    | none => none
  | 0x12 => match LdTy.ofCode (imm.extractLsb' 12 4), Scope.ofCode (imm.extractLsb' 9 3) with
    | some t, some sc => chk (imm.extractLsb' 0 9 = 0) (some (.lda t rd ra sc))
    | _, _ => none
  | 0x13 => match StTy.ofCode (imm.extractLsb' 12 4), Scope.ofCode (imm.extractLsb' 9 3) with
    | some t, some sc => chk (imm.extractLsb' 0 9 = 0) (some (.stl t rd ra sc))
    | _, _ => none
  | 0x14 => decodeAmo rd ra rb fn
  | 0x16 => match fn.toNat with
    | 0 => some (.addp rd ra rb)
    | 1 => some (.addpe rd ra rb)
    | 2 => some (.pfmt rd ra rb)
    | 3 => match PgetSel.ofCode rb with
      | some s => some (.pget rd ra s)
      | none => none
    | _ => none
  | 0x18 => some (.beq rd ra imm)
  | 0x19 => some (.bne rd ra imm)
  | 0x1a => some (.blt rd ra imm)
  | 0x1b => some (.bge rd ra imm)
  | 0x1c => some (.bltn rd ra imm)
  | 0x1d => some (.bgen rd ra imm)
  | 0x1e => some (.jal (w.extractLsb' 0 26))
  | 0x1f => decodeL w
  | 0x20 => chk (fn.extractLsb' 3 8 = 0) (wfOnly (.send rd ra rb (fn.extractLsb' 0 3)))
  | 0x21 => decodeRap (fn.extractLsb' 0 4) rd ra rb fn
  | 0x22 => chk (rd = 0) (some (.bind (fn.extractLsb' 0 9) (fn.extractLsb' 9 2) ra rb))
  | 0x23 => chk (rd = 0 && rb = 0 && fn.extractLsb' 10 1 = 0) (wfOnly (.arm (fn.extractLsb' 0 9) (fn.extractLsb' 9 1 = 1) ra))
  | 0x24 => chk (rd = 0 && ra = 0 && rb = 0 && fn.extractLsb' 10 1 = 0) (some (.enab (fn.extractLsb' 0 9) (fn.extractLsb' 9 1 = 1)))
  | 0x25 => chk (fn.extractLsb' 8 3 = 0) (some (.arrv (fn.extractLsb' 0 8) rd ra rb))
  | 0x26 => chk (rd = 0 && fn.extractLsb' 8 3 = 0) (some (.waitb (fn.extractLsb' 0 8) ra rb))
  | 0x27 => chk (rd = 0 && ra = 0 && rb = 0 && fn.extractLsb' 1 10 = 0) (some (.endAct (fn.extractLsb' 0 1 = 1)))
  | 0x28 => chk (ra = 0 && imm.extractLsb' 10 6 = 0) (wfOnly (.mfs rd (imm.extractLsb' 0 10)))
  | 0x29 => chk (rd = 0 && imm.extractLsb' 10 6 = 0) (wfOnly (.mts (imm.extractLsb' 0 10) ra))
  | 0x2a => decodeSys rd ra rb fn
  | _ => none

/-! ## Double words (R163, R164, R228, R268, R299) -/

/-- Word 1 with the checks common to every engine instruction made (R164). -/
structure Word1 where
  k      : EngKeys
  round  : BitVec 3
  strict : Bool
  fmt    : BitVec 4
  mask   : BitVec 4
  lo     : BitVec 8
  deriving DecidableEq, Repr

def splitWord1 (w : BitVec 32) : Option Word1 :=
  let tok := w.extractLsb' 21 3
  let tv := w.extractLsb' 20 1
  if tv = 0 && tok ≠ 0 then none
  else some
    { k := { wait := w.extractLsb' 24 8, tok := if tv = 1 then some tok else none },
      round := w.extractLsb' 17 3, strict := w.extractLsb' 16 1 = 1, fmt := w.extractLsb' 12 4,
      mask := w.extractLsb' 8 4, lo := w.extractLsb' 0 8 }

/-- `lane` checks are left out when `lenient`, for a reserved format code has no lanes (R179). -/
def laneChk (lenient : Bool) (i : Instr) : Option Instr :=
  if lenient then
    match i with
    | .vxrnd _ _ _ va _ _ => if evenReg va then some i else none
    | .vcvt .. => some i
    | .vmx .. => some i
    | _ => wfOnly i
  else wfOnly i

/-- Majors 0x30 to 0x35 (R175, R228). -/
def decodeVec (lenient : Bool) (maj fn : Nat) (f1 f2 f3 f4 : BitVec 5) (w : Word1) : Option Instr :=
  let r0 := w.round = 0
  let s0 := !w.strict
  let lo0 := w.lo = 0
  let m0 := w.mask = 0
  let k := w.k
  match maj with
  | 0x30 => match fn with
    | 0 => match LaneTy.ofFmt w.fmt, maskOf w.mask with
      | some t, some m => chk (r0 && s0 && lo0 && f3 = 0 && f4 = 0) (some (.vld k t f1 f2 m))
      | _, _ => none
    | 1 => match LaneTy.ofFmt w.fmt, maskOf w.mask with
      | some t, some m => chk (r0 && s0 && lo0 && f3 = 0 && f4 = 0) (some (.vst k t f1 f2 m))
      | _, _ => none
    | 2 => match LaneTy.ofFmt w.fmt, maskOf w.mask with
      | some t, some m => chk (r0 && s0 && lo0 && f4 = 0) (some (.vlds k t f1 f2 f3 m))
      | _, _ => none
    | 3 => match LaneTy.ofFmt w.fmt, maskOf w.mask with
      | some t, some m => chk (r0 && s0 && lo0 && f4 = 0) (some (.vsts k t f1 f2 f3 m))
      | _, _ => none
    | 4 => match GathTy.ofFmt w.fmt, maskOf w.mask, k5 f4 with
      | some t, some m, some kn => chk (r0 && lo0) (wfOnly (.vgth k t f1 f2 f3 kn w.strict m))
      | _, _, _ => none
    | 5 => match GathTy.ofFmt w.fmt, maskOf w.mask with
      | some t, some m => chk (r0 && s0 && lo0 && f4 = 0) (some (.vsct k t f1 f2 f3 m))
      | _, _ => none
    | _ => none
  | 0x31 => match fn with
    | 0 => match LaneTy.ofFmt w.fmt, maskOf w.mask, Rnd.ofCode w.round with
      | some t, some m, some r => chk (s0 && lo0 && f4 = 0) (wfOnly (.vadd k t f1 f2 f3 m r))
      | _, _, _ => none
    | 1 => match LaneTy.ofFmt w.fmt, maskOf w.mask, Rnd.ofCode w.round with
      | some t, some m, some r => chk (s0 && lo0 && f4 = 0) (wfOnly (.vsub k t f1 f2 f3 m r))
      | _, _, _ => none
    | 2 => match LaneTy.ofFmt w.fmt, maskOf w.mask, Rnd.ofCode w.round with
      | some t, some m, some r => chk (s0 && lo0 && f4 = 0) (wfOnly (.vmul k t f1 f2 f3 m r))
      | _, _, _ => none
    | 3 => match FloatTy.ofFmt w.fmt, maskOf w.mask, Rnd.ofCode w.round with
      | some t, some m, some r => chk (s0 && lo0) (some (.vfma k t f1 f2 f3 f4 m r))
      | _, _, _ => none
    | 4 => match LaneTy.ofFmt w.fmt, maskOf w.mask with
      | some t, some m => chk (r0 && s0 && lo0 && f4 = 0) (some (.vmin k t f1 f2 f3 m))
      | _, _ => none
    | 5 => match LaneTy.ofFmt w.fmt, maskOf w.mask with
      | some t, some m => chk (r0 && s0 && lo0 && f4 = 0) (some (.vmax k t f1 f2 f3 m))
      | _, _ => none
    | 6 => match SgnTy.ofFmt w.fmt, maskOf w.mask with
      | some t, some m => chk (r0 && s0 && lo0 && f3 = 0 && f4 = 0) (some (.vabs k t f1 f2 m))
      | _, _ => none
    | 7 => match SgnTy.ofFmt w.fmt, maskOf w.mask with
      | some t, some m => chk (r0 && s0 && lo0 && f3 = 0 && f4 = 0) (some (.vneg k t f1 f2 m))
      | _, _ => none
    | 8 => match LaneTy.ofFmt w.fmt, maskOf w.mask, k5 f1, CmpCond.ofCode w.lo with
      | some t, some m, some kd, some c => chk (r0 && s0 && f4 = 0) (some (.vcmp k t kd f2 f3 c m))
      | _, _, _, _ => none
    | 9 => match LaneTy.ofFmt w.fmt, maskOf w.mask with
      | some t, some (some sel) => chk (r0 && s0 && lo0 && f4 = 0) (some (.vsel k t f1 f2 f3 sel))
      | _, _ => none
    | 10 => match LaneTy.ofFmt w.fmt, LaneTy.ofFmt (w.lo.extractLsb' 4 4), maskOf w.mask, Rnd.ofCode w.round with
      | some td, some ts, some m, some r =>
        chk (s0 && f3 = 0 && f4 = 0) (laneChk lenient (.vcvt k td ts f1 f2 (w.lo.extractLsb' 0 4) m r))
      | _, _, _, _ => none
    | _ => none
  | 0x32 => match FloatTy.ofFmt w.fmt, maskOf w.mask, Rnd.ofCode w.round with
    | some t, some m, some r => chk (s0 && lo0 && f3 = 0 && f4 = 0)
      (match fn with
      | 0 => some (.vexp2 k t f1 f2 m r)
      | 1 => some (.vlog2 k t f1 f2 m r)
      | 2 => some (.vrcp k t f1 f2 m r)
      | 3 => chk r0 (some (.vrcpa k t f1 f2 m))
      | 4 => chk r0 (some (.vrsqa k t f1 f2 m))
      | 5 => some (.vsqrt k t f1 f2 m r)
      | _ => none)
    | _, _, _ => none
  | 0x33 => match fn with
    | 0 => match RedTy.ofFmt w.fmt, maskOf w.mask with
      | some t, some m => chk (r0 && s0 && w.lo.extractLsb' 1 7 = 0 && f3 = 0 && f4 = 0)
          (wfOnly (.vredx k t f1 f2 (w.lo.extractLsb' 0 1 = 1) m))
      | _, _ => none
    | 1 => match RedTy.ofFmt w.fmt, maskOf w.mask with
      | some t, some m => chk (r0 && s0 && w.lo.extractLsb' 1 7 = 0 && f3 = 0 && f4 = 0)
          (some (.vredm k t f1 f2 (w.lo.extractLsb' 0 1 = 1) m))
      | _, _ => none
    | 2 => match maskOf w.mask, Rnd.ofCode w.round with
      | some m, some r => chk (w.fmt = 8 && s0 && lo0 && f3 = 0 && f4 = 0) (some (.vredf k f1 f2 m r))
      | _, _ => none
    | 3 => chk (w.fmt = 12 && r0 && s0 && lo0 && m0 && f3 = 0 && f4 = 0) (wfOnly (.vxadd k f1 f2))
    | 4 => match DrainTy.ofFmt w.fmt, Rnd.ofCode w.round with
      | some t, some r => chk (s0 && m0 && f3 = 0 && f4 = 0) (laneChk lenient (.vxrnd k t f1 f2 w.lo r))
      | _, _ => none
    | 5 => match FloatTy.ofFmt w.fmt, maskOf w.mask with
      | some t, some m => chk (r0 && s0 && lo0) (wfOnly (.vxscan k t f1 f2 f3 f4 m))
      | _, _ => none
    | 6 => match maskOf w.mask with
      | some m => chk (w.fmt = 6 && r0 && s0 && lo0) (some (.vrng k f1 f2 f3 f4 m))
      | none => none
    | _ => none
  | 0x34 => match fn with
    | 0 => match LaneTy.ofFmt w.fmt, maskOf w.mask with
      | some t, some m => chk (r0 && s0 && lo0 && f4 = 0) (some (.vshf k t f1 f2 f3 m))
      | _, _ => none
    | 1 => match LaneTy.ofFmt w.fmt, maskOf w.mask with
      | some t, some m => chk (r0 && s0 && lo0 && f3 = 0 && f4 = 0) (some (.vbc k t f1 f2 m))
      | _, _ => none
    | 2 => match IntTy.ofFmt w.fmt, maskOf w.mask with
      | some t, some m => chk (r0 && s0 && lo0 && f3 = 0 && f4 = 0) (some (.viota k t f1 f2 m))
      | _, _ => none
    | 3 => chk (r0 && s0 && m0 && f3 = 0 && f4 = 0)
      (match (w.lo.extractLsb' 0 2).toNat with
      | 0 => match LaneTy.ofFmt w.fmt with
        | some t => laneChk lenient (.vmx k (.get t (w.lo.extractLsb' 2 6) f1 f2))
        | none => none
      | 1 => match LaneTy.ofFmt w.fmt with
        | some t => laneChk lenient (.vmx k (.put t (w.lo.extractLsb' 2 6) f1 f2))
        | none => none
      | 2 => match k5 f2 with
        | some ka => chk (w.fmt = 0 && w.lo.extractLsb' 2 6 = 0) (some (.vmx k (.kget f1 ka)))
        | none => none
      | _ => match k5 f1 with
        | some kd => chk (w.fmt = 0 && w.lo.extractLsb' 2 6 = 0) (some (.vmx k (.kput kd f2)))
        | none => none)
    | 4 => chk (w.fmt = 0 && r0 && s0 && m0 && f4 = 0)
      (match k5 f2, k5 f3 with
      | some ka, some kb =>
        if w.lo = 6 then chk (kb = 0) (some (.kop k (.pop f1 ka)))
        else match k5 f1 with
          | some kd => match w.lo.toNat with
            | 0 => some (.kop k (.and kd ka kb))
            | 1 => some (.kop k (.or kd ka kb))
            | 2 => some (.kop k (.xor kd ka kb))
            | 3 => some (.kop k (.andn kd ka kb))
            | 4 => chk (kb = 0) (some (.kop k (.not kd ka)))
            | 5 => chk (kb = 0) (some (.kop k (.first kd ka)))
            | 7 => chk (ka = 0 && kb = 0) (some (.kop k (.set kd)))
            | _ => none
          | none => none
      | _, _ => none)
    | _ => none
  | 0x35 => match fn with
    | 0 => match FloatTy.ofFmt w.fmt, maskOf w.mask with
      | some t, some m => chk (r0 && s0 && lo0 && f3 = 0 && f4 = 0) (some (.qhist k t f1 f2 m))
      | _, _ => none
    | 1 => chk (w.fmt = 0 && r0 && s0 && lo0 && m0 && f4 = 0) (some (.qscale k f1 f2 f3))
    | 2 => match PbTy.ofFmt w.fmt, FloatTy.ofFmt (w.lo.extractLsb' 4 4) with
      | some p, some t => chk (r0 && s0 && m0 && w.lo.extractLsb' 0 4 = 0 && f4 = 0) (some (.qpack k p t f1 f2 f3))
      | _, _ => none
    | 3 => match FloatTy.ofFmt w.fmt, PbTy.ofFmt (w.lo.extractLsb' 4 4) with
      | some t, some p => chk (r0 && s0 && m0 && w.lo.extractLsb' 0 4 = 0 && f3 = 0 && f4 = 0) (some (.qunpk k t p f1 f2))
      | _, _ => none
    | 4 => chk (w.fmt = 0 && r0 && s0 && m0 && f3 = 0 && f4 = 0 && w.lo.extractLsb' 2 6 = 0)
      (match (w.lo.extractLsb' 0 2).toNat with
      | 0 => some (.vptag k (.get f1 f2))
      | 1 => chk (f2 = 0) (some (.vptag k (.set f1)))
      | 2 => chk (f2 = 0) (some (.vptag k (.clr f1)))
      | _ => some (.vptag k (.or f1 f2)))
    | _ => none
  | _ => none

/-- A tile field, or the ring pointer with the field zero (R299). -/
def accOf (f : BitVec 5) (ring : Bool) : Option AccSel :=
  if ring then (if f = 0 then some .ring else none)
  else match a5 f with
    | some a => some (.tile a)
    | none => none

/-- Majors 0x38 to 0x3b (R176, R299). -/
def decodeMat (maj fn : Nat) (f1 f2 f3 f4 : BitVec 5) (w : Word1) : Option Instr :=
  let k := w.k
  let ring := w.lo.extractLsb' 3 1 = 1
  let lo3 := w.lo.extractLsb' 0 3
  let r0 := w.round = 0
  let fmt0 := w.fmt = 0
  chk (!w.strict && w.mask = 0 && w.lo.extractLsb' 4 4 = 0)
    (match maj, fn with
    | 0x38, 0 => match MatTy.ofFmt w.fmt, l5 f1 with
      | some t, some l => chk (r0 && w.lo = 0 && f4 = 0) (some (.mlda k t l f2 f3))
      | _, _ => none
    | 0x38, 1 => match MatTy.ofFmt w.fmt, l5 f1 with
      | some t, some l => chk (r0 && w.lo = 0 && f4 = 0) (some (.mldb k t l f2 f3))
      | _, _ => none
    | 0x38, 2 => match MatTy.ofFmt w.fmt, l5 f1 with
      | some t, some l => chk (r0 && w.lo = 0) (some (.mgth k t l f2 f3 f4))
      | _, _ => none
    | 0x39, 0 => match accOf f1 ring, l5 f2, l5 f3 with
      | some acc, some la, some lb => chk (r0 && fmt0 && lo3 = 0 && f4 = 0) (some (.mmac k acc la lb))
      | _, _, _ => none
    | 0x39, 1 => match accOf f1 ring with
      | some acc => chk (r0 && fmt0 && lo3 = 0 && f2 = 0 && f3 = 0 && f4 = 0) (some (.mzero k acc))
      | none => none
    | 0x39, 2 => chk (r0 && fmt0 && w.lo.extractLsb' 1 7 = 0 && f1 = 0 && f2 = 0 && f3 = 0 && f4 = 0)
        (some (.madv k (w.lo.extractLsb' 0 1 = 1)))
    | 0x3a, 0 => match accOf f1 ring with
      | some acc => chk (r0 && fmt0 && lo3 = 0 && f3 = 0 && f4 = 0) (some (.mspl k acc f2))
      | none => none
    | 0x3a, 1 => match accOf f1 ring with
      | some acc => chk (r0 && fmt0 && lo3 = 0 && f3 = 0 && f4 = 0) (some (.mfil k acc f2))
      | none => none
    | 0x3a, 2 => match accOf f1 ring, DrainTy.ofFmt w.fmt, Rnd.ofCode w.round with
      | some acc, some t, some r => chk (w.lo.extractLsb' 1 2 = 0)
          (wfOnly (.mdrn k t acc f2 f3 f4 (w.lo.extractLsb' 0 1 = 1) r))
      | _, _, _ => none
    | 0x3a, 3 => chk (r0 && fmt0 && w.lo = 0 && f2 = 0 && f3 = 0 && f4 = 0) (some (.mepi k f1))
    | 0x3b, 0 => chk (r0 && fmt0 && w.lo.extractLsb' 2 6 = 0 && f3 = 0 && f4 = 0)
      (match (w.lo.extractLsb' 0 2).toNat with
      | 0 => match a5 f2 with
        | some a => some (.mrtg k (.get f1 a))
        | none => none
      | 1 => match a5 f1 with
        | some a => some (.mrtg k (.put a f2))
        | none => none
      | 2 => match a5 f1 with
        | some a => some (.mrtg k (.or a f2))
        | none => none
      | _ => none)
    | 0x3b, 1 => chk (r0 && fmt0 && w.lo.extractLsb' 3 5 = 0 && w.lo.extractLsb' 1 1 = 0 && f2 = 0 && f3 = 0 && f4 = 0)
        (some (.mstat k f1 (w.lo.extractLsb' 0 1 = 1) (w.lo.extractLsb' 2 1 = 1)))
    | _, _ => none)

/-- A b register in its field (R159). -/
def b5 (f : BitVec 5) : Option BReg := k5 f

/-- Majors 0x3c and 0x3d (R177, R268). -/
def decodeCopy (maj fn : Nat) (f1 f2 f3 f4 : BitVec 5) (w : Word1) : Option Instr :=
  let k := w.k
  let fmt0 := w.fmt = 0
  let s0 := !w.strict
  let lo0 := w.lo = 0
  chk (w.round = 0 && w.mask = 0)
    (match maj, fn with
    | 0x3c, 0 => chk (fmt0 && s0 && lo0) (wfOnly (.cpy k f1 f2 f3 f4))
    | 0x3c, 1 => chk (fmt0 && lo0) (wfOnly (.cpyg k f1 f2 f3 f4 w.strict))
    | 0x3c, 2 => chk (fmt0 && s0 && lo0) (some (.cpyr k f1 f2 f3 f4))
    | 0x3c, 3 => chk (fmt0 && s0 && lo0) (some (.cpym k f1 f2 f3 f4))
    | 0x3c, 4 => match RapTy.ofFmt w.fmt, RapOp.ofCode (w.lo.extractLsb' 0 2) with
      | some t, some op => chk (s0 && w.lo.extractLsb' 2 6 = 0) (wfOnly (.cpyc k t op f1 f2 f3 f4))
      | _, _ => none
    | 0x3d, 0 => chk (fmt0 && s0 && w.lo.extractLsb' 6 1 = 0)
        (some (.claim k f1 f2 f3 f4 (w.lo.extractLsb' 0 6) (w.lo.extractLsb' 7 1 = 1)))
    | 0x3d, 1 => match b5 f1 with
      | some b => chk (fmt0 && s0 && lo0) (some (.cbdef k b f2 f3 f4))
      | none => none
    | 0x3d, 2 => match b5 f2 with
      | some b => chk (fmt0 && s0 && f3 = 0 && f4 = 0) (some (.cbadv k f1 b w.lo))
      | none => none
    | 0x3d, 3 => chk (fmt0 && s0 && f1 = 0 && f2 = 0 && f3 = 0 && f4 = 0 && k.tok = none) (wfOnly (.cpyx k.wait w.lo))
    | 0x3d, 4 => chk (fmt0 && s0 && lo0 && f2 = 0 && f3 = 0 && f4 = 0 && k.tok = none) (wfOnly (.twait k.wait f1))
    | _, _ => none)

/-- A double word (R163, R164, R175 to R177). -/
def decode2 (lenient : Bool) (w0 w1 : BitVec 32) : Option Instr :=
  match splitWord1 w1 with
  | none => none
  | some w =>
    let maj := (w0.extractLsb' 26 6).toNat
    let fn := (w0.extractLsb' 20 6).toNat
    let f1 := w0.extractLsb' 15 5
    let f2 := w0.extractLsb' 10 5
    let f3 := w0.extractLsb' 5 5
    let f4 := w0.extractLsb' 0 5
    if maj < 0x38 then decodeVec lenient maj fn f1 f2 f3 f4 w
    else if maj < 0x3c then decodeMat maj fn f1 f2 f3 f4 w
    else decodeCopy maj fn f1 f2 f3 f4 w

/-- The reserved format codes (R41). -/
def fmtReserved (c : BitVec 4) : Bool := c = 0xe || c = 0xf

/-- The instructions whose bits [7:4] of word 1 are a second format (R228). -/
def takesTwoTypes (w0 : BitVec 32) : Bool :=
  let mf := w0.extractLsb' 20 12
  mf = 0xc4a || mf = 0xd42 || mf = 0xd43

/-- `w` with `c` in the four bits from `lo` on. -/
def putNibble (w : BitVec 32) (lo : Nat) (c : BitVec 4) : BitVec 32 :=
  (w &&& ~~~((0xf : BitVec 32) <<< lo)) ||| (c.setWidth 32 <<< lo)

/-- Every format code that is not reserved. -/
def fmtCodes : List (BitVec 4) := [0, 1, 2, 3, 4, 5, 6, 7, 8, 9, 10, 11, 12, 13]

/-- Would the double word be legal with some code in place of its reserved ones? Then R179 applies. -/
def pointerFault2 (vregs : Nat) (w0 w1 : BitVec 32) : Bool :=
  let r1 := fmtReserved (w1.extractLsb' 12 4)
  let r2 := takesTwoTypes w0 && fmtReserved (w1.extractLsb' 4 4)
  (r1 || r2) && (if r1 then fmtCodes else [w1.extractLsb' 12 4]).any fun c =>
    (if r2 then fmtCodes else [w1.extractLsb' 4 4]).any fun c2 =>
      match decode2 true w0 (putNibble (putNibble w1 12 c) 4 c2) with
      | some i => i.vregsOk vregs
      | none => false

/-- The same for the format field of RAP (R173, R179). -/
def pointerFault1 (w : BitVec 32) : Bool :=
  (w.extractLsb' 26 6 = 0x21) && fmtReserved (w.extractLsb' 0 4) && fmtCodes.any fun c => (decode1 (putNibble w 0 c)).isSome

/-- Is the first word of a double word (R158)? -/
def isDouble (w0 : BitVec 32) : Bool := 0x30 ≤ (w0.extractLsb' 26 6).toNat

/-- Bytes an instruction with this first word takes (R158). -/
def lengthOf (w0 : BitVec 32) : Nat := if isDouble w0 then 8 else 4

/-- The Damvon decoder. `vregs` is the launch's vector register budget (R223); word 1 is ignored for a single word. -/
def decodeDamvon (vregs : Nat) (w0 w1 : BitVec 32) : DecodeResult :=
  if isDouble w0 then
    match decode2 false w0 w1 with
    | some i => if i.vregsOk vregs then .ok i else .illegal
    | none => if pointerFault2 vregs w0 w1 then .pointer else .illegal
  else
    match decode1 w0 with
    | some i => .ok i
    | none => if pointerFault1 w0 then .pointer else .illegal

/-! ## Crium (R343 to R347) -/

def n6 (f : BitVec 6) : Option NReg := if f.extractLsb' 5 1 = 0 then some (f.extractLsb' 0 5) else none
def c6 (f : BitVec 6) : Option CReg := if f.extractLsb' 4 2 = 0 then some (f.extractLsb' 0 4) else none
def s6 (f : BitVec 6) : Option SReg := if f.extractLsb' 4 2 = 0 then some (f.extractLsb' 0 4) else none
def q6 (f : BitVec 6) : Option QReg := if f.extractLsb' 3 3 = 0 then some (f.extractLsb' 0 3) else none

/-- A one-bit modifier in flags [0] (R346). -/
def flag1 (fl : BitVec 6) : Option Bool := if fl.extractLsb' 1 5 = 0 then some (fl.extractLsb' 0 1 = 1) else none

/-- The assigned opcodes (R346). -/
def criumAssigned (op : BitVec 8) : Bool :=
  let o := op.toNat
  (0x01 ≤ o && o ≤ 0x06) || (0x08 ≤ o && o ≤ 0x0b) || (0x10 ≤ o && o ≤ 0x16) || (0x18 ≤ o && o ≤ 0x1c) ||
  (0x20 ≤ o && o ≤ 0x21) || (0x28 ≤ o && o ≤ 0x2b) || (0x30 ≤ o && o ≤ 0x31) || (0x38 ≤ o && o ≤ 0x39) ||
  (0x40 ≤ o && o ≤ 0x44)

def decodeCriumFields (op : BitVec 8) (a b c fl : BitVec 6) (imm : BitVec 32) : Option Instr :=
  let a0 := a = 0
  let b0 := b = 0
  let c0 := c = 0
  let f0 := fl = 0
  let i0 := imm = 0
  match op.toNat with
  | 0x01 => match n6 a, flag1 fl with
    | some ra, some hi => chk (b0 && c0) (some (.nmovi hi ra imm))
    | _, _ => none
  | 0x02 => match n6 a, n6 b, n6 c with
    | some x, some y, some z => chk (f0 && i0) (some (.nadd x y z))
    | _, _, _ => none
  | 0x03 => match n6 a, n6 b with
    | some x, some y => chk (c0 && f0) (some (.naddi x y imm))
    | _, _ => none
  | 0x04 => match n6 a, n6 b, n6 c with
    | some x, some y, some z => chk (f0 && i0) (some (.nsub x y z))
    | _, _, _ => none
  | 0x05 => match n6 a, n6 b, n6 c with
    | some x, some y, some z => chk (f0 && i0) (some (.nmul x y z))
    | _, _, _ => none
  | 0x06 => match n6 a, n6 b, n6 c, flag1 fl with
    | some x, some y, some z, some u => chk i0 (some (.nslt u x y z))
    | _, _, _, _ => none
  | 0x08 => match n6 a, n6 b, BrCond.ofCode fl with
    | some x, some y, some cd => chk c0 (some (.br cd x y imm))
    | _, _, _ => none
  | 0x09 => chk (a0 && b0 && c0 && f0) (some (.jmp imm))
  | 0x0a => match n6 a with
    | some x => chk (b0 && c0 && f0) (some (.call x imm))
    | none => none
  | 0x0b => match n6 b with
    | some y => chk (a0 && c0 && f0 && i0) (some (.ret y))
    | none => none
  | 0x10 => match c6 a, n6 b with
    | some x, some y => chk (c0 && f0 && imm.extractLsb' 16 16 = 0) (some (.cnew x y (imm.extractLsb' 0 16)))
    | _, _ => none
  | 0x11 => match c6 a, c6 b, n6 c with
    | some x, some y, some z => chk (f0 && i0) (some (.cfork x y z))
    | _, _, _ => none
  | 0x12 => match c6 a, n6 b with
    | some x, some y => chk (c0 && f0 && i0) (some (.ctrim x y))
    | _, _ => none
  | 0x13 => match c6 a with
    | some x => chk (b0 && c0 && f0 && i0) (some (.cfree x))
    | none => none
  | 0x14 => match n6 a, c6 b with
    | some x, some y => chk (c0 && f0 && i0) (some (.clen x y))
    | _, _ => none
  | 0x15 => match n6 a, c6 b with
    | some x, some y => chk (c0 && f0 && imm.extractLsb' 6 26 = 0) (some (.cget x y (imm.extractLsb' 0 6)))
    | _, _ => none
  | 0x16 => match c6 a with
    | some x => chk (b0 && c0 && f0 && imm.extractLsb' 16 16 = 0) (some (.cbind x (imm.extractLsb' 0 16)))
    | none => none
  | 0x18 => match s6 a, n6 b, flag1 fl with
    | some x, some y, some ids => chk (c0 && i0) (some (.sld ids x y))
    | _, _, _ => none
  | 0x19 => match s6 a, n6 b with
    | some x, some y => chk (c0 && f0 && i0) (some (.sst x y))
    | _, _ => none
  | 0x1a => match s6 a, s6 b, s6 c with
    | some x, some y, some z => chk (f0 && i0) (some (.scat x y z))
    | _, _, _ => none
  | 0x1b => match s6 a, s6 b, n6 c with
    | some x, some y, some z => chk f0 (some (.ssub x y z imm))
    | _, _, _ => none
  | 0x1c => match n6 a, s6 b with
    | some x, some y => chk (c0 && f0 && i0) (some (.slen x y))
    | _, _ => none
  | 0x20 => match s6 a, s6 b, c6 c with
    | some x, some y, some z => chk (f0 && i0) (some (.tokz x y z))
    | _, _, _ => none
  | 0x21 => match s6 a, s6 b, c6 c with
    | some x, some y, some z => chk (f0 && i0) (some (.detok x y z))
    | _, _, _ => none
  | 0x28 => match c6 a, s6 b, flag1 fl with
    | some x, some y, some t => chk (c0 && i0) (some (.append t x y))
    | _, _, _ => none
  | 0x29 => match c6 a, s6 b, flag1 fl with
    | some x, some y, some t => chk (c0 && i0) (some (.genu t x y))
    | _, _, _ => none
  | 0x2a => match q6 a, c6 b, s6 c, flag1 fl with
    | some x, some y, some z, some t => chk i0 (some (.score t x y z))
    | _, _, _, _ => none
  | 0x2b => match n6 a, c6 b, s6 c, flag1 fl with
    | some x, some y, some z, some t =>
      chk (imm.extractLsb' 11 21 = 0) (wfOnly (.choose t x y z (imm.extractLsb' 0 8) (imm.extractLsb' 8 3)))
    | _, _, _, _ => none
  | 0x30 => match c6 a, n6 b with
    | some x, some y => chk (c0 && f0 && i0) (some (.setgen x y))
    | _, _ => none
  | 0x31 => match c6 a, n6 b with
    | some x, some y => chk (c0 && f0)
        (wfOnly (.setfr x y (imm.extractLsb' 0 16) (imm.extractLsb' 16 12) (imm.extractLsb' 28 4)))
    | _, _ => none
  | 0x38 => match n6 a, q6 b, q6 c with
    | some x, some y, some z => chk (f0 && i0) (some (.qcmp x y z))
    | _, _, _ => none
  | 0x39 => match n6 a, q6 b, Rnd.ofCode (fl.extractLsb' 0 3), DrainTy.ofQ (fl.extractLsb' 3 2) with
    | some x, some y, some r, some t => chk (c0 && i0 && fl.extractLsb' 5 1 = 0) (some (.qrnd t r x y))
    | _, _, _, _ => none
  | 0x40 => match n6 a, n6 b, n6 c, BrCond.ofCode fl with
    | some x, some y, some z, some cd => chk i0 (some (.waitc cd x y z))
    | _, _, _, _ => none
  | 0x41 => chk (a0 && b0 && c0 && f0 && i0) (some .yield)
  | 0x42 => match n6 a, flag1 fl with
    | some x, some cl => chk (b0 && c0 && i0) (some (.stat cl x))
    | _, _ => none
  | 0x43 => chk (a0 && b0 && c0 && f0) (some (.enda imm))
  | 0x44 => chk (a0 && b0 && c0 && f0) (some (.trapa imm))
  | _ => none

/-- The Crium decoder (R347). -/
def decodeCrium (w : Word) : DecodeResult :=
  let op := w.extractLsb' 56 8
  if criumAssigned op then
    match decodeCriumFields op (w.extractLsb' 50 6) (w.extractLsb' 44 6) (w.extractLsb' 38 6) (w.extractLsb' 32 6)
        (w.extractLsb' 0 32) with
    | some i => .ok i
    | none => .field
  else .unassigned

/-! ## Bytes -/

/-- Little-endian words of a list of bytes (R4). -/
def word32 (b0 b1 b2 b3 : Byte) : BitVec 32 := b3 ++ b2 ++ b1 ++ b0

/-- Decode Damvon code from bytes: the instruction with the bytes after it; `none` where the bytes run out. -/
def decodeBytes (vregs : Nat) : List Byte → Option (DecodeResult × List Byte)
  | b0 :: b1 :: b2 :: b3 :: rest =>
    let w0 := word32 b0 b1 b2 b3
    if isDouble w0 then
      match rest with
      | c0 :: c1 :: c2 :: c3 :: rest' => some (decodeDamvon vregs w0 (word32 c0 c1 c2 c3), rest')
      | _ => none
    else some (decodeDamvon vregs w0 0, rest)
  | _ => none

/-! ## The encoder -/

def encR (maj : BitVec 6) (rd ra rb : BitVec 5) (fn : BitVec 11) : BitVec 32 := maj ++ rd ++ ra ++ rb ++ fn
def encI (maj : BitVec 6) (rd ra : BitVec 5) (imm : BitVec 16) : BitVec 32 := maj ++ rd ++ ra ++ imm
def encJ (maj : BitVec 6) (off : BitVec 26) : BitVec 32 := maj ++ off
def encD0 (maj fn : BitVec 6) (f1 f2 f3 f4 : BitVec 5) : BitVec 32 := maj ++ fn ++ f1 ++ f2 ++ f3 ++ f4

def tokBits : Option TReg → BitVec 4
  | none => 0
  | some t => t ++ (1 : BitVec 1)

def bit1 (b : Bool) : BitVec 1 := if b then 1 else 0

def encD1 (k : EngKeys) (round : BitVec 3) (strict : Bool) (fmt mask : BitVec 4) (lo : BitVec 8) : BitVec 32 :=
  k.wait ++ tokBits k.tok ++ round ++ bit1 strict ++ fmt ++ mask ++ lo

def x3 (k : BitVec 3) : BitVec 5 := (0 : BitVec 2) ++ k
def x2 (a : BitVec 2) : BitVec 5 := (0 : BitVec 3) ++ a
def x1 (l : BitVec 1) : BitVec 5 := (0 : BitVec 4) ++ l

def accField : AccSel → BitVec 5
  | .tile a => x2 a
  | .ring => 0

def accBit : AccSel → BitVec 1
  | .tile _ => 0
  | .ring => 1

/-- A double word from its parts. -/
def encD (maj fn : BitVec 6) (f1 f2 f3 f4 : BitVec 5) (k : EngKeys) (round : BitVec 3) (strict : Bool)
    (fmt mask : BitVec 4) (lo : BitVec 8) : List (BitVec 32) :=
  [encD0 maj fn f1 f2 f3 f4, encD1 k round strict fmt mask lo]

/-- A Crium word as two 32-bit words, the low one first (R343). -/
def encC (op : BitVec 8) (a b c fl : BitVec 6) (imm : BitVec 32) : List (BitVec 32) :=
  [imm, op ++ a ++ b ++ c ++ fl]

def n5 (r : BitVec 5) : BitVec 6 := (0 : BitVec 1) ++ r
def n4 (r : BitVec 4) : BitVec 6 := (0 : BitVec 2) ++ r
def n3 (r : BitVec 3) : BitVec 6 := (0 : BitVec 3) ++ r
def fl1 (b : Bool) : BitVec 6 := (0 : BitVec 5) ++ bit1 b

/-- The words of an instruction, the first at the lowest address; an event has none. -/
def encode : Instr → List (BitVec 32)
  | .add rd ra rb => [encR 0x01 rd ra rb 0x000]
  | .sub rd ra rb => [encR 0x01 rd ra rb 0x001]
  | .mul rd ra rb => [encR 0x01 rd ra rb 0x002]
  | .mulh rd ra rb => [encR 0x01 rd ra rb 0x003]
  | .mulhn rd ra rb => [encR 0x01 rd ra rb 0x004]
  | .div rd ra rb => [encR 0x01 rd ra rb 0x005]
  | .divn rd ra rb => [encR 0x01 rd ra rb 0x006]
  | .rem rd ra rb => [encR 0x01 rd ra rb 0x007]
  | .remn rd ra rb => [encR 0x01 rd ra rb 0x008]
  | .and rd ra rb => [encR 0x01 rd ra rb 0x009]
  | .or rd ra rb => [encR 0x01 rd ra rb 0x00a]
  | .xor rd ra rb => [encR 0x01 rd ra rb 0x00b]
  | .andn rd ra rb => [encR 0x01 rd ra rb 0x00c]
  | .shl rd ra rb => [encR 0x01 rd ra rb 0x00d]
  | .shr rd ra rb => [encR 0x01 rd ra rb 0x00e]
  | .sra rd ra rb => [encR 0x01 rd ra rb 0x00f]
  | .min rd ra rb => [encR 0x01 rd ra rb 0x010]
  | .minn rd ra rb => [encR 0x01 rd ra rb 0x011]
  | .max rd ra rb => [encR 0x01 rd ra rb 0x012]
  | .maxn rd ra rb => [encR 0x01 rd ra rb 0x013]
  | .slt rd ra rb => [encR 0x01 rd ra rb 0x014]
  | .sltn rd ra rb => [encR 0x01 rd ra rb 0x015]
  | .seq rd ra rb => [encR 0x01 rd ra rb 0x016]
  | .clz rd ra => [encR 0x01 rd ra 0 0x017]
  | .popc rd ra => [encR 0x01 rd ra 0 0x018]
  | .addi rd ra imm => [encI 0x02 rd ra imm]
  | .andi rd ra imm => [encI 0x03 rd ra imm]
  | .ori rd ra imm => [encI 0x04 rd ra imm]
  | .xori rd ra imm => [encI 0x05 rd ra imm]
  | .shli rd ra sh => [encI 0x06 rd ra ((0 : BitVec 10) ++ sh)]
  | .shri rd ra sh => [encI 0x07 rd ra ((0 : BitVec 10) ++ sh)]
  | .srai rd ra sh => [encI 0x08 rd ra ((0 : BitVec 10) ++ sh)]
  | .slti rd ra imm => [encI 0x09 rd ra imm]
  | .lui rd imm => [encI 0x0a rd 0 imm]
  | .ld t rd base off => [encI 0x10 rd base (t.code ++ off)]
  | .st t data base off => [encI 0x11 data base (t.code ++ off)]
  | .lda t rd base sc => [encI 0x12 rd base (t.code ++ sc.code ++ (0 : BitVec 9))]
  | .stl t data base sc => [encI 0x13 data base (t.code ++ sc.code ++ (0 : BitVec 9))]
  | .amo op w sc rd ra rb => [encR 0x14 rd ra rb (sc.code ++ op.code ++ bit1 w ++ (0 : BitVec 3))]
  | .cas w sc rd ra rb => [encR 0x14 rd ra rb (sc.code ++ (0 : BitVec 4) ++ bit1 w ++ (1 : BitVec 3))]
  | .fence k sc => [encR 0x14 0 0 0 (sc.code ++ (0 : BitVec 2) ++ k.code ++ (0 : BitVec 1) ++ (2 : BitVec 3))]
  | .addp rd ra rb => [encR 0x16 rd ra rb 0]
  | .addpe rd ra rb => [encR 0x16 rd ra rb 1]
  | .pfmt rd ra rb => [encR 0x16 rd ra rb 2]
  | .pget rd ra sel => [encR 0x16 rd ra sel.code 3]
  | .beq ra rb off => [encI 0x18 ra rb off]
  | .bne ra rb off => [encI 0x19 ra rb off]
  | .blt ra rb off => [encI 0x1a ra rb off]
  | .bge ra rb off => [encI 0x1b ra rb off]
  | .bltn ra rb off => [encI 0x1c ra rb off]
  | .bgen ra rb off => [encI 0x1d ra rb off]
  | .jal off => [encJ 0x1e off]
  | .jalr rd ra off => [encI 0x1f rd ra (off ++ (0 : BitVec 2))]
  | .loop ra body => [encI 0x1f 0 ra (body ++ (1 : BitVec 2))]
  | .loopi cnt body => [encJ 0x1f (cnt ++ body ++ (2 : BitVec 2))]
  | .send rd ra rb n => [encR 0x20 rd ra rb ((0 : BitVec 8) ++ n)]
  | .rap t op ordered sc rd ra rb =>
    [encR 0x21 rd ra rb ((0 : BitVec 1) ++ sc.code ++ bit1 ordered ++ op.code ++ t.fmt)]
  | .bind e prio ra rb => [encR 0x22 0 ra rb (prio ++ e)]
  | .arm e barrier ra => [encR 0x23 0 ra 0 ((0 : BitVec 1) ++ bit1 barrier ++ e)]
  | .enab e on => [encR 0x24 0 0 0 ((0 : BitVec 1) ++ bit1 on ++ e)]
  | .arrv e rd ra rb => [encR 0x25 rd ra rb ((0 : BitVec 3) ++ e)]
  | .waitb e ra rb => [encR 0x26 0 ra rb ((0 : BitVec 3) ++ e)]
  | .endAct retire => [encR 0x27 0 0 0 ((0 : BitVec 10) ++ bit1 retire)]
  | .mfs rd idx => [encI 0x28 rd 0 ((0 : BitVec 6) ++ idx)]
  | .mts idx ra => [encI 0x29 0 ra ((0 : BitVec 6) ++ idx)]
  | .nop => [encR 0x2a 0 0 0 0]
  | .synce eng => [encR 0x2a 0 0 0 ((1 : BitVec 3) ++ (0 : BitVec 5) ++ eng)]
  | .trap code => [encR 0x2a 0 0 0 ((2 : BitVec 3) ++ code)]
  | .bkpt code => [encR 0x2a 0 0 0 ((3 : BitVec 3) ++ code)]
  | .vld k t vd xa m => encD 0x30 0 vd xa 0 0 k 0 false t.fmt (maskBits m) 0
  | .vst k t vs xa m => encD 0x30 1 vs xa 0 0 k 0 false t.fmt (maskBits m) 0
  | .vlds k t vd xa xs m => encD 0x30 2 vd xa xs 0 k 0 false t.fmt (maskBits m) 0
  | .vsts k t vs xa xs m => encD 0x30 3 vs xa xs 0 k 0 false t.fmt (maskBits m) 0
  | .vgth k t vd xa vb kn strict m => encD 0x30 4 vd xa vb (x3 kn) k 0 strict t.fmt (maskBits m) 0
  | .vsct k t vs xa vb m => encD 0x30 5 vs xa vb 0 k 0 false t.fmt (maskBits m) 0
  | .vadd k t vd va vb m r => encD 0x31 0 vd va vb 0 k r.code false t.fmt (maskBits m) 0
  | .vsub k t vd va vb m r => encD 0x31 1 vd va vb 0 k r.code false t.fmt (maskBits m) 0
  | .vmul k t vd va vb m r => encD 0x31 2 vd va vb 0 k r.code false t.fmt (maskBits m) 0
  | .vfma k t vd va vb vc m r => encD 0x31 3 vd va vb vc k r.code false t.fmt (maskBits m) 0
  | .vmin k t vd va vb m => encD 0x31 4 vd va vb 0 k 0 false t.fmt (maskBits m) 0
  | .vmax k t vd va vb m => encD 0x31 5 vd va vb 0 k 0 false t.fmt (maskBits m) 0
  | .vabs k t vd va m => encD 0x31 6 vd va 0 0 k 0 false t.fmt (maskBits m) 0
  | .vneg k t vd va m => encD 0x31 7 vd va 0 0 k 0 false t.fmt (maskBits m) 0
  | .vcmp k t kd va vb c m => encD 0x31 8 (x3 kd) va vb 0 k 0 false t.fmt (maskBits m) c.code
  | .vsel k t vd va vb sel => encD 0x31 9 vd va vb 0 k 0 false t.fmt (maskBits (some sel)) 0
  | .vcvt k td ts vd va part m r => encD 0x31 10 vd va 0 0 k r.code false td.fmt (maskBits m) (ts.fmt ++ part)
  | .vexp2 k t vd va m r => encD 0x32 0 vd va 0 0 k r.code false t.fmt (maskBits m) 0
  | .vlog2 k t vd va m r => encD 0x32 1 vd va 0 0 k r.code false t.fmt (maskBits m) 0
  | .vrcp k t vd va m r => encD 0x32 2 vd va 0 0 k r.code false t.fmt (maskBits m) 0
  | .vrcpa k t vd va m => encD 0x32 3 vd va 0 0 k 0 false t.fmt (maskBits m) 0
  | .vrsqa k t vd va m => encD 0x32 4 vd va 0 0 k 0 false t.fmt (maskBits m) 0
  | .vsqrt k t vd va m r => encD 0x32 5 vd va 0 0 k r.code false t.fmt (maskBits m) 0
  | .vredx k t vd va acc m => encD 0x33 0 vd va 0 0 k 0 false t.fmt (maskBits m) ((0 : BitVec 7) ++ bit1 acc)
  | .vredm k t vd va isMin m => encD 0x33 1 vd va 0 0 k 0 false t.fmt (maskBits m) ((0 : BitVec 7) ++ bit1 isMin)
  | .vredf k vd va m r => encD 0x33 2 vd va 0 0 k r.code false 8 (maskBits m) 0
  | .vxadd k vd va => encD 0x33 3 vd va 0 0 k 0 false 12 0 0
  | .vxrnd k t vd va lane r => encD 0x33 4 vd va 0 0 k r.code false t.fmt 0 lane
  | .vxscan k t xd va vb vc m => encD 0x33 5 xd va vb vc k 0 false t.fmt (maskBits m) 0
  | .vrng k vd xs xq xi m => encD 0x33 6 vd xs xq xi k 0 false 6 (maskBits m) 0
  | .vshf k t vd va vb m => encD 0x34 0 vd va vb 0 k 0 false t.fmt (maskBits m) 0
  | .vbc k t vd xa m => encD 0x34 1 vd xa 0 0 k 0 false t.fmt (maskBits m) 0
  | .viota k t vd xa m => encD 0x34 2 vd xa 0 0 k 0 false t.fmt (maskBits m) 0
  | .vmx k (.get t lane xd va) => encD 0x34 3 xd va 0 0 k 0 false t.fmt 0 (lane ++ (0 : BitVec 2))
  | .vmx k (.put t lane vd xa) => encD 0x34 3 vd xa 0 0 k 0 false t.fmt 0 (lane ++ (1 : BitVec 2))
  | .vmx k (.kget xd ka) => encD 0x34 3 xd (x3 ka) 0 0 k 0 false 0 0 2
  | .vmx k (.kput kd xa) => encD 0x34 3 (x3 kd) xa 0 0 k 0 false 0 0 3
  | .kop k (.and kd ka kb) => encD 0x34 4 (x3 kd) (x3 ka) (x3 kb) 0 k 0 false 0 0 0
  | .kop k (.or kd ka kb) => encD 0x34 4 (x3 kd) (x3 ka) (x3 kb) 0 k 0 false 0 0 1
  | .kop k (.xor kd ka kb) => encD 0x34 4 (x3 kd) (x3 ka) (x3 kb) 0 k 0 false 0 0 2
  | .kop k (.andn kd ka kb) => encD 0x34 4 (x3 kd) (x3 ka) (x3 kb) 0 k 0 false 0 0 3
  | .kop k (.not kd ka) => encD 0x34 4 (x3 kd) (x3 ka) 0 0 k 0 false 0 0 4
  | .kop k (.first kd ka) => encD 0x34 4 (x3 kd) (x3 ka) 0 0 k 0 false 0 0 5
  | .kop k (.pop xd ka) => encD 0x34 4 xd (x3 ka) 0 0 k 0 false 0 0 6
  | .kop k (.set kd) => encD 0x34 4 (x3 kd) 0 0 0 k 0 false 0 0 7
  | .qhist k t xh va m => encD 0x35 0 xh va 0 0 k 0 false t.fmt (maskBits m) 0
  | .qscale k xd xh xp => encD 0x35 1 xd xh xp 0 k 0 false 0 0 0
  | .qpack k p t xa va xc => encD 0x35 2 xa va xc 0 k 0 false p.fmt 0 (t.fmt ++ (0 : BitVec 4))
  | .qunpk k t p vd xa => encD 0x35 3 vd xa 0 0 k 0 false t.fmt 0 (p.fmt ++ (0 : BitVec 4))
  | .vptag k (.get xd va) => encD 0x35 4 xd va 0 0 k 0 false 0 0 0
  | .vptag k (.set vd) => encD 0x35 4 vd 0 0 0 k 0 false 0 0 1
  | .vptag k (.clr vd) => encD 0x35 4 vd 0 0 0 k 0 false 0 0 2
  | .vptag k (.or vd va) => encD 0x35 4 vd va 0 0 k 0 false 0 0 3
  | .mlda k t l xa xs => encD 0x38 0 (x1 l) xa xs 0 k 0 false t.fmt 0 0
  | .mldb k t l xa xs => encD 0x38 1 (x1 l) xa xs 0 k 0 false t.fmt 0 0
  | .mgth k t l xa vb xs => encD 0x38 2 (x1 l) xa vb xs k 0 false t.fmt 0 0
  | .mmac k acc la lb => encD 0x39 0 (accField acc) (x1 la) (x1 lb) 0 k 0 false 0 0 ((0 : BitVec 4) ++ accBit acc ++ (0 : BitVec 3))
  | .mzero k acc => encD 0x39 1 (accField acc) 0 0 0 k 0 false 0 0 ((0 : BitVec 4) ++ accBit acc ++ (0 : BitVec 3))
  | .madv k zero => encD 0x39 2 0 0 0 0 k 0 false 0 0 ((0 : BitVec 7) ++ bit1 zero)
  | .mspl k acc xa => encD 0x3a 0 (accField acc) xa 0 0 k 0 false 0 0 ((0 : BitVec 4) ++ accBit acc ++ (0 : BitVec 3))
  | .mfil k acc xa => encD 0x3a 1 (accField acc) xa 0 0 k 0 false 0 0 ((0 : BitVec 4) ++ accBit acc ++ (0 : BitVec 3))
  | .mdrn k t acc xa xs xr adv r =>
    encD 0x3a 2 (accField acc) xa xs xr k r.code false t.fmt 0 ((0 : BitVec 4) ++ accBit acc ++ (0 : BitVec 2) ++ bit1 adv)
  | .mepi k xa => encD 0x3a 3 xa 0 0 0 k 0 false 0 0 0
  | .mrtg k (.get xd a) => encD 0x3b 0 xd (x2 a) 0 0 k 0 false 0 0 0
  | .mrtg k (.put a xa) => encD 0x3b 0 (x2 a) xa 0 0 k 0 false 0 0 1
  | .mrtg k (.or a xa) => encD 0x3b 0 (x2 a) xa 0 0 k 0 false 0 0 2
  | .mstat k xd stray clr => encD 0x3b 1 xd 0 0 0 k 0 false 0 0 ((0 : BitVec 5) ++ bit1 clr ++ (0 : BitVec 1) ++ bit1 stray)
  | .cpy k xd xs xn xc => encD 0x3c 0 xd xs xn xc k 0 false 0 0 0
  | .cpyg k xd xb xi xc strict => encD 0x3c 1 xd xb xi xc k 0 strict 0 0 0
  | .cpyr k xt xs xn xc => encD 0x3c 2 xt xs xn xc k 0 false 0 0 0
  | .cpym k xr xs xn xc => encD 0x3c 3 xr xs xn xc k 0 false 0 0 0
  | .cpyc k t op xd xs xn xc => encD 0x3c 4 xd xs xn xc k 0 false t.fmt 0 ((0 : BitVec 6) ++ op.code)
  | .claim k xd xq xb xc n key => encD 0x3d 0 xd xq xb xc k 0 false 0 0 (bit1 key ++ (0 : BitVec 1) ++ n)
  | .cbdef k b xa xg xp => encD 0x3d 1 (x3 b) xa xg xp k 0 false 0 0 0
  | .cbadv k xd b n => encD 0x3d 2 xd (x3 b) 0 0 k 0 false 0 0 n
  | .cpyx wait toks => encD 0x3d 3 0 0 0 0 { wait := wait, tok := none } 0 false 0 0 toks
  | .twait wait xd => encD 0x3d 4 xd 0 0 0 { wait := wait, tok := none } 0 false 0 0 0
  | .nmovi hi a imm => encC 0x01 (n5 a) 0 0 (fl1 hi) imm
  | .nadd a b c => encC 0x02 (n5 a) (n5 b) (n5 c) 0 0
  | .naddi a b imm => encC 0x03 (n5 a) (n5 b) 0 0 imm
  | .nsub a b c => encC 0x04 (n5 a) (n5 b) (n5 c) 0 0
  | .nmul a b c => encC 0x05 (n5 a) (n5 b) (n5 c) 0 0
  | .nslt u a b c => encC 0x06 (n5 a) (n5 b) (n5 c) (fl1 u) 0
  | .br cd a b off => encC 0x08 (n5 a) (n5 b) 0 cd.code off
  | .jmp off => encC 0x09 0 0 0 0 off
  | .call a off => encC 0x0a (n5 a) 0 0 0 off
  | .ret b => encC 0x0b 0 (n5 b) 0 0 0
  | .cnew c sq model => encC 0x10 (n4 c) (n5 sq) 0 0 ((0 : BitVec 16) ++ model)
  | .cfork c src sq => encC 0x11 (n4 c) (n4 src) (n5 sq) 0 0
  | .ctrim c len => encC 0x12 (n4 c) (n5 len) 0 0 0
  | .cfree c => encC 0x13 (n4 c) 0 0 0 0
  | .clen dst c => encC 0x14 (n5 dst) (n4 c) 0 0 0
  | .cget dst c sel => encC 0x15 (n5 dst) (n4 c) 0 0 ((0 : BitVec 26) ++ sel)
  | .cbind c model => encC 0x16 (n4 c) 0 0 0 ((0 : BitVec 16) ++ model)
  | .sld ids dst addr => encC 0x18 (n4 dst) (n5 addr) 0 (fl1 ids) 0
  | .sst src addr => encC 0x19 (n4 src) (n5 addr) 0 0 0
  | .scat dst x y => encC 0x1a (n4 dst) (n4 x) (n4 y) 0 0
  | .ssub dst src off len => encC 0x1b (n4 dst) (n4 src) (n5 off) 0 len
  | .slen dst src => encC 0x1c (n5 dst) (n4 src) 0 0 0
  | .tokz dst src c => encC 0x20 (n4 dst) (n4 src) (n4 c) 0 0
  | .detok dst src c => encC 0x21 (n4 dst) (n4 src) (n4 c) 0 0
  | .append t c str => encC 0x28 (n4 c) (n4 str) 0 (fl1 t) 0
  | .genu ids c out => encC 0x29 (n4 c) (n4 out) 0 (fl1 ids) 0
  | .score t dst c str => encC 0x2a (n3 dst) (n4 c) (n4 str) (fl1 t) 0
  | .choose t dst c first n q => encC 0x2b (n5 dst) (n4 c) (n4 first) (fl1 t) ((0 : BitVec 21) ++ q ++ n)
  | .setgen c addr => encC 0x30 (n4 c) (n5 addr) 0 0 0
  | .setfr c stack auto st depth => encC 0x31 (n4 c) (n5 stack) 0 0 (depth ++ st ++ auto)
  | .qcmp dst x y => encC 0x38 (n5 dst) (n3 x) (n3 y) 0 0
  | .qrnd t r dst src => encC 0x39 (n5 dst) (n3 src) 0 ((0 : BitVec 1) ++ t.q ++ r.code) 0
  | .waitc cd dst addr val => encC 0x40 (n5 dst) (n5 addr) (n5 val) cd.code 0
  | .yield => encC 0x41 0 0 0 0 0
  | .stat clr dst => encC 0x42 (n5 dst) 0 0 (fl1 clr) 0
  | .enda code => encC 0x43 0 0 0 0 code
  | .trapa code => encC 0x44 0 0 0 0 code
  | _ => []

/-- What the Damvon decoder makes of an encoding. -/
def decodeEncoded (ws : List (BitVec 32)) : DecodeResult :=
  match ws with
  | [w0] => decodeDamvon 32 w0 0
  | [w0, w1] => decodeDamvon 32 w0 w1
  | _ => .illegal

/-- What the Crium decoder makes of an encoding. -/
def decodeEncodedCrium (ws : List (BitVec 32)) : DecodeResult :=
  match ws with
  | [lo, hi] => decodeCrium (hi ++ lo)
  | _ => .unassigned

/-- The instruction read from `nbits` bits of `w`, bit 0 the least significant bit of the first word. Words of a double
Damvon word are tried first; a 64-bit word that is none is read as Crium (log entry 10). -/
def decodeTableWord (nbits w : Nat) : Option Instr :=
  let w0 := BitVec.ofNat 32 w
  let w1 := BitVec.ofNat 32 (w / 2 ^ 32)
  match decodeDamvon 32 w0 (if nbits ≤ 32 then 0 else w1) with
  | .ok i => if nbits ≤ 32 || isDouble w0 then some i else
      match decodeCrium (BitVec.ofNat 64 w) with
      | .ok j => some j
      | _ => none
  | _ => if nbits ≤ 32 then none else
      match decodeCrium (BitVec.ofNat 64 w) with
      | .ok j => some j
      | _ => none

end Sys2Proof
end

