-- ==== Sys2Proof/Config.lean ====
section
/-! DEFINITION. What the spec leaves to the machine or leaves open, as constants with no body (free values), and the acts
that say which unit of the device moves next. -/

namespace Sys2Proof

/-- Which unit moves in a step (log entry 2): a cell's scalar core, an agent program, or an event of the rest of the device. -/
inductive Act where
  | cell (c : Nat)
  | prog (p : Nat)
  | event (i : Instr)
  deriving DecidableEq, Repr, Inhabited

/-- The unit that moves where the agenda names none (log entry 2): a free value of the step number. -/
opaque Config.nextAct : Nat → Act
/-- Cycles a step takes (log entry 3): a free value of the step number. -/
opaque Config.stepCycles : Nat → Nat
/-- Which entry of a full cache or translation cache a new one replaces (R72, R82; log entry 6). -/
opaque Config.victim : Nat → Nat
/-- The set of a die-cache slice that a 64-byte line belongs to (R74; log entry 6). -/
opaque Config.dieSet : Nat → Nat
/-- Bank within its pseudo-channel, and row within its bank, of a 256-byte block (R76, R77; log entry 6). -/
opaque Config.bankIn : Nat → BitVec 16
opaque Config.rowIn : Nat → BitVec 32
/-- Rows that a copy has moved when it starts or is carried on (R263; log entry 13). -/
opaque Config.copyRows : Nat → Nat
/-- Whether a lane, or an element at an address, is read before a write of an engine that races with the read (R108, R296; log entry
40). -/
opaque Config.raceLane : Nat → Nat → Bool
/-- Header bytes of a released item, over which the digest of R143 is formed (log entry 12). -/
opaque Config.itemHeader : List Nat → List Byte
/-- What a dropped CPYG leaves in its mask registers (R66, R274; log entry 17). -/
opaque Config.droppedMask : Nat → BitVec 64
/-- Whether a remote device's local map serves an address of its host window (R69, R409; log entry 9). -/
opaque Config.remoteHost : Nat → Bool
/-- Whether a request of the launch unit or the Imposer to a virtual address of another device still has no answer at a step (R410; log entry
73). -/
opaque Config.routeLost : Nat → Nat → Bool
/-- The public key by which a stage's image is verified, as its carrier holds it, and the digest of the first that is fused (R407; log
entry 8). -/
opaque Config.stageKey : Nat → List Byte → Nat × Nat
opaque Config.fusedKey : List Byte
/-- The version that an image carries, a stage's fused minimum, and the boot ROM (R407; log entry 8). -/
opaque Config.imageVersion : List Byte → BitVec 32
opaque Config.minVersion : Nat → BitVec 32
opaque Config.bootRom : List Byte
/-- The part of stage 3's image that is loaded into each Hall core's scratchpad (R407, R13; log entry 74). -/
opaque Config.hallCode : List Byte → List Byte
/-- Device serial number, device key, and secret number of a signature (R408; log entry 8). -/
opaque Config.serial : BitVec 128
opaque Config.deviceKey : Nat
opaque Config.signSecret : Nat → Nat
/-- Block-specific impression words (R157; log entry 7). -/
opaque Config.impression : Nat → List Word
/-- Cycles until a block latches after an impression trigger, below 64 (R157; log entry 7). -/
opaque Config.impressionDelay : Nat → Nat
/-- Where the Imposer keeps a context's galley page table; the Pantry slot of a context's recurrent state, by the tree node whose snapshot
is live (R326, R329, R341; log entry 15). -/
opaque Config.galleyTable : Nat → Word
opaque Config.pantrySlot : Nat → Option Nat → Nat
/-- Whether the Imposer prefills once for equal APPENDs that a step finds (R325; log entry 81). -/
opaque Config.sharesPrefill : Nat → Bool
/-- Token that a step samples where its weights are all zero (R339; log entry 15). -/
opaque Config.freeToken : Nat → Nat

end Sys2Proof
end

