-- ==== Sys2Proof/Machine/Map.lean ====
section
/-! DEFINITION. Sparse tables as sorted lists of key and value, with reads, writes and their two laws. -/

namespace Sys2Proof.Machine

/-- A table from numbers to values; a key that is not listed reads as the default its reader names. -/
abbrev Tab (α : Type) := List (Nat × α)

/-- The listed value of a key. -/
def Tab.find {α : Type} : Tab α → Nat → Option α
  | [], _ => none
  | (k, v) :: t, n => if k = n then some v else Tab.find t n

/-- The value of a key, `d` where it is not listed. -/
def Tab.get {α : Type} (d : α) (m : Tab α) (n : Nat) : α := (Tab.find m n).getD d

/-- Lists `v` for `n`, in the place its key has in rising order. -/
def Tab.set {α : Type} : Tab α → Nat → α → Tab α
  | [], n, v => [(n, v)]
  | (k, w) :: t, n, v =>
    if k = n then (n, v) :: t else if n < k then (n, v) :: (k, w) :: t else (k, w) :: Tab.set t n v

/-- Removes a key. -/
def Tab.drop {α : Type} (m : Tab α) (n : Nat) : Tab α := m.filter (fun p => p.1 ≠ n)

/-- As `set`, with no entry for the default value. -/
def Tab.put {α : Type} [DecidableEq α] (d : α) (m : Tab α) (n : Nat) (v : α) : Tab α :=
  if v = d then Tab.drop m n else Tab.set m n v

/-- Replaces a key's value by a function of it. -/
def Tab.upd {α : Type} (d : α) (m : Tab α) (n : Nat) (f : α → α) : Tab α := Tab.set m n (f (Tab.get d m n))

theorem Tab.find_set_same {α : Type} (m : Tab α) (n : Nat) (v : α) : Tab.find (Tab.set m n v) n = some v := by
  induction m with
  | nil => simp [Tab.set, Tab.find]
  | cons p t ih =>
    obtain ⟨k, w⟩ := p
    simp only [Tab.set]
    split
    · simp [Tab.find]
    · split
      · simp [Tab.find]
      · rename_i h _; simp [Tab.find, h, ih]

theorem Tab.find_set_other {α : Type} (m : Tab α) (n j : Nat) (v : α) (h : n ≠ j) :
    Tab.find (Tab.set m n v) j = Tab.find m j := by
  induction m with
  | nil => simp [Tab.set, Tab.find, h]
  | cons p t ih =>
    obtain ⟨k, w⟩ := p
    simp only [Tab.set]
    split
    · rename_i hk; subst hk; simp [Tab.find, h]
    · split
      · simp [Tab.find, h]
      · simp [Tab.find, ih]

@[simp] theorem Tab.get_set_same {α : Type} (d : α) (m : Tab α) (n : Nat) (v : α) :
    Tab.get d (Tab.set m n v) n = v := by
  simp [Tab.get, Tab.find_set_same]

theorem Tab.get_set_other {α : Type} (d : α) (m : Tab α) (n j : Nat) (v : α) (h : n ≠ j) :
    Tab.get d (Tab.set m n v) j = Tab.get d m j := by
  simp [Tab.get, Tab.find_set_other m n j v h]

@[simp] theorem Tab.get_upd_same {α : Type} (d : α) (m : Tab α) (n : Nat) (f : α → α) :
    Tab.get d (Tab.upd d m n f) n = f (Tab.get d m n) := by
  simp [Tab.upd]

theorem Tab.get_upd_other {α : Type} (d : α) (m : Tab α) (n j : Nat) (f : α → α) (h : n ≠ j) :
    Tab.get d (Tab.upd d m n f) j = Tab.get d m j := by
  simp [Tab.upd, Tab.get_set_other d m n j _ h]

end Sys2Proof.Machine
end

