-- ==== Sys2Proof/Machine/State.lean ====
section
/-! DEFINITION. The state of the whole device as plain data, its faults and refusals, and the state after reset. Every piece
of state that spec/ names is here (INVENTORY.md, '## State'). -/

namespace Sys2Proof.Machine

/-- Stops of the machine as a whole. The spec gives an effect to every step of its table, and a cell's or a program's own
fault is a next state (R133, R348). -/
inductive Fault where
  /-- Raised by `step` where the agenda names an encoded instruction as an event: no unit of the device does that. Safe: the
  spec has no such step, so nothing can be proved of it. -/
  | notAnEvent
  deriving DecidableEq, Repr

/-- Instructions with no meaning. -/
inductive Refusal where
  /-- Raised by an arm of `exec` whose instruction has no meaning in the model. Safe: the run stops. -/
  | notModelled (mnemonic : String)
  deriving DecidableEq, Repr

/-! ## Numbers and registers of a cell -/

/-- An XA576 accumulator with its metadata bits (R50, R51); the value is `x` read as two's complement times 2^-266. -/
structure XA where
  x    : BitVec 576
  nan  : Bool
  pinf : Bool
  ninf : Bool
  cg   : Bool
  deriving DecidableEq, Repr

def XA.zero : XA := ⟨0, false, false, false, false⟩

/-- A tile of 16 × 16 accumulators, accumulator (i, j) at 16 i + j, zero where not listed, with its row tags (R291). -/
structure Tile where
  acc  : Tab XA
  tags : BitVec 16
  deriving DecidableEq, Repr

def Tile.zero : Tile := ⟨[], 0⟩

/-- An operand latch (R290): the encoded bytes of group g of row r at 64 r + g, as the debug window shows them (R294); no format
before the first load. -/
structure Latch where
  fmt  : Option MatTy
  kg   : Nat
  tags : BitVec 16
  rows : Tab (BitVec 256)
  deriving DecidableEq, Repr

/-- Epilogue configuration (R307). -/
structure Epi where
  scale : List (BitVec 32)
  bias  : List (BitVec 32)
  lo    : BitVec 32
  hi    : BitVec 32
  act   : BitVec 2
  sc    : Bool
  bi    : Bool
  c     : Nat
  sel   : Word
  deriving DecidableEq, Repr

/-- The configuration at launch start (R292). -/
def Epi.off : Epi := ⟨[], [], 0, 0, 0, false, false, 0, 0⟩

/-- One level of hardware loop (R209). -/
structure LoopLvl where
  left  : BitVec 32
  start : BitVec 32
  stop  : BitVec 32
  deriving DecidableEq, Repr

/-- A token (R264): the number of its last arming, the armings whose operations have not completed, its error and cancelled
bits, and the engine that armed it last: 0 none, 1 vector, 2 matrix, 3 copy. The armings are numbered because a wait is met
against the operation that had last armed the token (R166). -/
structure Tok where
  gen       : Nat
  out       : List Nat
  error     : Bool
  cancelled : Bool
  eng       : Nat
  deriving DecidableEq, Repr

def Tok.idle : Tok := ⟨0, [], false, false, 0⟩

/-- A circular-buffer handle (R278). -/
structure Handle where
  valid    : Bool
  producer : Bool
  pentry   : BitVec 9
  index    : BitVec 8
  nslot    : BitVec 8
  sunit    : BitVec 10
  base     : BitVec 19
  peer     : Word
  deriving DecidableEq, Repr

def Handle.undef : Handle := ⟨false, false, 0, 0, 0, 0, 0, 0⟩

/-- A bellboard entry (R191). `wide` is the model's own: a message of device scope or wider has reached the entry (R101). -/
structure Entry where
  count    : Int
  reload   : Int
  handler  : Nat
  deferred : Nat
  pend     : Int
  args     : Vector Word 4
  bound    : Bool
  parked   : Bool
  phase    : Bool
  barrier  : Bool
  pending  : Bool
  enable   : Bool
  prio     : BitVec 2
  wide     : Bool
  deriving DecidableEq, Repr

/-- An entry as cold reset leaves it (R6, R191). -/
def Entry.reset : Entry :=
  ⟨0, 1, 0, 0, 0, Vector.replicate 4 0, false, false, false, false, false, false, 0, false⟩

/-- A firing: an activation queued or to be queued (R193, R128). `since` is when its wait at its level began. -/
structure Firing where
  handler : Nat
  prio    : Nat
  args    : Vector Word 4
  entry   : Nat
  cont    : Bool
  start   : Bool
  wide    : Bool
  since   : Nat
  idAct   : Option Word
  deriving DecidableEq, Repr

/-- The running activation (R139, R140, R185 to R188, R199). `began` is the cycle from which the watchdog counts (R129). -/
structure Activation where
  firing    : Firing
  idAct     : Word
  began     : Nat
  retriable : Bool
  ord       : Nat
  /-- A re-run after a kill that answered an MLDB, MFIL or other operand failure: the packet's address (R147). -/
  rerun     : Bool
  /-- The address at which the same operand failed again: a packet with flag [2] is due at END (R147, R302). -/
  second    : Option Word
  deriving DecidableEq, Repr

/-- The fault packet of R134. -/
structure FaultPkt where
  cell     : Nat
  cause    : Nat
  eng      : Nat
  nonretry : Bool
  proof    : Bool
  second   : Bool
  idAct    : Word
  idLaunch : Word
  pc       : Word
  addr     : Word
  index    : Word
  deriving DecidableEq, Repr

/-- What the scalar core does: nothing, an activation, or frozen since a cycle with a packet that was sent or waits (R133). -/
inductive RunState where
  | idle
  | running
  | frozen (p : FaultPkt) (sent : Bool) (since : Nat)
  deriving DecidableEq, Repr

/-- A queued engine operation (R224, R262, R295, R266): the instruction, the x values read at issue in slot order, whether
it was started, the x registers it will write at completion, the number of its token's arming, the armings it waits for as
token and number, and its place in program order. -/
structure EngOp where
  ins     : Instr
  xs      : List Word
  started : Bool
  writes  : List (Nat × Word)
  gen     : Nat
  waits   : List (Nat × Nat)
  ord     : Nat
  deriving DecidableEq, Repr

/-- A copy operation in flight (R266). -/
structure Flight where
  op      : EngOp
  stopped : Bool
  faulted : Bool
  claimed : Bool
  resume  : Nat
  moved   : Nat
  notDone : Word
  bad     : Word
  xd      : Word
  /-- Requested rows that a CPYG has looked up and found translated, so that they move (R86). -/
  hits    : Word
  /-- A CPYG has looked its rows up (R86). -/
  looked  : Bool
  /-- Ring, item bytes and log2 of the item count of a made claim (R276, R277). -/
  queue   : Option (Nat × Nat × Nat)
  /-- A drop under R66 or R272: the token takes its error bit and no completion is delivered. -/
  dropped : Bool
  /-- Number of the first faulting row, its cause and address, for .strict (R274). -/
  strict  : Option (Nat × Nat × Word)
  /-- The smallest scope of the homes that the payload has reached (R103). -/
  reach   : Scope
  /-- Cells that a CPYM has served (R273). -/
  served  : List Nat
  /-- Addresses whose pages were pinned when a CPYG looked them up (R87). -/
  pinned  : List Nat
  deriving DecidableEq, Repr

/-- A launch's name: ASID, queue and sequence number (R124). -/
structure LKey where
  asid  : Nat
  queue : Nat
  seq   : Nat
  deriving DecidableEq, Repr

/-- What a packet carries. -/
inductive PBody where
  /-- A SEND, a completion decrement or a credit: entry, decrement, payload (R193). -/
  | msg (entry d : Nat) (pay : List Word)
  /-- A remote ARRV: entry and announced bytes (R194, R214). -/
  | arrive (entry : Nat) (b : Int)
  /-- A landing of copied bytes (R194, R267). -/
  | land (entry : Nat) (b : Nat)
  /-- A scalar store: physical address, virtual address for reports, and bytes (R112). -/
  | store (pa va : Nat) (bytes : List Byte)
  /-- A remote arithmetic packet: type, operation, sequence where ordered, destination as physical and virtual address, operand
  bytes (R212). -/
  | rap (t : RapTy) (op : RapOp) (seqn : Option (BitVec 16)) (pa va : Nat) (val : List Byte)
  deriving DecidableEq, Repr

/-- A packet in flight (R101, R102). `src` is 0xfff for a source that is no cell of this device; `dst` is 4096 for memory;
`node` is 0 for this device; `since` is the cycle at which it was sent (R410). -/
structure Packet where
  src   : Nat
  launch : Option LKey
  node  : Nat
  dst   : Nat
  cls   : Scope
  body  : PBody
  since : Nat
  deriving DecidableEq, Repr

/-- An item of the outgoing buffer (R139) with its place in program order. -/
structure Held where
  ord : Nat
  pkt : Packet
  deriving DecidableEq, Repr

/-- A store-buffer entry (R95): own scratchpad offset or physical address; `va` for reports. -/
structure SbEntry where
  ord   : Nat
  own   : Bool
  addr  : Nat
  va    : Nat
  bytes : List Byte
  deriving DecidableEq, Repr

/-- What the bellboard record holds of an entry (R418): net changes by own events, and fields before their first change. -/
structure EntryRec where
  dCount  : Int
  dPend   : Int
  flipped : Bool
  handler : Option Nat
  reload  : Option Int
  prio    : Option (BitVec 2)
  enable  : Option Bool
  bound   : Option Bool
  barrier : Option Bool
  parked  : Option Bool
  deriving DecidableEq, Repr

def EntryRec.empty : EntryRec := ⟨0, 0, false, none, none, none, none, none, none, none⟩

/-- State at the activation's start that a kill takes back (R139, R141, R297, R418). -/
structure StartCopy where
  handles : Vector Handle 8
  xoTop   : Nat
  head    : BitVec 2
  tail    : BitVec 2
  epi     : Epi
  lists   : Tab (List (Nat × Nat))
  listTy  : Option DrainTy
  sat     : Bool
  cg      : Bool
  deriving DecidableEq, Repr

/-- What a cell holds of its launch (R118, R122 to R124): division, effective settings and identity. -/
structure LCtx where
  key       : LKey
  fb        : Bool
  det       : Nat
  proof     : Bool
  footprint : Nat
  vregs     : Nat
  watchdog  : Nat
  (cx cy nx ny : Nat)
  (offM offN offK extM extN extK : Nat)
  live      : Nat
  /-- Number of the started cell. -/
  number    : Nat
  /-- Activations begun in the launch (R124). -/
  begun     : Nat
  cancelled : Bool
  /-- Its job or process was killed: what the activation that runs holds is dropped at its END (R150). -/
  cut : Bool
  /-- The partner cell under proof mode (R143), and whether this is the first of the pair. -/
  partner   : Option Nat
  first     : Bool
  deriving DecidableEq, Repr

/-- The scalar core (R185, R186). -/
structure Core where
  x     : Vector Word 32
  pc    : BitVec 52
  loops : List LoopLvl
  tok   : Vector Tok 8
  hnd   : Vector Handle 8
  run   : RunState
  act   : Option Activation
  trig  : Word
  xoTop : Nat
  idAct : Word
  deriving DecidableEq, Repr

/-- The vector engine (R219 to R224). -/
structure VecEng where
  v     : Vector (BitVec 512) 32
  tag   : BitVec 32
  k     : Vector Word 8
  queue : List EngOp
  fault : Option FaultPkt
  /-- The v registers before the operation that is under way: a matrix gather may still read a lane of them (R296). -/
  was   : Vector (BitVec 512) 32
  /-- Addresses whose pages were pinned when the gather under way looked them up (R87). -/
  gath  : List Nat
  deriving DecidableEq, Repr

/-- The matrix engine (R290 to R297). `lists` holds the select lists: (value key, index) pairs in order. -/
structure MatEng where
  (l0 l1 : Latch)
  tiles  : Vector Tile 4
  head   : BitVec 2
  tail   : BitVec 2
  epi    : Epi
  lists  : Tab (List (Nat × Nat))
  listTy : Option DrainTy
  sat    : Bool
  cg     : Bool
  freshl : BitVec 2
  fresht : BitVec 4
  queue  : List EngOp
  fault  : Option FaultPkt
  /-- Operand loads on which a killed attempt met poison: id.act, instruction and its x values (R147, R302). -/
  failed : List (Word × Instr × List Word)
  deriving DecidableEq, Repr

/-- The copy engine (R262 to R266). -/
structure CopyEng where
  queue  : List EngOp
  flight : List Flight
  fault  : Option FaultPkt
  deriving DecidableEq, Repr

/-- An element that an engine operation under way has written, or a scalar store that an operation issued before it may still miss: the
engine, 0 for the scalar core, the place in program order, address, what stood there, and what was written (R108). -/
structure Shadow where
  eng : Nat
  ord : Nat
  pa  : Nat
  old : List Byte
  new : List Byte
  deriving DecidableEq, Repr

/-- What an activation's effects wait in or are recorded in (R95, R139, R196, R418). -/
structure Outgoing where
  sb      : List SbEntry
  held    : List Held
  firings : List Firing
  journal : List (Nat × List Byte × Bool)
  record  : Tab EntryRec
  start   : Option StartCopy
  /-- Under proof mode: END reached, digest formed, waiting for the comparison (R143). -/
  ended   : Option (Bool × BitVec 64)
  /-- Whether the comparison was in Attic-assisted mode when the activation ended (R412). -/
  assisted : Bool
  /-- Mismatches so far for each trigger, by the id.act of its activation (R144). -/
  misses  : Tab Nat
  /-- Under proof mode: results of the claims made for each trigger, by the id.act of its activation, and how many of them this run has
  taken (R277). -/
  claims  : Tab (List Word)
  claimed : Nat
  /-- Elements that another engine may still read as they were (R108). -/
  shadow  : List Shadow
  deriving DecidableEq, Repr

/-- A waiting ordered packet at a bank (R111). -/
structure RapWait where
  pkt   : Packet
  since : Nat
  deriving DecidableEq, Repr

/-- The context of a cell: all that moves with it under R148. -/
structure Ctx where
  core   : Core
  vec    : VecEng
  mat    : MatEng
  cop    : CopyEng
  out    : Outgoing
  bell   : Tab Entry
  rq     : Vector (List Firing) 4
  /-- Firings that found their level full, with their words (R128, R193). Each counts in its entry's deferred count. -/
  later  : List Firing
  launch : Option LCtx
  /-- Expected sequence of each logical bank and the holding buffer (R111). -/
  rapExp : Tab (BitVec 16)
  rapWait : List RapWait
  deriving DecidableEq, Repr

/-- A translation (R82): page base, size, physical page and flag bits [7:0]. `pin` is the cycle of a pin (R87). -/
structure TEntry where
  asid  : Nat
  vbase : Nat
  size  : Nat
  pbase : Nat
  flags : BitVec 8
  pin   : Option Nat
  deriving DecidableEq, Repr

/-- A fault pin (R86): the failure of a gather's walk. -/
structure FaultPin where
  asid  : Nat
  gran  : Nat
  cause : Nat
  since : Nat
  deriving DecidableEq, Repr

/-- A data-cache line (R72, R73, R88): address of 32 bytes, data, poison, and whether it is foreign. -/
structure DLine where
  addr    : Nat
  data    : BitVec 256
  poison  : Bool
  foreign : Bool
  deriving DecidableEq, Repr

/-- Unit kinds of fp.ret (R151). -/
inductive UnitKind where
  | scratch | vector | accum
  deriving DecidableEq, Repr

/-- An evacuation in progress (R152, R153): kind, logical unit in move, its new physical unit, whether the top unit is then
withdrawn, start cycle. -/
structure Evac where
  kind     : UnitKind
  logical  : Nat
  target   : Nat
  withdraw : Bool
  since    : Nat
  deriving DecidableEq, Repr

/-- The floor plan (R151 to R153): physical unit of each live logical unit, spares left, withdrawals due at the next
activation boundary. -/
structure Floor where
  scratch : List Nat
  vector  : List Nat
  accum   : List Nat
  sscratch : List Nat
  svector : List Nat
  saccum  : List Nat
  evac    : Option Evac
  due     : List UnitKind
  deriving DecidableEq, Repr

def Floor.reset : Floor := ⟨List.range 16, List.range 4, List.range 4, [16, 17], [4], [4], none, []⟩

/-- A trace-ring entry (R114). -/
structure TraceEntry where
  seqn : BitVec 32
  src  : BitVec 12
  rap  : Bool
  off  : BitVec 19
  deriving DecidableEq, Repr

/-- The trace ring (R113, R114). -/
structure Trace where
  en   : Bool
  ovf  : Bool
  head : BitVec 8
  sel  : BitVec 8
  seqn : BitVec 32
  ring : Tab TraceEntry
  deriving DecidableEq, Repr

/-- A forwarding entry (R149). -/
structure Fwd where
  key : LKey
  dst : Nat
  deriving DecidableEq, Repr

/-- A miss that waits for a walker or for an invalidation (R83, R84): ASID, 64 KiB granule, whether a gather's, and whether walks were
Attic-assisted when it was made (R412); none while an invalidation has held it off from its lookup since (R84). -/
structure Miss where
  asid   : Nat
  gran   : Nat
  gather : Bool
  attic  : Option Bool
  deriving DecidableEq, Repr

/-- A cell: the parts that stay with it, and the context it holds. -/
structure Cell where
  ctx    : Ctx
  floor  : Floor
  dcache : List DLine
  utlb   : List TEntry
  pins   : List FaultPin
  /-- Outcomes of failed walks that accesses of the cell wait for: (ASID, 64 KiB granule, cause) (R80). -/
  walked : List (Nat × Nat × Nat)
  /-- Misses that wait (R83, R84). -/
  misses : List Miss
  trace  : Trace
  fwd    : List Fwd
  /-- Migration in progress: destination and start cycle (R148). -/
  moving : Option (Nat × Nat)
  /-- The launch the cell last retired from (R122). -/
  last   : Option LKey
  /-- Bank packets waiting for the Hall core's queue (R134). -/
  bankPk : List FaultPkt
  /-- Reserved by a migration. -/
  taken  : Bool
  deriving DecidableEq, Repr

/-! ## Districts, dies and HBM stacks -/

structure District where
  gated  : Bool
  /-- Cycle at which a wake began (R127). -/
  waking : Option Nat
  queue  : List FaultPkt
  sel    : BitVec 6
  /-- Actions that system software has set for causes (R138). -/
  policy : Tab Nat
  tlb    : List TEntry
  commit : Word
  passed : Word
  retired : Bool
  drCnt  : Word
  stretched : Bool
  /-- Since when the clock is stretched, by droop or by the power cap (R413, R414). -/
  stretchSince : Nat
  /-- Since when all cells of the district have been free (R127). -/
  freeSince : Nat
  deriving DecidableEq, Repr

/-- A page walk (R80, R83): ASID, 64 KiB granule, waiting cells with whether a gather waits, whether an invalidation
discards its result (R84), and the service sequence where the Attic walks (R85). -/
structure Walk where
  asid    : Nat
  gran    : Nat
  cells   : List (Nat × Bool)
  discard : Bool
  svc     : Option Nat
  deriving DecidableEq, Repr

/-- An invalidation slot (R84). -/
structure InvSlot where
  asid : Word
  base : Word
  len  : Word
  glob : Bool
  busy : Bool
  done : Bool
  deriving DecidableEq, Repr

structure Die where
  llt      : List TEntry
  asidBase : Word
  inv      : Vector InvSlot 8
  einjLine : Word
  einjFired : Bool
  einjKind : BitVec 2
  einjArm  : Bool
  walks    : List Walk
  /-- Die-cache lines present, with whether each is dirty (R74). -/
  lines    : Tab Bool
  /-- Slice table where the Attic has written it (R74); entry h names slice h mod 48 otherwise. -/
  slices   : Tab Nat
  deadSlices : List Nat
  deriving DecidableEq, Repr

/-- A request at a port (R75, R76, R77): the read burst of a block with the cycle of its first miss and whether its merge window has
ended, or the write of a line. -/
inductive PortReq where
  | read (blk since : Nat) (ended : Bool)
  | write (line : Nat)
  deriving DecidableEq, Repr

structure Stack where
  en      : Bool
  backoff : BitVec 16
  thresh  : BitVec 16
  (rd wr merge alert bocyc ce ue : Word)
  /-- Requests at the port that have not had their burst, in the order they arrived (R75, R76, R77). -/
  queue   : List PortReq
  acts    : Tab Nat
  /-- Held banks: bank and cycle of the start of the hold (R77). -/
  holds   : List (Nat × Nat)
  deriving DecidableEq, Repr

/-- A remote access in flight over Stair (R69, R410): cell, engine (0 scalar, 1 vector, 2 matrix, 3 + 4 n the copy of place n in
program order), physical address, write or not, cycle of issue,
and its outcome once it has one. -/
structure StairReq where
  cell  : Nat
  eng   : Nat
  pa    : Nat
  since : Nat
  done  : Option Bool
  deriving DecidableEq, Repr

/-- A request of the launch unit or the Imposer to another device that has had no answer yet (R410): the die and ASID it translates under, its
address, the cycle of its issue, and the step number at which its unit last waited for it. -/
structure SysReq where
  die   : Nat
  asid  : Nat
  va    : Nat
  since : Nat
  asked : Nat
  deriving DecidableEq, Repr

/-! ## Launch unit -/

/-- A launch descriptor (R117), fields as numbers. -/
structure Desc where
  (code codelen nbind prio det proof glast fb bindtab cols rows cols2 rows2 : Nat)
  (m n k tm tn tk vregs footprint dep watchdog succ nsucc gidx footprint2 : Nat)
  args : List Word
  (notify tm2 tn2 tk2 vregs2 : Nat)
  deriving DecidableEq, Repr

/-- A binding-table entry (R117). -/
structure Bind where
  handler : Nat
  entry   : Nat
  prio    : Nat
  enable  : Bool
  barrier : Bool
  count   : Int
  reload  : Int
  deriving DecidableEq, Repr

/-- Where a launch stands (R120, R121, R126, R131). -/
inductive LStage where
  | collected | waiting | placed | ended
  deriving DecidableEq, Repr

/-- Status of an ended launch (R121). -/
inductive LStatus where
  | pending | done | cancelled | rejected
  deriving DecidableEq, Repr

structure Launch where
  key     : LKey
  /-- Its queue, as 64 × ASID + queue of the owning job. -/
  lq      : Nat
  desc    : Desc
  fb      : Bool
  prio    : Nat
  det     : Nat
  proof   : Bool
  binds   : List Bind
  succs   : List Nat
  code    : List Byte
  /-- Descriptors that had been read from its queue before it, not reduced (R124). -/
  num     : Nat
  /-- That number for the first descriptor of its graph. -/
  graph   : Nat
  /-- Dies that its queue's preference allowed when it was read (R116). -/
  dies    : List Nat
  dep     : Nat
  stage   : LStage
  status  : LStatus
  stray   : Nat
  /-- Cells in started order, and their partners under proof mode. -/
  place   : List Nat
  place2  : List Nat
  /-- Cells whose start message waits for a district to wake (R127). -/
  sleepy  : List Nat
  /-- Cells that have retired. -/
  retired : List Nat
  deriving DecidableEq, Repr

/-- A launch queue (R116). -/
structure LQ where
  base    : Word
  ents    : Nat
  tail    : Nat
  head    : Nat
  cfg     : Word
  errdesc : Nat
  cause   : Nat
  nfault  : Bool
  err     : Bool
  /-- Descriptors read so far (R124). -/
  count   : Nat
  /-- Sequence number of the first descriptor of the graph being collected (R120). -/
  gstart  : Nat
  /-- The graph being collected was cancelled: its later members are cancelled as they are read (R130). -/
  gcut    : Bool
  deriving DecidableEq, Repr

def LQ.reset : LQ := ⟨0, 16, 0, 0, 0, 0, 0, false, false, 0, 0, false⟩

/-! ## The Imposer -/

/-- A string (R317): kind and elements. -/
structure Str where
  toks : Bool
  data : List Nat
  deriving DecidableEq, Repr

def Str.empty : Str := ⟨false, []⟩

/-- A score register (R317). -/
structure Score where
  xa     : XA
  poison : Bool
  deriving DecidableEq, Repr

/-- What a program does: may issue, waits in WAITC with destination, address, value and condition (R373), is in a long
instruction, is stopped, or has ended. -/
inductive PRun where
  | ready
  | waiting (dst : NReg) (addr val : Word) (cond : BrCond)
  | long (i : Instr)
  | stopped
  | ended
  deriving DecidableEq, Repr

structure Prog where
  pc     : Word
  n      : Vector Word 32
  c      : Vector (Option Nat) 16
  s      : Vector Str 16
  q      : Vector Score 8
  status : BitVec 8
  cls    : Nat
  weight : Nat
  mask   : BitVec 6
  asid   : Nat
  entry  : Nat
  image  : List Word
  run    : PRun
  deficit : Nat
  turnNew : Bool
  /-- A process kill that takes effect at the next token boundary (R377). -/
  killed : Bool
  /-- Its long instruction was interrupted and is issued again before it takes a row (R334). -/
  intr : Bool
  deriving DecidableEq, Repr

/-- A speculation tree node (R338): parent (none for children of the root), token, level. -/
structure TNode where
  parent : Option Nat
  token  : Nat
  level  : Nat
  deriving DecidableEq, Repr

/-- What stage 7 commits of a step (R335, R341): the accepted path, the tokens in order, the trap that follows them (0 for none), and
the draw index after the step. -/
structure Accept where
  path : List Nat
  toks : List Nat
  trap : Nat
  draw : Word
  deriving DecidableEq, Repr

/-- Generation parameters as read (R323). -/
structure GenBlk where
  seed    : Word
  temp    : BitVec 32
  topk    : Nat
  topp    : Nat
  maxnew  : Nat
  eos     : Nat
  incStop : Bool
  spec    : Bool
  branch  : List Nat
  stops   : List (List Nat)
  deriving DecidableEq, Repr

/-- A context (R320): the fields CGET reads, the token string, and what belongs to it without being readable. -/
structure Context where
  owner    : Nat
  tokens   : List Nat
  /-- Tokens whose KV is written (R328, R366). -/
  written  : Nat
  binding  : Nat
  gen      : Word
  fAuto    : BitVec 16
  fState   : BitVec 12
  fDepth   : BitVec 4
  fStack   : Word
  seqn     : Word
  draw     : Word
  progOp   : BitVec 8
  progDone : BitVec 32
  progStop : Word
  progAccept : Word
  status   : BitVec 8
  slot     : Option Nat
  /-- The galley chain: page addresses in position order (R324). -/
  pages    : List Nat
  /-- Marked for re-append (R342). -/
  reappend : Bool
  /-- Step at which the slot was last used (R326). -/
  used     : Nat
  /-- The strings that the long instruction in progress feeds, as tokens: one, or CHOOSE's candidates (R367, R370, R371). -/
  feed     : List (List Nat)
  gblk     : Option GenBlk
  /-- The speculation tree being built or verified (R338). -/
  tree     : List TNode
  /-- Next level to draft; the tree is complete when it reaches its depth. -/
  level    : Nat
  treeDone : Bool
  /-- Draft weights at the tree's nodes (64 for the root), in units of 2^-266 (R338, R381). -/
  draft    : Tab (List Nat)
  /-- The commit that a valid prog.accept stands for (R335). -/
  accepted : Option Accept
  /-- Forks of a CHOOSE: best and current (R371). -/
  forkBest : Option Nat
  forkCur  : Option Nat
  /-- The Pantry snapshot that is the live recurrent state (R326, R341): of a tree node, none for the root's. -/
  snap     : Option Nat
  deriving DecidableEq, Repr

/-- A registered binding (R39, R324). -/
structure Binding where
  reg    : BindingReg
  tables : Option CompTables
  withdrawn : Bool
  deriving DecidableEq, Repr

/-- A registered automaton (R393). -/
structure Automaton where
  states  : Nat
  classes : Nat
  vocab   : Nat
  cls     : List Nat
  trans   : List (BitVec 32)
  deriving DecidableEq, Repr

/-- What a row of the step feeds (R328, R329). -/
structure StepRow where
  ctx   : Nat
  prog  : Nat
  slot  : Nat
  ntok  : Nat
  pos   : Nat
  first : Nat
  lrow  : Nat
  nl    : Nat
  kind  : Nat
  toks  : List Nat
  parents : List Nat
  /-- Tokens for which the context needs pages once the row has been committed (R324). -/
  upto  : Nat
  deriving DecidableEq, Repr

/-- One logit row of the step: its row, the position in the row, mode and children (R380), what settled it, and the reply (R382). -/
structure LogitRow where
  row     : Nat
  node    : Nat
  mode    : Nat
  childs  : Nat
  count   : Nat
  settled : Nat
  reply   : Option Word
  /-- A service record has been placed for it (R384). -/
  asked   : Bool
  /-- Cycle at which its item was posted (R380, R384). -/
  posted  : Option Nat
  deriving DecidableEq, Repr

/-- A step in progress (R10): the last stage it has passed, its buffers (R329, R380) and rows. -/
structure StepState where
  stage   : Nat
  binding : Nat
  draft   : Bool
  verify  : Bool
  desc    : Nat
  reqBase : Nat
  logit   : Nat
  pitch   : Nat
  mask    : Nat
  mpitch  : Nat
  weight  : Nat
  wpitch  : Nat
  stop    : Nat
  rows    : List StepRow
  lrows   : List LogitRow
  /-- Launches of the step graph, and the sampler launch. -/
  graph   : List LKey
  sampler : Option LKey
  deriving DecidableEq, Repr

/-- A service record placed for the Attic (R411) and what it is for. -/
structure Service where
  sq   : Nat
  func : Nat
  die  : Nat
  unit : Nat
  asid : Nat
  addr : Nat
  done : Bool
  deriving DecidableEq, Repr

/-- The plan for a program's look-ahead window (R319; log entry 81): galley pages reserved for contexts, and programs whose APPENDs may share
a prefill with one of the window. -/
structure Plan where
  reserve : List (Nat × List Nat)
  share   : List Nat
  reads   : List Nat
  deriving DecidableEq, Repr

structure Imposer where
  progs   : Tab Prog
  ctxs    : Tab Context
  nextCtx : Nat
  /-- The galley pool: page addresses free, and share counts of pages in chains (R324). -/
  free    : List Nat
  shares  : Tab Nat
  bindings : Tab Binding
  autos   : Tab Automaton
  sampler : Option (List Byte)
  quantum : BitVec 16
  chunk   : BitVec 16
  stepmax : BitVec 16
  sqEn    : Bool
  sqHold  : BitVec 28
  sqTime  : BitVec 28
  frMiss  : BitVec 32
  frHit   : BitVec 32
  /-- Recent mask chunks: automaton, state, chunk number, top symbol (R396). -/
  chunks  : List (Nat × Nat × Nat × Option Nat)
  stepNo  : Word
  step    : Option StepState
  ring    : Vector Nat 4
  /-- Event records of 32 bytes, oldest first (R348). -/
  events  : List (List Byte)
  bufBase : Word
  sqDesc  : Word
  replyPort : Word
  /-- Buffers of recent steps: start, end, and the cycle at which stage 7 ended (R383). -/
  bufs    : List (Nat × Nat × Nat)
  /-- Function modes as stage 1 last took them (R412). -/
  modes   : BitVec 7
  withdrawn : List Nat
  /-- What the look-ahead windows of the programs have planned (R319). -/
  plans   : Tab Plan
  deriving DecidableEq, Repr

/-! ## The device -/

/-- What the Attic is told (R39, R138, R142, R155, R337). -/
inductive Notice where
  | fault (p : FaultPkt)
  | abandoned (idAct : Word)
  | suspect (district : Nat) (first last : Word)
  | proofCells (a b : Nat)
  | trap (prog : Nat)
  | loadError (prog : Nat)
  | report (bytes : List Byte)
  deriving DecidableEq, Repr

structure State where
  agenda  : List Act
  actCell : Nat
  actProg : Nat
  tick    : Nat
  now     : Nat
  mem     : List Host.Cell
  poison  : List Nat
  cells   : Tab Cell
  dists   : Tab District
  dies    : Tab Die
  memStacks  : Tab Stack
  net     : List Packet
  stair   : List StairReq
  sysReqs : List SysReq
  queues  : Tab LQ
  launches : List Launch
  /-- The queue that was served last at each priority (R126). -/
  turns   : Tab Nat
  ppGate  : Bool
  ppIdle  : BitVec 32
  ppWake  : BitVec 8
  imp     : Imposer
  fmCtl   : BitVec 7
  svc     : List Service
  svcNext : Nat
  idNode  : Word
  bsCause : BitVec 8
  bsStage : BitVec 4
  bsDone  : BitVec 4
  faultPin : Bool
  images  : List (List Byte)
  /-- Bound ranges of the host window where a host is attached: first address, bytes, host address (R409). -/
  host    : Option (List (Nat × Nat × Nat))
  pcOver  : Bool
  pcWatts : BitVec 12
  capStretch : Bool
  impValid : Bool
  /-- Latched imp.cyc and impression set of each block (R157; log entry 7 numbers the blocks). -/
  impCyc  : Tab Word
  impSet  : Tab (List Word)
  notices : List Notice
  deriving DecidableEq, Repr

/-- An empty latch; the format code that the window shows of one is 0 (R294). -/
def Latch.reset : Latch := ⟨none, 0, 0, []⟩

def Core.reset : Core :=
  { x := Vector.replicate 32 0, pc := 0, loops := [], tok := Vector.replicate 8 Tok.idle,
    hnd := Vector.replicate 8 Handle.undef, run := .idle, act := none, trig := 0, xoTop := 0, idAct := 0 }

def VecEng.reset : VecEng := ⟨Vector.replicate 32 0, 0, Vector.replicate 8 0, [], none, Vector.replicate 32 0, []⟩

def MatEng.reset : MatEng :=
  { l0 := Latch.reset, l1 := Latch.reset, tiles := Vector.replicate 4 Tile.zero, head := 0, tail := 0, epi := Epi.off,
    lists := [], listTy := none, sat := false, cg := false, freshl := 0, fresht := 0, queue := [], fault := none,
    failed := [] }

def CopyEng.reset : CopyEng := ⟨[], [], none⟩

def Outgoing.reset : Outgoing := ⟨[], [], [], [], [], none, none, false, [], [], 0, []⟩

/-- A context that holds no launch. -/
def Ctx.reset : Ctx :=
  { core := Core.reset, vec := VecEng.reset, mat := MatEng.reset, cop := CopyEng.reset, out := Outgoing.reset, bell := [],
    rq := Vector.replicate 4 [], later := [], launch := none, rapExp := [], rapWait := [] }

def Trace.reset : Trace := ⟨false, false, 0, 0, 0, []⟩

def Cell.reset : Cell :=
  { ctx := Ctx.reset, floor := Floor.reset, dcache := [], utlb := [], pins := [], walked := [], misses := [], trace := Trace.reset,
    fwd := [], moving := none, last := none, bankPk := [], taken := false }

def District.reset : District :=
  { gated := false, waking := none, queue := [], sel := 0, policy := [], tlb := [], commit := 0, passed := 0,
    retired := false, drCnt := 0, stretched := false, stretchSince := 0, freeSince := 0 }

def InvSlot.reset : InvSlot := ⟨0, 0, 0, false, false, false⟩

def Die.reset : Die :=
  { llt := [], asidBase := 0, inv := Vector.replicate 8 InvSlot.reset, einjLine := 0, einjFired := false, einjKind := 0,
    einjArm := false, walks := [], lines := [], slices := [], deadSlices := [] }

def Stack.reset : Stack :=
  { en := true, backoff := 512, thresh := 4096, rd := 0, wr := 0, merge := 0, alert := 0, bocyc := 0, ce := 0, ue := 0,
    queue := [], acts := [], holds := [] }

/-- A program before it is loaded (R317). -/
def Prog.empty : Prog :=
  { pc := 0, n := Vector.replicate 32 0, c := Vector.replicate 16 none, s := Vector.replicate 16 Str.empty,
    q := Vector.replicate 8 ⟨XA.zero, false⟩, status := 0, cls := 0, weight := 1, mask := 0, asid := 0, entry := 0,
    image := [], run := .ready, deficit := 0, turnNew := true, killed := false, intr := false }

/-- An empty context (R356). -/
def Context.blank : Context :=
  { owner := 0, tokens := [], written := 0, binding := 0, gen := 0, fAuto := 0xffff, fState := 0, fDepth := 0, fStack := 0,
    seqn := 0, draw := 0, progOp := 0, progDone := 0, progStop := 0, progAccept := 0, status := 0, slot := none, pages := [],
    reappend := false, used := 0, feed := [], gblk := none, tree := [], level := 0, treeDone := false, draft := [],
    accepted := none, forkBest := none, forkCur := none, snap := none }

def Imposer.reset : Imposer :=
  { progs := [], ctxs := [], nextCtx := 0, free := [], shares := [], bindings := [], autos := [],
    sampler := none, quantum := 256, chunk := 512, stepmax := 16384, sqEn := true, sqHold := 2097152, sqTime := 1048576,
    frMiss := 0, frHit := 0, chunks := [], stepNo := 0, step := none, ring := Vector.replicate 4 0, events := [],
    bufBase := 0, sqDesc := 0, replyPort := 0, bufs := [], modes := 0, withdrawn := [],
    plans := [] }

/-- The device right after cold reset (R6 and the maps of every register; R407). -/
def State.reset : State :=
  { agenda := [], actCell := 0, actProg := 0, tick := 0, now := 0, mem := [], poison := [], cells := [], dists := [],
    dies := [], memStacks := [], net := [], stair := [], sysReqs := [], queues := [], launches := [], turns := [], ppGate := true, ppIdle := 1048576,
    ppWake := 4, imp := Imposer.reset, fmCtl := 0, svc := [], svcNext := 0, idNode := 0, bsCause := 0, bsStage := 0,
    bsDone := 0, faultPin := false, images := [], host := none, pcOver := false, pcWatts := 2200, capStretch := false,
    impValid := false, impCyc := [], impSet := [], notices := [] }

end Sys2Proof.Machine
end

