-- ==== Sys2Proof/Machine/Num.lean ====
section
/-! DEFINITION. Numbers: bytes and words (R4), FP32 and BF16 on exact dyadics with one rounding (R42 to R45, R55), the
functions of R239 and R240, block formats (R46 to R48), XA576 (R50 to R54, R56), quantisation (R57 to R59), the draw function
(R63) and the CRC of R143. -/

namespace Sys2Proof

/-! ## Bytes -/

/-- Little-endian value of bytes (R4). -/
def leNat : List Byte → Nat
  | [] => 0
  | b :: t => b.toNat + 256 * leNat t

/-- The low `n` bytes of a number, least significant first. -/
def leBytes : Nat → Nat → List Byte
  | 0, _ => []
  | n + 1, v => BitVec.ofNat 8 v :: leBytes n (v / 256)

/-- Bit i of a word as a Bool. -/
def bitAt {w : Nat} (v : BitVec w) (i : Nat) : Bool := v.getLsbD i

/-- Sets bit i to b. -/
def setBitAt {w : Nat} (v : BitVec w) (i : Nat) (b : Bool) : BitVec w :=
  let m := BitVec.ofNat w (2 ^ i)
  if b then v ||| m else v &&& ~~~m

/-- The field of `len` bits at `lo`, as a number. -/
def fieldNat {w : Nat} (v : BitVec w) (lo len : Nat) : Nat := v.toNat / 2 ^ lo % 2 ^ len

/-- Value of the low `w` bits of a number as two's complement. -/
def sextNat (w v : Nat) : Int :=
  let u := v % 2 ^ w
  if u < 2 ^ (w - 1) then (u : Int) else (u : Int) - 2 ^ w

/-- Number of bits of a number: the least n with v < 2^n. -/
def bitLen (v : Nat) : Nat := if v = 0 then 0 else Nat.log2 v + 1

/-- Number of one bits among the low `n`. -/
def popCount : Nat → Nat → Nat
  | 0, _ => 0
  | n + 1, v => v % 2 + popCount n (v / 2)

/-- An integer's low `w` bits. -/
def wrapInt (w : Nat) (i : Int) : Nat := (i % (2 ^ w : Int)).toNat

def clampInt (lo hi i : Int) : Int := if i < lo then lo else if hi < i then hi else i

def b2n (b : Bool) : Nat := if b then 1 else 0

/-- Whether every element of a list meets `p`, with its place. -/
def allFrom {α : Type} (p : Nat → α → Bool) : Nat → List α → Bool
  | _, [] => true
  | n, a :: t => p n a && allFrom p (n + 1) t

/-- Replaces place n of a list. -/
def setNth {α : Type} (l : List α) (n : Nat) (a : α) : List α := l.set n a

/-- Applies a function to place n of a list. -/
def modNth {α : Type} (l : List α) (n : Nat) (f : α → α) : List α :=
  match l[n]? with
  | some a => l.set n (f a)
  | none => l

def ceilDiv (a b : Nat) : Nat := if b = 0 then 0 else (a + b - 1) / b

def roundUp (a b : Nat) : Nat := ceilDiv a b * b

/-! ## Exact values and rounding -/

/-- A value that is NaN, an infinity, or exactly (-1)^neg × m × 2^e. -/
inductive Fl where
  | nan
  | inf (neg : Bool)
  | fin (neg : Bool) (m : Nat) (e : Int)
  deriving DecidableEq, Repr

/-- Significand bits and the exponent of the least subnormal (R43). -/
def FloatTy.prec : FloatTy → Nat
  | .f32 => 24
  | .bf16 => 8

def FloatTy.emin : FloatTy → Int
  | .f32 => -149
  | .bf16 => -133

def FloatTy.width : FloatTy → Nat
  | .f32 => 32
  | .bf16 => 16

def FloatTy.lane : FloatTy → LaneTy
  | .f32 => .f32
  | .bf16 => .bf16

/-- Bits of +∞. -/
def FloatTy.infBits (t : FloatTy) : Nat := 255 * 2 ^ (t.prec - 1)

/-- The canonical quiet NaN (R44). -/
def FloatTy.nanBits (t : FloatTy) : Nat := t.infBits + 2 ^ (t.prec - 2)

def FloatTy.signBit (t : FloatTy) (neg : Bool) : Nat := if neg then 2 ^ (t.width - 1) else 0

/-- The value a bit pattern stands for (R43). -/
def FloatTy.decode (t : FloatTy) (b : Nat) : Fl :=
  let neg := b / 2 ^ (t.width - 1) % 2 = 1
  let ex := b / 2 ^ (t.prec - 1) % 256
  let fr := b % 2 ^ (t.prec - 1)
  if ex = 255 then (if fr = 0 then .inf neg else .nan)
  else if ex = 0 then .fin neg fr t.emin
  else .fin neg (fr + 2 ^ (t.prec - 1)) (t.emin + (ex - 1 : Nat))

/-- Whether a truncated magnitude is raised by one: `odd` its last bit, `cmp` the dropped part against one half
(0 exact, 1 below, 2 equal, 3 above) (R55). -/
def roundsUp (mode : Rnd) (neg odd : Bool) (cmp : Nat) : Bool :=
  match mode with
  | .rne => cmp = 3 || (cmp = 2 && odd)
  | .rna => cmp = 3 || cmp = 2
  | .rtz => false
  | .rup => cmp ≠ 0 && !neg
  | .rdn => cmp ≠ 0 && neg

/-- Drops the low `sh` bits of m, of which something more than m is left where `sticky`; the kept part and how the dropped
part compares with one half. -/
def dropBits (m : Nat) (sticky : Bool) (sh : Nat) : Nat × Nat :=
  if sh = 0 then (m, if sticky then 1 else 0)
  else
    let r := m % 2 ^ sh
    let half := 2 ^ (sh - 1)
    (m / 2 ^ sh, if r = 0 && !sticky then 0 else if r < half then 1 else if r = half && !sticky then 2 else 3)

/-- Rounds m × 2^e (and a little more where `sticky`) to an integer magnitude in units of 2^q. -/
def roundAt (mode : Rnd) (neg : Bool) (m : Nat) (e : Int) (sticky : Bool) (q : Int) : Nat :=
  if q ≤ e then m * 2 ^ (e - q).toNat
  else
    let (k, cmp) := dropBits m sticky (q - e).toNat
    if roundsUp mode neg (k % 2 = 1) cmp then k + 1 else k

/-- Bits of the result where the rounded magnitude is beyond the greatest finite value (R55). -/
def FloatTy.overflow (t : FloatTy) (mode : Rnd) (neg : Bool) : Nat :=
  let toInf := match mode with
    | .rne | .rna => true
    | .rtz => false
    | .rup => !neg
    | .rdn => neg
  t.signBit neg + (if toInf then t.infBits else t.infBits - 1)

/-- One rounding of (-1)^neg × m × 2^e, plus less than one unit of 2^e where `sticky` (R55). -/
def FloatTy.round (t : FloatTy) (mode : Rnd) (neg : Bool) (m : Nat) (e : Int) (sticky : Bool := false) : Nat :=
  let q := max t.emin (e + bitLen m - t.prec)
  let k := roundAt mode neg m e sticky q
  let bits := (q - t.emin).toNat * 2 ^ (t.prec - 1) + k
  if bits ≥ t.infBits then t.overflow mode neg else t.signBit neg + bits

/-- Rounds a value to the format (R44, R55). -/
def FloatTy.ofFl (t : FloatTy) (mode : Rnd) : Fl → Nat
  | .nan => t.nanBits
  | .inf neg => t.signBit neg + t.infBits
  | .fin neg m e => if m = 0 then t.signBit neg else t.round mode neg m e

/-- Rounds a value to an integer (R42); a NaN gives 0 and an infinity is bounded by the caller's saturation. -/
def Fl.toInt (mode : Rnd) (lo hi : Int) : Fl → Int
  | .nan => 0
  | .inf neg => if neg then lo else hi
  | .fin neg m e =>
    let k : Int := roundAt mode neg m e false 0
    clampInt lo hi (if neg then -k else k)

/-- An integer as an exact value. -/
def Fl.ofInt (i : Int) : Fl := .fin (i < 0) i.natAbs 0

def Fl.negate : Fl → Fl
  | .nan => .nan
  | .inf n => .inf (!n)
  | .fin n m e => .fin (!n) m e

/-- Signed magnitude in units of 2^q, for q at or below the value's exponent. -/
def scaled (neg : Bool) (m : Nat) (e q : Int) : Int :=
  let k : Int := m * 2 ^ (e - q).toNat
  if neg then -k else k

/-- Exact sum; a zero sum takes its sign from R55. -/
def Fl.add (mode : Rnd) : Fl → Fl → Fl
  | .nan, _ => .nan
  | _, .nan => .nan
  | .inf a, .inf b => if a = b then .inf a else .nan
  | .inf a, .fin .. => .inf a
  | .fin .., .inf b => .inf b
  | .fin n1 m1 e1, .fin n2 m2 e2 =>
    let q := min e1 e2
    let s := scaled n1 m1 e1 q + scaled n2 m2 e2 q
    if s = 0 then .fin (decide (mode = .rdn) || (m1 = 0 && m2 = 0 && n1 && n2)) 0 0 else .fin (s < 0) s.natAbs q

/-- Exact product (R52, R55). -/
def Fl.mul : Fl → Fl → Fl
  | .nan, _ => .nan
  | _, .nan => .nan
  | .inf a, .inf b => .inf (a != b)
  | .inf a, .fin b m _ => if m = 0 then .nan else .inf (a != b)
  | .fin b m _, .inf a => if m = 0 then .nan else .inf (a != b)
  | .fin a m1 e1, .fin b m2 e2 => .fin (a != b) (m1 * m2) (e1 + e2)

/-- Order of two values that are not NaN, −0 before +0 where `signed0`: -1, 0 or 1. -/
def Fl.cmp (signed0 : Bool) : Fl → Fl → Int
  | .nan, _ => 0
  | _, .nan => 0
  | .inf a, .inf b => if a = b then 0 else if a then -1 else 1
  | .inf a, .fin .. => if a then -1 else 1
  | .fin .., .inf b => if b then 1 else -1
  | .fin n1 m1 e1, .fin n2 m2 e2 =>
    let q := min e1 e2
    let a := scaled n1 m1 e1 q
    let b := scaled n2 m2 e2 q
    if a < b then -1 else if b < a then 1
    else if signed0 && m1 = 0 && m2 = 0 && n1 != n2 then (if n1 then -1 else 1) else 0

def Fl.isNan : Fl → Bool
  | .nan => true
  | _ => false

def Fl.isFinite : Fl → Bool
  | .fin .. => true
  | _ => false

/-- Arithmetic with one rounding (R44). -/
def FloatTy.addB (t : FloatTy) (mode : Rnd) (a b : Nat) : Nat := t.ofFl mode (Fl.add mode (t.decode a) (t.decode b))
def FloatTy.subB (t : FloatTy) (mode : Rnd) (a b : Nat) : Nat :=
  t.ofFl mode (Fl.add mode (t.decode a) (t.decode b).negate)
def FloatTy.mulB (t : FloatTy) (mode : Rnd) (a b : Nat) : Nat := t.ofFl mode (Fl.mul (t.decode a) (t.decode b))
def FloatTy.fmaB (t : FloatTy) (mode : Rnd) (a b c : Nat) : Nat :=
  t.ofFl mode (Fl.add mode (Fl.mul (t.decode a) (t.decode b)) (t.decode c))

/-- Lesser or greater, the canonical NaN where either is NaN (R234, R212). -/
def FloatTy.pickB (t : FloatTy) (wantMax : Bool) (a b : Nat) : Nat :=
  let x := t.decode a
  let y := t.decode b
  if x.isNan || y.isNan then t.nanBits
  else if wantMax then (if Fl.cmp true x y < 0 then b else a) else (if Fl.cmp true y x < 0 then b else a)

/-! ## Functions of R239 and R240 -/

/-- Newton's iteration for the integer square root, from above. -/
def isqrtGo (n : Nat) : Nat → Nat → Nat
  | 0, x => x
  | f + 1, x => let y := (x + n / x) / 2; if y < x then isqrtGo n f y else x

/-- The integer square root. -/
def isqrt (n : Nat) : Nat := if n = 0 then 0 else isqrtGo n 400 (2 ^ (bitLen n / 2 + 1))

/-- 1 ÷ (m × 2^e) as magnitude, exponent and whether something is left, with at least 64 good bits. -/
def recip (m : Nat) (e : Int) : Nat × Int × Bool :=
  let k := bitLen m + 64
  (2 ^ k / m, -(k : Int) - e, 2 ^ k % m ≠ 0)

/-- √(m × 2^e) in the same form. -/
def sqrtParts (m : Nat) (e : Int) : Nat × Int × Bool :=
  let sh : Nat := if e % 2 = 0 then 128 else 129
  let n := m * 2 ^ sh
  let r := isqrt n
  (r, (e - sh) / 2, r * r ≠ n)

/-- The 200-bit roots 2^(2^-i) that a fraction's bits select, multiplied (R239). -/
def exp2Go : Nat → Nat → Nat → Nat → Nat
  | 0, _, _, acc => acc
  | f + 1, frac, root, acc =>
    let root' := isqrt (root * 2 ^ 200)
    let acc' := if frac / 2 ^ f % 2 = 1 then acc * root' / 2 ^ 200 else acc
    exp2Go f frac root' acc'

/-- 2^x (R239): exact for integers; else from 200-bit roots with a remainder (log entry 11). -/
def FloatTy.exp2 (t : FloatTy) (mode : Rnd) : Fl → Nat
  | .nan => t.nanBits
  | .inf neg => if neg then 0 else t.infBits
  | .fin neg m e =>
    if m = 0 then t.round mode false 1 0
    else if e + bitLen m > 10 then
      (if neg then t.round mode false 1 (-2000) else t.overflow mode false)
    else if e + bitLen m < -27 then
      (if neg then t.round mode false (2 ^ 26 - 1) (-26) true else t.round mode false (2 ^ 26) (-26) true)
    else
      let v := scaled neg m e (-64)
      let n := v / 2 ^ 64
      let frac := (v % 2 ^ 64).toNat
      if frac = 0 then t.round mode false 1 n
      else t.round mode false (exp2Go 64 frac (2 ^ 201) (2 ^ 200) / 2 ^ 20) (n - 180) true

/-- Bits of log2 of y ÷ 2^400 in [1, 2), by repeated squaring. -/
def log2Go : Nat → Nat → Nat → Nat
  | 0, _, acc => acc
  | f + 1, y, acc =>
    let z := y * y / 2 ^ 400
    if z ≥ 2 ^ 401 then log2Go f (z / 2) (2 * acc + 1) else log2Go f z (2 * acc)

/-- log2 x (R239): exact for powers of two; else 160 bits with a remainder (log entry 11). -/
def FloatTy.log2 (t : FloatTy) (mode : Rnd) : Fl → Nat
  | .nan => t.nanBits
  | .inf neg => if neg then t.nanBits else t.infBits
  | .fin neg m e =>
    if m = 0 then t.signBit true + t.infBits
    else if neg then t.nanBits
    else
      let b := bitLen m - 1
      let i : Int := e + b
      if m = 2 ^ b then t.ofFl mode (Fl.ofInt i)
      else
        let tot := i * 2 ^ 160 + (log2Go 160 (m * 2 ^ 400 / 2 ^ b) 0 : Nat)
        if tot ≥ 0 then t.round mode false tot.toNat (-160) true else t.round mode true (tot.natAbs - 1) (-160) true

/-- 1 ÷ x (R239). -/
def FloatTy.rcp (t : FloatTy) (mode : Rnd) : Fl → Nat
  | .nan => t.nanBits
  | .inf neg => t.signBit neg
  | .fin neg m e =>
    if m = 0 then t.signBit neg + t.infBits
    else let (r, q, st) := recip m e; t.round mode neg r q st

/-- √x (R239). -/
def FloatTy.sqrt (t : FloatTy) (mode : Rnd) : Fl → Nat
  | .nan => t.nanBits
  | .inf neg => if neg then t.nanBits else t.infBits
  | .fin neg m e =>
    if m = 0 then t.signBit neg
    else if neg then t.nanBits
    else let (r, q, st) := sqrtParts m e; t.round mode false r q st

/-- v rounded toward zero to a significand of n + 1 bits (R240). -/
def truncSig (n m : Nat) (e : Int) : Nat × Int :=
  let sh := bitLen m - (n + 1)
  (m / 2 ^ sh, e + sh)

/-- The .f32 result of R240 from its truncated magnitude. -/
def approxF32 (neg : Bool) (m : Nat) (e : Int) : Nat :=
  if e + bitLen m > 128 then FloatTy.f32.signBit neg + FloatTy.f32.infBits else FloatTy.f32.round .rtz neg m e

/-- A BF16 value's FP32 bits (R45). -/
def widenB (b : Nat) : Nat := b * 2 ^ 16

/-- The .bf16 result of R240: the .f32 result rounded toward zero. -/
def narrowApprox (f : Nat) : Nat := FloatTy.bf16.ofFl .rtz (FloatTy.f32.decode f)

def rcpaF32 (b : Nat) : Nat :=
  match FloatTy.f32.decode b with
  | .fin neg m e =>
    if m = 0 then FloatTy.f32.signBit neg + FloatTy.f32.infBits
    else
      let (r, q, _) := recip m e
      let (k, q') := truncSig 14 r q
      approxF32 neg k q'
  | v => FloatTy.f32.rcp .rtz v

def rsqaF32 (b : Nat) : Nat :=
  match FloatTy.f32.decode b with
  | .nan => FloatTy.f32.nanBits
  | .inf neg => if neg then FloatTy.f32.nanBits else 0
  | .fin neg m e =>
    if m = 0 then FloatTy.f32.signBit neg + FloatTy.f32.infBits
    else if neg then FloatTy.f32.nanBits
    else
      -- 1 ÷ √v = √(1 ÷ v): the root of the quotient scaled by an even power of two, rounded down once
      let sh : Nat := if (e + bitLen m) % 2 = 0 then bitLen m + 128 else bitLen m + 129
      let r := isqrt (2 ^ sh / m)
      let (k, q') := truncSig 13 r ((-(sh : Int) - e) / 2)
      approxF32 false k q'

def FloatTy.rcpa (t : FloatTy) (b : Nat) : Nat :=
  match t with
  | .f32 => rcpaF32 b
  | .bf16 => narrowApprox (rcpaF32 (widenB b))

def FloatTy.rsqa (t : FloatTy) (b : Nat) : Nat :=
  match t with
  | .f32 => rsqaF32 b
  | .bf16 => narrowApprox (rsqaF32 (widenB b))

/-! ## Drain types -/

def DrainTy.float? : DrainTy → Option FloatTy
  | .f32 => some .f32
  | .bf16 => some .bf16
  | .s32 => none

/-- Rounds a value to a drain type: bits, NaN case, saturated (R55, R56, R308). A zero gives +0. -/
def drainFl (t : DrainTy) (mode : Rnd) (v : Fl) : Nat × Bool × Bool :=
  match t.float? with
  | some ft =>
    match v with
    | .nan => (ft.nanBits, true, false)
    | .fin neg m e => (if m = 0 then 0 else ft.round mode neg m e, false, false)
    | v => (ft.ofFl mode v, false, false)
  | none =>
    match v with
    | .nan => (0, true, false)
    | .inf neg => (wrapInt 32 (if neg then -(2 ^ 31 : Int) else 2 ^ 31 - 1), false, true)
    | .fin neg m e =>
      let k : Int := roundAt mode neg m e false 0
      let i := if neg then -k else k
      let c := clampInt (-(2 ^ 31)) (2 ^ 31 - 1) i
      (wrapInt 32 c, false, i ≠ c)

/-! ## Block formats -/

/-- Element width (R46). -/
def PbTy.w : PbTy → Nat
  | .pb2 => 2
  | .pb4 => 4
  | .pb7 => 7

/-- Block bytes (R46). -/
def PbTy.bytes : PbTy → Nat
  | .pb2 => 6
  | .pb4 => 10
  | .pb7 => 16

/-- A NaN block (R48). -/
def pbIsNan (blk : Nat) : Bool := blk % 256 = 255

/-- Element i of a block (R46 to R48). -/
def PbTy.elem (p : PbTy) (blk i : Nat) : Fl :=
  if pbIsNan blk then .nan
  else
    let ex := blk % 256
    let ss := blk / 2 ^ (8 + 2 * (i / 4)) % 4
    let el := blk / 2 ^ (16 + p.w * i) % 2 ^ p.w
    let g : Int := ((ex - ss : Nat) : Int)
    let m := el % 2 ^ (p.w - 1)
    if m = 0 then .fin false 0 0 else .fin (el / 2 ^ (p.w - 1) = 1) m (g - 127 - (p.w - 2))

/-- Biased exponent field of a value's binary32 form (R57, R59). -/
def biasedExp (t : FloatTy) (b : Nat) : Nat := b / 2 ^ (t.prec - 1) % 256

/-- Greatest biased exponent of the non-zero elements (R59). -/
def maxExp (t : FloatTy) (l : List Nat) : Nat :=
  l.foldl (fun a b => if b % 2 ^ (t.width - 1) = 0 then a else max a (biasedExp t b)) 0

/-- Magnitude code of an element under a group exponent (R59). -/
def packMag (p : PbTy) (t : FloatTy) (g b : Nat) : Nat :=
  let top := 2 ^ (p.w - 1) - 1
  match t.decode b with
  | .nan => 0
  | .inf _ => top
  | .fin _ m e => min top (roundAt .rne false m e false ((g : Int) - 127 - (p.w - 2)))

/-- The block of 16 elements under a clip exponent (R59). -/
def PbTy.pack (p : PbTy) (t : FloatTy) (c : Nat) (els : List Nat) : Nat :=
  if els.any (fun b => (t.decode b).isNan) then 255
  else
    let ex := min (maxExp t els) c
    let ss := (List.range 4).map (fun g =>
      min 3 (ex - min (maxExp t ((els.drop (4 * g)).take 4)) ex))
    let ssByte := (List.range 4).foldl (fun a g => a + ss.getD g 0 * 4 ^ g) 0
    let body := (List.range 16).foldl (fun a i =>
      let b := els.getD i 0
      let m := packMag p t (ex - ss.getD (i / 4) 0) b
      let s := if m > 0 then b / 2 ^ (t.width - 1) % 2 else 0
      a + (m + s * 2 ^ (p.w - 1)) * 2 ^ (p.w * i)) 0
    ex + ssByte * 256 + body * 65536

/-- The clip exponent of a histogram under a percentile (R58). -/
def clipExp (h : List Nat) (p : Nat) : Nat :=
  let bins := h.take 255
  let n := bins.foldl (· + ·) 0
  let want := ceilDiv (p * n) 65536
  let go := (List.range 255).foldl (fun (st : Nat × Option Nat) b =>
    let sum := st.1 + bins.getD b 0
    (sum, match st.2 with
      | some r => some r
      | none => if sum ≥ want then some b else none)) (0, none)
  go.2.getD 0

/-! ## Draws and digests -/

/-- One round of R63. -/
def drawRound (h k : Word) : Word :=
  let h1 := (h ^^^ (h >>> 29)) * k
  h1 ^^^ (h1 >>> 32)

/-- The draw function (R63). -/
def draw (seed seqn i : Word) : BitVec 32 :=
  let k1 : Word := 0x8f3c5a17e2b964d1
  let k2 : Word := 0xa4d91c7e53f2b08b
  let k3 : Word := 0xc62e97a50d4bf317
  let k4 : Word := 0xe9b13f68a27cd455
  let h := seed ^^^ ((seqn ^^^ k4) * k1) ^^^ ((i ^^^ k3) * k2)
  (drawRound (drawRound (drawRound (drawRound h k1) k2) k3) k4).extractLsb' 32 32

/-- One bit of the CRC of R143, most significant first. -/
def crcBit (crc : BitVec 64) (b : Bool) : BitVec 64 :=
  let top := bitAt crc 63 != b
  if top then (crc <<< 1) ^^^ 0x42f0e1eba9ea3693 else crc <<< 1

def crcByte (crc : BitVec 64) (x : Byte) : BitVec 64 :=
  [7, 6, 5, 4, 3, 2, 1, 0].foldl (fun c i => crcBit c (bitAt x i)) crc

/-- CRC-64 of a stream of bytes (R143). -/
def crc64 (l : List Byte) : BitVec 64 := l.foldl crcByte 0

end Sys2Proof

namespace Sys2Proof.Machine

/-! ## XA576 -/

/-- Units of 2^-266 of a finite value on the grid (R50). -/
def gridUnits (neg : Bool) (m : Nat) (e : Int) : Int := scaled neg m e (-266)

/-- What the contributions of one instruction come to (R52): exact sum and the three flags. -/
structure Contrib where
  sum : Int
  fn  : Bool
  fp  : Bool
  fm  : Bool
  deriving DecidableEq, Repr

def Contrib.zero : Contrib := ⟨0, false, false, false⟩

def Contrib.add (c : Contrib) : Fl → Contrib
  | .nan => { c with fn := true }
  | .inf neg => if neg then { c with fm := true } else { c with fp := true }
  | .fin neg m e => { c with sum := c.sum + gridUnits neg m e }

def Contrib.addAll (c : Contrib) (l : List Fl) : Contrib := l.foldl Contrib.add c

/-- An image or pair as contributions (R212, R242): X and the nan, pinf and ninf bits; cg is ignored. -/
def Contrib.addXA (c : Contrib) (a : XA) : Contrib :=
  ⟨c.sum + a.x.toInt, c.fn || a.nan, c.fp || a.pinf, c.fm || a.ninf⟩

/-- The range of X (R50). -/
def xaInRange (i : Int) : Bool := -(2 ^ 575 : Int) ≤ i && i < (2 ^ 575 : Int)

/-- Whether an addition leaves the range (R52). -/
def XA.leaves (a : XA) (c : Contrib) : Bool := !xaInRange (a.x.toInt + c.sum)

/-- The addition of R52, and what a carry-guard leaves (R53). -/
def XA.accum (a : XA) (c : Contrib) : XA :=
  if a.leaves c then { a with cg := true }
  else { x := BitVec.ofInt 576 (a.x.toInt + c.sum), nan := a.nan || c.fn, pinf := a.pinf || c.fp, ninf := a.ninf || c.fm,
         cg := a.cg }

/-- The value of an accumulator by the cases of R56. -/
def XA.value (a : XA) : Fl :=
  if a.nan || (a.pinf && a.ninf) then .nan
  else if a.pinf then .inf false
  else if a.ninf then .inf true
  else .fin (a.x.toInt < 0) a.x.toInt.natAbs (-266)

/-- Drain of an accumulator (R56). -/
def XA.drain (a : XA) (t : DrainTy) (mode : Rnd) : Nat × Bool × Bool := drainFl t mode a.value

/-- Metadata word (R51). -/
def XA.meta (a : XA) : Nat := b2n a.nan + 2 * b2n a.pinf + 4 * b2n a.ninf + 8 * b2n a.cg

/-- An accumulator as its 640-bit image and back (R54, R221). -/
def XA.toNat (a : XA) : Nat := a.x.toNat + a.meta * 2 ^ 576

def XA.ofNat (n : Nat) : XA :=
  let md := n / 2 ^ 576
  { x := BitVec.ofNat 576 n, nan := md % 2 = 1, pinf := md / 2 % 2 = 1, ninf := md / 4 % 2 = 1, cg := md / 8 % 2 = 1 }

def XA.bytes (a : XA) : List Byte := leBytes 80 a.toNat

def XA.ofBytes (l : List Byte) : XA := XA.ofNat (leNat (l.take 80))

end Sys2Proof.Machine
end

