-- ==== Sys2Proof/Machine/Mem.lean ====
section
/-! DEFINITION. Places in the device, memory bytes in one canonical form, poison, the local map (R69, R70), caches and HBM
ports (R72 to R78), translation and its caches (R79 to R87), and what a load or store does at its place. -/

namespace Sys2Proof.Machine

/-! ## Parts of the state by number -/

def State.cell (s : State) (c : Nat) : Cell := Tab.get Cell.reset s.cells c
def State.updCell (s : State) (c : Nat) (f : Cell → Cell) : State := { s with cells := Tab.upd Cell.reset s.cells c f }
def State.dist (s : State) (d : Nat) : District := Tab.get District.reset s.dists d
def State.updDist (s : State) (d : Nat) (f : District → District) : State :=
  { s with dists := Tab.upd District.reset s.dists d f }
def State.die (s : State) (d : Nat) : Die := Tab.get Die.reset s.dies d
def State.updDie (s : State) (d : Nat) (f : Die → Die) : State := { s with dies := Tab.upd Die.reset s.dies d f }
def State.stack (s : State) (k : Nat) : Stack := Tab.get Stack.reset s.memStacks k
def State.updStack (s : State) (k : Nat) (f : Stack → Stack) : State :=
  { s with memStacks := Tab.upd Stack.reset s.memStacks k f }
def State.updImp (s : State) (f : Imposer → Imposer) : State := { s with imp := f s.imp }
/-- Discards the plans that read registers of a program: its own, and those that looked at its APPENDs (R319). -/
def Imposer.dropPlans (i : Imposer) (p : Nat) : Imposer :=
  { i with plans := i.plans.filter (fun (q : Nat × Plan) => q.1 ≠ p && !q.2.reads.contains p) }
def State.dropPlans (s : State) (p : Nat) : State := s.updImp (fun i => i.dropPlans p)

def Cell.updCtx (cl : Cell) (f : Ctx → Ctx) : Cell := { cl with ctx := f cl.ctx }
def State.ctx (s : State) (c : Nat) : Ctx := (s.cell c).ctx
def State.updCtx (s : State) (c : Nat) (f : Ctx → Ctx) : State := s.updCell c (fun cl => cl.updCtx f)
def State.updCore (s : State) (c : Nat) (f : Core → Core) : State := s.updCtx c (fun x => { x with core := f x.core })
def State.updVec (s : State) (c : Nat) (f : VecEng → VecEng) : State := s.updCtx c (fun x => { x with vec := f x.vec })
def State.updMat (s : State) (c : Nat) (f : MatEng → MatEng) : State := s.updCtx c (fun x => { x with mat := f x.mat })
def State.updCop (s : State) (c : Nat) (f : CopyEng → CopyEng) : State := s.updCtx c (fun x => { x with cop := f x.cop })
def State.updOut (s : State) (c : Nat) (f : Outgoing → Outgoing) : State := s.updCtx c (fun x => { x with out := f x.out })
def State.core (s : State) (c : Nat) : Core := (s.ctx c).core
def State.cop (s : State) (c : Nat) : CopyEng := (s.ctx c).cop

/-- Numbering of R12 and R13. -/
def dieOfCell (c : Nat) : Nat := if c < 3072 then c / 1536 else (c - 3072) / 24
def cxOf (c : Nat) : Nat := c % 48
def cyOf (c : Nat) : Nat := c / 48 % 32
def distOfCell (c : Nat) : Nat := if c < 3072 then c / 1536 * 24 + (cyOf c / 8) * 6 + cxOf c / 8 else c - 3072
/-- The Hall core of a district (R13): the model's number of it lies behind the cells' (log entry 74). -/
def hallOf (d : Nat) : Nat := 3072 + d
def isHall (c : Nat) : Bool := 3072 ≤ c && c < 3120
/-- The cell that dw.ctl.sel names in a district (R137). -/
def cellOfSel (d sel : Nat) : Nat :=
  (d / 24) * 1536 + ((d % 24 / 6) * 8 + sel / 8 % 8) * 48 + (d % 24 % 6) * 8 + sel % 8
def cellsOfDist (d : Nat) : List Nat := (List.range 64).map (cellOfSel d)

/-- fp.cap, fp.vcap and acap (R151, R186). -/
def Cell.fpCap (cl : Cell) : Nat := cl.floor.scratch.length * 32768
def Cell.fpVcap (cl : Cell) : Nat := cl.floor.vector.length * 8
def Cell.acap (cl : Cell) : Nat := cl.floor.accum.length

def Ctx.asid (x : Ctx) : Nat := match x.launch with
  | some l => l.key.asid
  | none => 0

/-! ## Memory bytes -/

/-- The byte at an address: the listed one, else 0 (log entry 4). -/
def memGet : List Host.Cell → Nat → Byte
  | [], _ => 0
  | (k, v) :: t, a => if k = a then v else memGet t a

/-- Writes one byte and keeps the canonical form: addresses rising, no byte 0 listed. -/
def memSet : List Host.Cell → Nat → Byte → List Host.Cell
  | [], a, b => if b = 0 then [] else [(a, b)]
  | (k, v) :: t, a, b =>
    if k = a then (if b = 0 then t else (a, b) :: t)
    else if a < k then (if b = 0 then (k, v) :: t else (a, b) :: (k, v) :: t)
    else (k, v) :: memSet t a b

/-- The canonical form: addresses strictly rising and no entry equal to what an unlisted address reads as. -/
def Memory.wf : List Host.Cell → Bool
  | [] => true
  | (k, v) :: t => (v != 0) && (match t with
    | [] => true
    | (k', _) :: _ => decide (k < k')) && Memory.wf t

/-- Poisoned lines rise strictly. -/
abbrev LinesRise (l : List Nat) : Prop := l.Pairwise (· < ·)

/-- Memory and poison bits are in their canonical form (log entry 4). -/
def State.Canon (s : State) : Prop := Memory.wf s.mem = true ∧ LinesRise s.poison

/-- `n` bytes from an address on. -/
def memRead (m : List Host.Cell) (a : Nat) : Nat → List Byte
  | 0 => []
  | n + 1 => memGet m a :: memRead m (a + 1) n

/-- Writes bytes from an address on. -/
def memWrite (m : List Host.Cell) (a : Nat) : List Byte → List Host.Cell
  | [] => m
  | b :: t => memWrite (memSet m a b) (a + 1) t

def State.readB (s : State) (a : Nat) : Byte := memGet s.mem a
def State.read (s : State) (a n : Nat) : List Byte := memRead s.mem a n
def State.readNat (s : State) (a n : Nat) : Nat := leNat (memRead s.mem a n)

/-- Poison bits by line number (R88). -/
def State.poisoned (s : State) (line : Nat) : Bool := s.poison.contains line

def insLine : List Nat → Nat → List Nat
  | [], n => [n]
  | k :: t, n => if k = n then k :: t else if n < k then n :: k :: t else k :: insLine t n

def State.setPoison (s : State) (line : Nat) (b : Bool) : State :=
  { s with poison := if b then insLine s.poison line else s.poison.filter (· ≠ line) }

/-! ## The local map -/

/-- Scratchpad window of a cell (R70). -/
def spBase (c : Nat) : Nat := 0x10000000000 + c * 0x80000

/-- Regions of the local map (R70). -/
inductive Region where
  | hbm | scratch (c off : Nat) | mmio | host | unmapped
  deriving DecidableEq, Repr

def regionOf (loc : Nat) : Region :=
  if loc < 0x8000000000 then .hbm
  else if 0x10000000000 ≤ loc && loc < 0x10060000000 then
    .scratch ((loc - 0x10000000000) / 0x80000) ((loc - 0x10000000000) % 0x80000)
  else if 0x20000000000 ≤ loc && loc < 0x20100000000 then .mmio
  else if (0x30000000000 ≤ loc && loc < 0x40000000000) || 2 ^ 52 ≤ loc then .host
  else .unmapped

/-- Host memory stands behind the physical addresses, from 2^52 on, host address by host address (R409). -/
def hostBase : Nat := 2 ^ 52
def nodeField (pa : Nat) : Nat := if pa < hostBase then pa / 2 ^ 43 else 0
def localOf (pa : Nat) : Nat := if pa < hostBase then pa % 2 ^ 43 else pa

/-- Whether a physical address is of this device (R69). -/
def State.isHere (s : State) (pa : Nat) : Bool :=
  nodeField pa = 0 || (s.idNode.toNat ≠ 0 && nodeField pa = s.idNode.toNat)

def stackOf (loc : Nat) : Nat := loc / 0x1000000000
def dieOfStack (k : Nat) : Nat := k / 4

/-- Where an address of the host window leads: none where no host is attached or the address is unbound (R70, R409). -/
def State.hostAddr (s : State) (loc : Nat) : Option Nat :=
  (s.host.getD []).findSome? (fun r => if r.1 ≤ loc && loc < r.1 + r.2.1 then some (hostBase + r.2.2 + (loc - r.1)) else none)

/-- Whether a place in host memory is bound (R409). -/
def State.hostOk (s : State) (a : Nat) : Bool :=
  (s.host.getD []).any (fun r => hostBase + r.2.2 ≤ a && a < hostBase + r.2.2 + r.2.1)

/-- Where an access of a cell's party leads. -/
inductive Place where
  | own (off : Nat)          -- the cell's own scratchpad
  | bell (off : Nat)         -- its own bellboard window
  | scratch (c off : Nat)    -- a scratchpad through the window
  | mem (pa : Nat)           -- HBM of this device, or host memory
  | remote (pa : Nat)        -- another device
  deriving DecidableEq, Repr

/-- A place with the page's flag bits (R79); local places carry rd, w and pa. -/
structure Loc where
  place : Place
  flags : BitVec 8
  deriving DecidableEq, Repr

/-- Outcome of resolving an address: a place, a missing translation (64 KiB granule), or a fault cause with its order in
R218, R257, R284 and R312: 1 translation, bad entry, permission; 2 region. -/
inductive Res where
  | ok (l : Loc)
  | miss (gran : Nat)
  | fault (order cause : Nat)
  deriving DecidableEq, Repr

def Res.isMiss : Res → Bool
  | .miss _ => true
  | _ => false

/-- What an access does (R80): the rights it needs. -/
inductive Acc where
  | load | store | both | fetch
  deriving DecidableEq, Repr

def Acc.needsRd : Acc → Bool
  | .load | .both => true
  | .store | .fetch => false

def Acc.needsW : Acc → Bool
  | .store | .both => true
  | .load | .fetch => false

def Acc.needsX : Acc → Bool
  | .fetch => true
  | .load | .store | .both => false

/-- Follows a forwarding entry for a context's window access (R71, R149). -/
def State.forward (s : State) (key : Option LKey) (c : Nat) : Nat :=
  match key with
  | none => c
  | some k => match (s.cell c).fwd.find? (fun f => f.key = k) with
    | some f => f.dst
    | none => c

/-- The place of a physical address for an access of cell `c` (R69 to R71). A window address of its own scratchpad is that
location (log entry 70). The execute-only boundary does not hold off a Hall core (R136). Remote scratchpads and windows are checked when the remote device serves the request. -/
def State.placeOf (s : State) (c pa : Nat) (flags : BitVec 8) : Res :=
  let loc := localOf pa
  if nodeField pa > 288 then .fault 2 0x13
  else if !s.isHere pa then .ok ⟨.remote pa, flags⟩
  else match regionOf loc with
    | .hbm => .ok ⟨.mem loc, flags⟩
    | .scratch t off =>
      let t' := s.forward ((s.ctx c).launch.map (·.key)) t
      let cl := s.cell t'
      if off < cl.fpCap && (cl.ctx.core.xoTop ≤ off || isHall c) then .ok ⟨if t' = c then .own off else .scratch t' off, flags⟩
      else .fault 2 0x13
    | .host => match s.hostAddr loc with
      | some h => .ok ⟨.mem h, flags⟩
      | none => .fault 2 0x13
    | .mmio | .unmapped => .fault 2 0x13

/-! ## Translation -/

def TEntry.hits (e : TEntry) (asid va : Nat) : Bool :=
  (e.asid = asid || bitAt e.flags 7) && e.vbase ≤ va && va < e.vbase + e.size

/-- The range of an invalidation (R84). -/
def InvSlot.first (i : InvSlot) : Nat := i.base.toNat / 65536 * 65536
def InvSlot.size (i : InvSlot) : Nat := if i.len = 0 then 65536 else roundUp i.len.toNat 65536

/-- A translation or granule of an ASID meets the range of a slot. -/
def InvSlot.meets (i : InvSlot) (asid : Nat) (global : Bool) (vbase size : Nat) : Bool :=
  (i.asid.toNat % 65536 = asid || (i.glob && global)) && vbase < i.first + i.size && i.first < vbase + size

/-- Entries that an invalidation removes (R84): of its ASID, and global ones where glob is set. DESIGN CHOICE: without glob a
global entry stays, of its own ASID too (log entry 71). -/
def InvSlot.removes (i : InvSlot) (e : TEntry) : Bool :=
  ((i.asid.toNat % 65536 = e.asid && !bitAt e.flags 7) || (i.glob && bitAt e.flags 7)) &&
    e.vbase < i.first + i.size && i.first < e.vbase + e.size

/-- A running invalidation of the die holds the lookup (R84). -/
def State.invBlocks (s : State) (die asid va : Nat) : Bool :=
  (s.die die).inv.toList.any (fun i => i.busy && i.meets asid false va 1)

/-- The lookup of R82. -/
def State.lookup (s : State) (c asid va : Nat) : Option TEntry :=
  match (s.cell c).utlb.find? (·.hits asid va) with
  | some e => some e
  | none => match (s.dist (distOfCell c)).tlb.find? (·.hits asid va) with
    | some e => some e
    | none => (s.die (dieOfCell c)).llt.find? (·.hits asid va)

/-- Rights of a translation (R80). -/
def rightsOk (flags : BitVec 8) (a : Acc) : Bool :=
  (!a.needsRd || bitAt flags 1) && (!a.needsW || bitAt flags 2) && (!a.needsX || bitAt flags 3)

/-- Resolves a virtual address of job memory that a translation entry covers. -/
def State.viaEntry (s : State) (c va : Nat) (a : Acc) (e : TEntry) : Res :=
  if rightsOk e.flags a then s.placeOf c (e.pbase + (va - e.vbase)) e.flags else .fault 1 0x12

/-- Flag bits of an untranslated place: readable, writable, poison allowed. -/
def localFlags : BitVec 8 := 0b00010111

/-- Resolves a byte address of a cell's access (R65 to R67, R80, R82). A gather consults fault pins, any other access the
failures of the walks it waited for (R86). DEDUCED: a large leaf over the first MiB is consulted for what of its page lies above it, since
the addresses below are resolved without translation (R65; log entry 92). -/
def State.resolve (s : State) (c : Nat) (a : Acc) (gather : Bool) (va : Nat) : Res :=
  let cl := s.cell c
  if va < 0x80000 then
    if va < cl.fpCap && cl.ctx.core.xoTop ≤ va then .ok ⟨.own va, localFlags⟩ else .fault 2 0x13
  else if va < 0x88000 then
    if a = .load then .ok ⟨.bell (va - 0x80000), localFlags⟩ else .fault 2 0x13
  else if va < 0x100000 then .fault 2 0x13
  else
    let asid := cl.ctx.asid
    if s.invBlocks (dieOfCell c) asid va then .miss (va / 65536)
    else match s.lookup c asid va with
      | some e => s.viaEntry c va a e
      | none =>
        if gather then
          match cl.pins.find? (fun p => p.asid = asid && p.gran = va / 65536) with
          | some p => .fault 1 p.cause
          | none => .miss (va / 65536)
        else
          match cl.walked.find? (fun p => p.1 = asid && p.2.1 = va / 65536) with
          | some p => .fault 1 p.2.2
          | none => .miss (va / 65536)

/-- The Attic is told (R138). -/
def State.notice (s : State) (n : Notice) : State := { s with notices := s.notices ++ [n] }

/-- A new service record (R411). -/
def State.service (s : State) (func die unit asid addr : Nat) : State :=
  { s with svc := s.svc ++ [⟨s.svcNext, func, die, unit, asid, addr, false⟩], svcNext := s.svcNext + 1 }

/-- A unit asks anew for a function: a done record of another object that it did not wait for to the end goes. -/
def State.askAnew (s : State) (func die unit asid addr : Nat) : State :=
  { s with svc := s.svc.filter (fun r => !(r.done && r.func = func && r.die = die && r.unit = unit)) }.service func die unit asid addr

/-- The record that a unit has placed for a function on an object. -/
def State.serviceOf (s : State) (func die unit asid addr : Nat) : Option Service :=
  s.svc.find? (fun r => r.func = func && r.die = die && r.unit = unit && r.asid = asid && r.addr = addr)

/-- A function in Attic-assisted mode places a service record and goes on once it is done (R411). -/
def State.viaAttic (s : State) (on : Bool) (bit die unit asid addr : Nat) (go : State → State) : State :=
  match s.serviceOf bit die unit asid addr with
  | some r => if r.done then go { s with svc := s.svc.filter (fun x => x.sq ≠ r.sq) } else s
  | none => if on then s.askAnew bit die unit asid addr else go s

/-- The comparison of a pair's digests is no longer asked for: the activation of its first cell has gone (R143, R411). -/
def State.dropCompare (s : State) (c : Nat) : State := { s with svc := s.svc.filter (fun r => !(r.func = 6 && r.unit = c)) }

/-! ## Walkers -/

/-- The cell that holds the walker of a hardware walk: the one whose miss started it. -/
def Walk.owner (w : Walk) : Nat := (w.cells.head?.map (·.1)).getD 0

/-- Walkers of a die that cells of some kind hold (R83); a walk that the Attic serves holds none (R85). -/
def Die.walkers (d : Die) (f : Nat → Bool) : Nat := (d.walks.filter (fun w => w.svc.isNone && f w.owner)).length

/-- A cell may take a walker (R83): it holds fewer than 8, and its district has one of its 16 left or one of the 128 shared is
left. -/
def State.walkerFree (s : State) (c : Nat) : Bool :=
  let d := s.die (dieOfCell c)
  let inDist := fun (k : Nat) => d.walkers (fun x => distOfCell x = k)
  d.walkers (fun x => x = c) < 8 && (inDist (distOfCell c) < 16 ||
    ((List.range 24).map (fun k => inDist (dieOfCell c * 24 + k) - 16)).foldl (· + ·) 0 < 128)

/-- A miss is of the same access as another. -/
def Miss.same (m n : Miss) : Bool := m.asid = n.asid && m.gran = n.gran && m.gather = n.gather

/-- A miss asks for a walk (R82, R83): it joins the walk of its ASID and page, takes a walker, or waits in its cell's queue. Where it
is Attic-assisted at the miss (R412) a service record takes the walk's place (R85). A miss that a running invalidation holds waits too (R84). DESIGN
CHOICE: the page of a miss is its 64 KiB granule, since its page's size is known at the walk's end only (log entry 86). -/
def State.askMiss (s0 : State) (c : Nat) (m0 : Miss) : State :=
  let d := dieOfCell c
  let blocked := s0.invBlocks d m0.asid (m0.gran * 65536)
  let attic := m0.attic.getD (bitAt s0.fmCtl 0)
  let m := if blocked then m0 else { m0 with attic := some attic }
  let (asid, gran, gather) := (m.asid, m.gran, m.gather)
  let s := s0.updCell c (fun cl => if cl.misses = [] then cl else { cl with misses := cl.misses.filter (fun n => !n.same m) })
  let held := s.updCell c (fun cl => { cl with misses := cl.misses ++ [m] })
  if blocked then held
  else match (s.die d).walks.findIdx? (fun w => w.asid = asid && w.gran = gran) with
    | some k => s.updDie d (fun x => { x with walks := modNth x.walks k (fun w =>
        if w.cells.contains (c, gather) then w else { w with cells := w.cells ++ [(c, gather)] }) })
    | none =>
      if attic then
        let sq := s.svcNext
        (s.service 0 d c asid (gran * 65536)).updDie d (fun x =>
          { x with walks := x.walks ++ [⟨asid, gran, [(c, gather)], false, some sq⟩] })
      else if s.walkerFree c then s.updDie d (fun x => { x with walks := x.walks ++ [⟨asid, gran, [(c, gather)], false, none⟩] })
      else held

/-- An access of a cell misses. One that waits already keeps the mode of its miss: a change of walk mode is for later misses, and one
that an invalidation holds misses after it (R84, R412). -/
def State.askWalk (s : State) (c asid gran : Nat) (gather : Bool) : State :=
  let m : Miss := ⟨asid, gran, gather, none⟩
  s.askMiss c (((s.cell c).misses.find? (·.same m)).getD m)

def State.startWalk (s : State) (c gran : Nat) (gather : Bool) : State := s.askWalk c (s.ctx c).asid gran gather

/-- Misses that wait ask again, in order of cell and of arrival. -/
def State.pumpWalks (s : State) (die : Nat) : State :=
  s.cells.foldl (fun st p =>
    if dieOfCell p.1 ≠ die || p.2.misses = [] then st
    else p.2.misses.foldl (fun st m => st.askMiss p.1 m) (st.updCell p.1 (fun cl => { cl with misses := [] }))) s

/-- Whether a table address lies in this device's local HBM (R80). -/
def tableOk (a : Nat) : Bool := a < 0x8000000000

/-- Fields of a page-table entry (R79). -/
def pteAddr (e : Nat) : Nat := e % 2 ^ 52 / 256 * 256
def pteBad (e : Nat) : Bool := e / 2 ^ 53 ≠ 0
def pteLeaf (e : Nat) : Bool := e / 2 ^ 52 % 2 = 1
def pteV (e : Nat) : Bool := e % 2 = 1
def pteCtg (e : Nat) : Bool := e / 64 % 2 = 1

/-- Index of a level, table bytes of a level, page bytes of a leaf (R80). -/
def walkIdx (va : Nat) : Nat → Nat
  | 1 => va / 2 ^ 43 % 512
  | 2 => va / 2 ^ 33 % 1024
  | 3 => va / 2 ^ 21 % 4096
  | _ => va / 2 ^ 16 % 32
def tableSize : Nat → Nat
  | 1 => 4096
  | 2 => 8192
  | 3 => 32768
  | _ => 256
def leafSize : Nat → Nat
  | 2 => 2 ^ 33
  | 3 => 2 ^ 21
  | _ => 2 ^ 16

/-- The check of a 64 MiB group (R81): base of the group, or none. -/
def State.groupBase (s : State) (tbl va e : Nat) : Option Nat :=
  let first := walkIdx va 3 / 32 * 32
  let ents := (List.range 32).map (fun j => s.readNat (tbl + (first + j) * 8) 8)
  let base := pteAddr (ents.getD 0 0)
  let ok := allFrom (fun j x => !pteBad x && pteV x && pteLeaf x && pteCtg x && x % 256 = e % 256 &&
    pteAddr x = base + j * 2 ^ 21) 0 ents
  if ok && base % 2 ^ 26 = 0 then some base else none

/-- The levels of the walk from `lvl` on (R80): a translation or a cause. DESIGN CHOICE: the walk uses the bytes of a poisoned table line and
raises nothing for it, since R80 and R89 name no such case (log entry 93). -/
def State.walkFrom (s : State) (asid va : Nat) : Nat → Nat → Nat → Except Nat TEntry
  | 0, _, _ => .error 0x11
  | fuel + 1, lvl, tbl =>
    if !tableOk tbl then .error 0x11
    else
      let e := s.readNat (tbl + walkIdx va lvl * 8) 8
      if !pteV e then .error 0x10
      else if pteBad e || (lvl = 1 && pteLeaf e) || (pteCtg e && !(lvl = 3 && pteLeaf e)) then
        .error 0x11
      else if lvl = 4 || pteLeaf e then
        let size := leafSize lvl
        if pteAddr e % size ≠ 0 then .error 0x11
        else if pteCtg e then
          match s.groupBase tbl va e with
          | some base => .ok ⟨asid, va / 2 ^ 26 * 2 ^ 26, 2 ^ 26, base, BitVec.ofNat 8 e, none⟩
          | none => .error 0x11
        else .ok ⟨asid, va / size * size, size, pteAddr e, BitVec.ofNat 8 e, none⟩
      else if pteAddr e % tableSize (lvl + 1) ≠ 0 then .error 0x11
      else s.walkFrom asid va fuel (lvl + 1) (pteAddr e)

/-- The walk of R80 for a die's walkers. -/
def State.walk (s : State) (die asid va : Nat) : Except Nat TEntry :=
  let base := (s.die die).asidBase.toNat / 2 ^ 19 % 2 ^ 33 * 2 ^ 19
  if !tableOk base then .error 0x11
  else
    let root := s.readNat (base + asid * 8) 8
    if !pteV root then .error 0x10
    else if pteBad root then .error 0x11
    else if pteAddr root % 4096 ≠ 0 then .error 0x11
    else s.walkFrom asid va 4 1 (pteAddr root)

/-- Table entries that the levels of the walk read, in order (R80): of a group all four lines (R81). -/
def State.walkReads (s : State) (va : Nat) : Nat → Nat → Nat → List Nat
  | 0, _, _ => []
  | fuel + 1, lvl, tbl =>
    if !tableOk tbl then []
    else
      let a := tbl + walkIdx va lvl * 8
      let e := s.readNat a 8
      if !pteV e || pteBad e then [a]
      else if pteCtg e && lvl = 3 && pteLeaf e then a :: [0, 64, 128, 192].map (tbl + walkIdx va 3 / 32 * 256 + ·)
      else if pteCtg e || pteLeaf e || lvl = 4 || pteAddr e % tableSize (lvl + 1) ≠ 0 then [a]
      else a :: s.walkReads va fuel (lvl + 1) (pteAddr e)

/-! ## Die caches and HBM ports -/

/-- The pseudo-channel of a 256-byte block (R76): consecutive blocks of a stack go round its 64 pseudo-channels. -/
def chanOf (blk : Nat) : Nat := blk % 64

/-- The bank of a block, numbered over the stack: its number within the pseudo-channel above the channel. -/
def bankOf (blk : Nat) : Nat := chanOf blk + 64 * (Config.bankIn blk).toNat

/-- The row of a block, numbered over the stack: its number within the bank above the bank. -/
def rowOf (blk : Nat) : Nat := bankOf blk + 2 ^ 22 * (Config.rowIn blk).toNat

/-- Row b is row a or lies at distance 1 or 2 from it in its bank (R77). -/
def nearRow (a b : Nat) : Bool :=
  a % 2 ^ 22 = b % 2 ^ 22 && a / 2 ^ 22 ≤ b / 2 ^ 22 + 2 && b / 2 ^ 22 ≤ a / 2 ^ 22 + 2

def satAdd64 (w : Word) (n : Nat) : Word := BitVec.ofNat 64 (min (w.toNat + n) (2 ^ 64 - 1))

/-- The armed error of a die takes effect at a line (R89, R156). -/
def State.einjFire (s : State) (die line : Nat) (hbm : Bool) : State :=
  let d := s.die die
  let k := d.einjKind.toNat
  let s1 := s.updDie die (fun x => { x with einjFired := true, einjArm := false })
  let s2 := if k = 1 || k = 2 then s1.setPoison line true else s1
  if !hbm then s2
  else s2.updStack (stackOf (line * 64)) (fun x =>
    { x with ue := if k = 1 then satAdd64 x.ue 1 else x.ue,
             ce := if k = 0 || k = 3 then satAdd64 x.ce 1 else x.ce })

/-- A read of a scratchpad line reaches its bank (R89). -/
def State.touchScratch (s : State) (c off : Nat) : State :=
  let line := (spBase c + off) / 64
  let d := s.die (dieOfCell c)
  if d.einjArm && d.einjLine.toNat / 64 = line then s.einjFire (dieOfCell c) line false else s

/-- An activation of a row (R77): at the threshold an alert, refreshes of the row's neighbours, and a hold of its bank. -/
def Stack.activate (k : Stack) (row bank now : Nat) : Stack :=
  if !k.en then k
  else
    let n := Tab.get 0 k.acts row + 1
    if n < max 256 k.thresh.toNat then { k with acts := Tab.set k.acts row n }
    else { k with alert := satAdd64 k.alert 1, acts := k.acts.filter (fun p => !nearRow row p.1), holds := k.holds ++ [(bank, now)] }

/-- Whether a bank is held (R77). -/
def Stack.held (k : Stack) (bank : Nat) : Bool := k.holds.any (fun h => h.1 = bank)

/-- The block of a request. -/
def PortReq.blk : PortReq → Nat
  | .read b _ _ => b
  | .write l => l / 4

/-- A burst at a port whose bank is free (R77, R78). -/
def Stack.burst (k : Stack) (r : PortReq) (now : Nat) : Stack :=
  (match r with
  | .read .. => { k with rd := satAdd64 k.rd 1 }
  | .write _ => { k with wr := satAdd64 k.wr 1 }).activate (rowOf r.blk) (bankOf r.blk) now

/-- A request may have its burst: its window has ended, its bank is not held, and no request of its bank came before it (R76, R77). -/
def Stack.mayBurst (k : Stack) (older : List PortReq) (r : PortReq) : Bool :=
  (match r with
  | .read _ _ ended => ended
  | .write _ => true) && !k.held (bankOf r.blk) && !older.any (fun q => bankOf q.blk = bankOf r.blk)

/-- The write burst of a line; it waits at the port while its bank is held or an older request of that bank stands there (R76, R77). -/
def Stack.writeBurst (k : Stack) (line now : Nat) : Stack :=
  if k.mayBurst k.queue (.write line) then k.burst (.write line) now else { k with queue := k.queue ++ [.write line] }

/-- A miss of a line merges with a burst that stands at the port (R75): its first miss is less than 8 cycles old, and no write of the
line came after it. DESIGN CHOICE: a miss 8 cycles after the first one is not within them (log entry 94). -/
def merges (line now : Nat) : List PortReq → Bool
  | [] => false
  | .read b t _ :: q => (b = line / 4 && now < t + 8 && !q.contains (.write line)) || merges line now q
  | .write _ :: q => merges line now q

/-- The slice-table index of a line (R74). -/
def sliceHash (line : Nat) : Nat :=
  let pa := line * 64
  Nat.xor (Nat.xor (pa / 2 ^ 6 % 256) (pa / 2 ^ 14 % 256)) (Nat.xor (pa / 2 ^ 22 % 256) (pa / 2 ^ 30 % 256))

/-- The slice that an entry names, as at reset where the Attic has not written it (log entry 6). -/
def Die.sliceAt (d : Die) (h : Nat) : Nat := Tab.get (h % 48) d.slices h

/-- Slice and set of a line: 48 slices of 2,048 sets (R74, R16; log entry 6). -/
def Die.setOf (d : Die) (line : Nat) : Nat × Nat := (d.sliceAt (sliceHash line), Config.dieSet line % 2048)

/-- The line that leaves where another comes into its full 16-way set (R74). -/
def Die.victim (d : Die) (line k : Nat) : Option Nat :=
  if d.lines.length < 16 || (Tab.find d.lines line).isSome then none
  else
    let same := d.lines.filter (fun p => d.setOf p.1 = d.setOf line)
    if same.length < 16 then none else (same[k % same.length]?).map (·.1)

/-- A line leaves a die cache; a dirty one is written back (R74). -/
def State.dropLine (s : State) (die line : Nat) : State :=
  let s1 := s.updDie die (fun d => { d with lines := Tab.drop d.lines line })
  if Tab.get false (s.die die).lines line then s1.updStack (stackOf (line * 64)) (·.writeBurst line s.now) else s1

/-- A line comes into a die cache, or stays there; it is dirty once a store has reached it. -/
def State.cacheLine (s : State) (die line : Nat) (dirty : Bool) : State :=
  let s1 := match (s.die die).victim line (Config.victim s.tick) with
    | some v => s.dropLine die v
    | none => s
  s1.updDie die (fun d => { d with lines := Tab.set d.lines line (dirty || Tab.get false d.lines line) })

/-- A read of an HBM line at its home (R74, R75, R89): a die-cache hit, a miss that merges with an earlier one, or a miss that opens a
window; a burst whose block holds the armed line fires the injection. -/
def State.touchHbm (s : State) (loc : Nat) : State :=
  let k := stackOf loc
  let die := dieOfStack k
  let line := loc / 64
  if (Tab.find (s.die die).lines line).isSome then s
  else
    let blk := loc / 256
    let d := s.die die
    let s1 := if d.einjArm && d.einjLine.toNat / 256 = blk then s.einjFire die (d.einjLine.toNat / 64) true else s
    if merges line s.now (s1.stack k).queue then s1.updStack k (fun x => { x with merge := satAdd64 x.merge 1 })
    else s1.updStack k (fun x => { x with queue := x.queue ++ [.read blk s.now false] })

/-- Numbers of the 64-byte lines that n bytes at an address touch. -/
def linesAt (a n : Nat) : List Nat :=
  (List.range (n / 64 + 2)).map (a / 64 + ·) |>.filter (fun l => decide (0 < n) && decide (l * 64 < a + n))

/-- A store of n bytes reaches its HBM lines' home: the die cache holds them, dirty (R72, R74). -/
def State.dirtyHbm (s : State) (loc n : Nat) : State :=
  (linesAt loc n).foldl (fun st l => st.cacheLine (dieOfStack (stackOf loc)) l true) s

/-- A run of n bytes of HBM is read at its home, line by line. -/
def State.touchRun (s : State) (loc n : Nat) : State := (linesAt loc n).foldl (fun st l => st.touchHbm (l * 64)) s

/-- A run of n bytes of a scratchpad is read at its banks, line by line. -/
def State.touchBanks (s : State) (c off n : Nat) : State := (linesAt off n).foldl (fun st l => st.touchScratch c (l * 64)) s

/-- The table reads of a walk pass through the home die cache (R80). -/
def State.walkTouch (s : State) (die asid va : Nat) : State :=
  let base := (s.die die).asidBase.toNat / 2 ^ 19 % 2 ^ 33 * 2 ^ 19
  if !tableOk base then s
  else
    let a := base + asid * 8
    let root := s.readNat a 8
    let reads := if pteV root && !pteBad root && pteAddr root % 4096 = 0 then a :: s.walkReads va 4 1 (pteAddr root) else [a]
    reads.foldl State.touchHbm s

/-! ## Data caches -/

/-- Whether an HBM address is foreign to a cell: of the other die or of another device (R73). -/
def foreignTo (c pa : Nat) : Bool := nodeField pa ≠ 0 || dieOfStack (stackOf pa) ≠ dieOfCell c

/-- Whether a line at an address may be in a data cache where its page's c bit is set (R71 to R73): HBM of any device. -/
def cacheable (pa : Nat) (flags : BitVec 8) : Bool := bitAt flags 5 && regionOf (localOf pa) = .hbm

/-- Overwrites bytes of a line's data from offset `o` on. -/
def patchLine (data : BitVec 256) (o : Nat) : List Byte → BitVec 256
  | [] => data
  | b :: t =>
    let cleared := data &&& ~~~(0xff#256 <<< (8 * o))
    patchLine (cleared ||| (b.zeroExtend 256 <<< (8 * o))) (o + 1) t

def lineByte (data : BitVec 256) (o : Nat) : Byte := data.extractLsb' (8 * o) 8

/-- A line meets an address range. -/
def DLine.meets (l : DLine) (pa n : Nat) : Bool := l.addr < pa + n && pa < l.addr + 32

/-- The 64-byte line that contains a line meets an address range: its poison bit is that line's (R88). -/
def DLine.near (l : DLine) (pa n : Nat) : Bool := l.addr / 64 * 64 < pa + n && pa < l.addr / 64 * 64 + 64

/-- Bytes put over a line where it meets them. -/
def DLine.take (l : DLine) (pa n : Nat) (bytes : List Byte) : DLine :=
  if l.meets pa n then { l with data := patchLine l.data (pa - l.addr) (bytes.drop (l.addr - pa)) } else l

/-- Data caches at a store to memory (R72): home lines of every cell other than a scalar storer go, both halves of a 64-byte line; a
scalar storer's own line takes the bytes; an engine's own lines go. -/
def State.dcacheStore (s : State) (src : Nat) (scalar : Bool) (pa n : Nat) (bytes : List Byte) : State :=
  { s with cells := s.cells.map (fun p =>
      (p.1, if p.2.dcache.any (·.near pa n) then
          { p.2 with dcache :=
              if p.1 = src then
                if scalar then p.2.dcache.map (·.take pa n bytes) else p.2.dcache.filter (fun l => !l.near pa n)
              else p.2.dcache.filter (fun l => l.foreign || !l.near pa n) }
        else p.2)) }

/-- The cell's own line takes the value that a read-modify-write found at the home, so that no later load reads an older one (R97). -/
def State.refreshLine (s : State) (c pa : Nat) (bytes : List Byte) : State :=
  if (s.cell c).dcache = [] then s
  else s.updCell c (fun cl => { cl with dcache := cl.dcache.map (·.take pa bytes.length bytes) })

/-- Foreign lines go at an acquire of device scope or wider (R73, R100). -/
def State.dropForeign (s : State) (c : Nat) : State :=
  s.updCell c (fun cl => { cl with dcache := cl.dcache.filter (fun l => !l.foreign) })

/-- Puts a line into a data cache; a full set gives up the line that Config names (R72). -/
def insertLine (victim : Nat) (ls : List DLine) (l : DLine) : List DLine :=
  let set := fun (x : DLine) => x.addr / 32 % 128
  let same := ls.filter (fun x => set x = set l)
  if same.length < 8 then ls ++ [l]
  else match same[victim % 8]? with
    | some v => ls.filter (fun x => x ≠ v) ++ [l]
    | none => ls ++ [l]

/-! ## Stores and loads at a physical place -/

/-- Poison bits of the lines a store writes (R88): a whole line takes the tag, part of one ORs it in. -/
def State.poisonStore (s : State) (pa n : Nat) (tag : Bool) : State :=
  (List.range (n / 64 + 2)).foldl (fun st i =>
    let line := pa / 64 + i
    let whole := pa ≤ line * 64 && line * 64 + 64 ≤ pa + n
    if line * 64 < pa + n then (if whole then st.setPoison line tag else if tag then st.setPoison line true else st)
    else st) s

/-- Writes bytes at a physical address of this device or of a remote one, with what the caches and poison bits do. -/
def State.storePa (s : State) (src : Nat) (scalar : Bool) (pa : Nat) (bytes : List Byte) (tag : Bool) : State :=
  let n := bytes.length
  let s1 := { s with mem := memWrite s.mem pa bytes }
  let s2 := s1.poisonStore pa n tag
  if pa < 0x8000000000 then (s2.dcacheStore src scalar pa n bytes).dirtyHbm pa n
  else if nodeField pa ≠ 0 then s2.dcacheStore src scalar pa n bytes
  else s2

/-- Physical address of a place that is memory. -/
def Place.pa (c : Nat) : Place → Nat
  | .own off => spBase c + off
  | .bell off => off
  | .scratch t off => spBase t + off
  | .mem pa => pa
  | .remote pa => pa

/-- Bytes of a bellboard entry as a load reads them (R191). -/
def Entry.bytes (e : Entry) : List Byte :=
  let ctl := e.prio.toNat + 4 * b2n e.enable + 8 * b2n e.pending + 16 * b2n e.barrier + 32 * b2n e.phase +
    64 * b2n e.parked + 128 * b2n e.bound
  leBytes 4 (wrapInt 32 e.count) ++ leBytes 4 (wrapInt 32 e.reload) ++ leBytes 4 e.handler ++ leBytes 4 ctl ++
    leBytes 4 e.deferred ++ leBytes 4 0 ++ leBytes 8 (if e.barrier then wrapInt 64 e.pend else 0) ++
    (e.args.toList.map (fun w => leBytes 8 w.toNat)).flatten

/-- An entry at launch start (R192), which is also what an unlisted entry reads as. -/
def Ctx.entry (x : Ctx) (e : Nat) : Entry := Tab.get Entry.reset x.bell e

/-- Whether a read of a place meets poison. -/
def State.placePoison (s : State) (c : Nat) (p : Place) : Bool :=
  match p with
  | .bell _ => false
  | p => s.poisoned (p.pa c / 64)

/-- Bytes at a place, as a party that bypasses the data cache reads them. -/
def State.placeBytes (s : State) (c : Nat) (p : Place) (n : Nat) : List Byte :=
  match p with
  | .bell off => ((((s.ctx c).entry (off / 64)).bytes).drop (off % 64)).take n
  | p => s.read (p.pa c) n

/-- Effects of a read on ports and banks. -/
def State.touch (s : State) (c : Nat) (p : Place) : State :=
  match p with
  | .own off => s.touchScratch c off
  | .scratch t off => s.touchScratch t off
  | .mem pa => if pa < 0x8000000000 then s.touchHbm pa else s
  | .bell _ | .remote _ => s

/-- Own stores that have not performed yet, oldest first, as physical address and bytes: released ones in flight, then the
held ones (R139, R97). -/
def State.pendingStores (s : State) (c : Nat) : List (Nat × List Byte) :=
  (s.net.filterMap (fun p => match p.body with
    | .store pa _ b => if p.src = c then some (pa, b) else none
    | _ => none)) ++
  ((s.ctx c).out.held.filterMap (fun h => match h.pkt.body with
    | .store pa _ b => some (pa, b)
    | _ => none))

/-- A byte that forwards from the youngest own pending store to its address. -/
def forwardByte (ps : List (Nat × List Byte)) (a : Nat) : Option Byte :=
  ps.foldl (fun r p => if p.1 ≤ a && a < p.1 + p.2.length then p.2[a - p.1]? else r) none

/-- Bytes read at a physical address with own pending stores over them. -/
def overlay (ps : List (Nat × List Byte)) (pa : Nat) (bs : List Byte) : List Byte :=
  if ps = [] then bs else bs.mapIdx (fun i b => (forwardByte ps (pa + i)).getD b)

/-! ### Own remote arithmetic packets (R212, R109, R139) -/

/-- Bytes of a RAP operand and element, and the alignment of its destination (R212). -/
def RapTy.bytes : RapTy → Nat
  | .xa => 80
  | _ => 4
def RapTy.align : RapTy → Nat
  | .xa => 64
  | _ => 4

/-- The element after an operation on 32-bit or XA values, and whether an XA sum would have left the range (R212, R52). DESIGN CHOICE: an XA
image's metadata word keeps nothing in bits [63:4] (R51; log entry 85). -/
def rapCombine (t : RapTy) (op : RapOp) (old v : List Byte) : List Byte × Bool :=
  let a := leNat old
  let b := leNat v
  match t with
  | .s32 => (leBytes 4 (match op with
    | .add => (a + b) % 2 ^ 32
    | .min => if sextNat 32 b < sextNat 32 a then b else a
    | .max => if sextNat 32 a < sextNat 32 b then b else a), false)
  | .n32 => (leBytes 4 (match op with
    | .add => (a + b) % 2 ^ 32
    | .min => min a b
    | .max => max a b), false)
  | .f32 => (leBytes 4 (match op with
    | .add => FloatTy.f32.addB .rne a b
    | .min => FloatTy.f32.pickB false a b
    | .max => FloatTy.f32.pickB true a b), false)
  | .xa =>
    let acc := XA.ofBytes old
    let k := Contrib.zero.addXA (XA.ofBytes v)
    if acc.leaves k then ((XA.bytes { acc with cg := true }), true) else ((acc.accum k).bytes, false)

/-- Writes that go before, and one that a held item adds to them: a store's bytes, or what a packet makes of its element. -/
def State.addPending (s : State) (ps : List (Nat × List Byte)) (h : Held) : List (Nat × List Byte) :=
  match h.pkt.body with
  | .store pa _ b => ps ++ [(pa, b)]
  | .rap ty op _ pa _ v => ps ++ [(pa, (rapCombine ty op (overlay ps pa (s.read pa (RapTy.bytes ty))) v).1)]
  | _ => ps

/-- What the cell's reads forward from (R139, R109): its stores in flight, then what it holds. DEDUCED: a held packet forwards what it makes of
the element as that stands (log entry 87). -/
def State.pendingWrites (s : State) (c : Nat) : List (Nat × List Byte) :=
  (s.ctx c).out.held.foldl s.addPending (s.net.filterMap (fun p => match p.body with
    | .store pa _ b => if p.src = c then some (pa, b) else none
    | _ => none))

/-- A remote arithmetic packet whose element meets some bytes. -/
def Packet.rapAt (p : Packet) (pa n : Nat) : Bool := match p.body with
  | .rap ty _ _ qa _ _ => qa < pa + n && pa < qa + RapTy.bytes ty
  | _ => false

/-- A load may not pass an own remote arithmetic packet to its bytes (R94, R109): it waits for one that is on its way or at its bank, and for
the store buffer where one is held. -/
def State.rapAhead (s : State) (c pa n : Nat) : Bool :=
  s.net.any (fun p => p.src = c && p.rapAt pa n) || s.cells.any (fun p => p.2.ctx.rapWait.any (fun w => w.pkt.src = c && w.pkt.rapAt pa n)) ||
    ((s.ctx c).out.sb ≠ [] && (s.ctx c).out.held.any (fun h => h.pkt.rapAt pa n))

/-- A write at a place in program order covers elements of earlier own packets that are held: no one ever sees those. A packet that carries
a sequence number still goes to its bank, which counts it (R111; log entry 87). -/
def State.dropRaps (s : State) (c ord pa n : Nat) : State :=
  s.updOut c (fun o => { o with held := o.held.filter (fun h => !(h.ord < ord && (match h.pkt.body with
    | .rap ty _ none qa _ _ => pa ≤ qa && qa + RapTy.bytes ty ≤ pa + n
    | _ => false))) })

/-- Whether every byte forwards, so that no line is read. -/
def allForward (ps : List (Nat × List Byte)) (pa n : Nat) : Bool :=
  ps ≠ [] && (List.range n).all (fun i => (forwardByte ps (pa + i)).isSome)

/-- A load of cacheable HBM that its data cache holds. -/
def State.dcacheHit (s : State) (c pa : Nat) (flags : BitVec 8) : Bool :=
  cacheable pa flags && (s.cell c).dcache.any (fun l => l.addr = pa / 32 * 32)

/-- A scalar read of cacheable HBM through the data cache (R72, R73): bytes, poison, and the state with the line present. -/
def State.cachedRead (s : State) (c pa n : Nat) : List Byte × Bool × State :=
  let la := pa / 32 * 32
  match (s.cell c).dcache.find? (fun l => l.addr = la) with
  | some l => ((List.range n).map (fun i => lineByte l.data (pa - la + i)), l.poison, s)
  | none =>
    let s1 := if nodeField pa = 0 then s.touchHbm pa else s
    let l : DLine := ⟨la, BitVec.ofNat 256 (leNat (s1.read la 32)), s1.poisoned (la / 64), foreignTo c la⟩
    let s2 := s1.updCell c (fun cl => { cl with dcache := insertLine (Config.victim s.tick) cl.dcache l })
    ((List.range n).map (fun i => lineByte l.data (pa - la + i)), l.poison, s2)

/-- Cells and Hall cores run, and the Imposer's programs, once stage 3 of the boot has been verified (R407; log entry 8). -/
def State.awake (s : State) : Bool := bitAt s.bsDone 3 && !s.faultPin

/-! ### Accesses that race with an engine operation (R108, R296; log entry 40) -/

def Ctx.engQueue (x : Ctx) (eng : Nat) : List EngOp :=
  if eng = 1 then x.vec.queue else if eng = 2 then x.mat.queue else x.cop.queue

/-- Whether the operation of an engine at a place in program order is under way. -/
def Ctx.underWay (x : Ctx) (eng ord : Nat) : Bool :=
  if eng ≥ 3 then x.cop.flight.any (fun f => f.op.ord = ord)
  else (x.engQueue eng).head?.any (fun o => o.started && o.ord = ord)

/-- Place in program order of the operation that an engine performs; a copy engine's number names it. -/
def Ctx.ordOf (x : Ctx) (eng : Nat) : Nat := if eng ≥ 3 then (eng - 3) / 4 else ((x.engQueue eng).head?.map (·.ord)).getD 0

/-- Whether an operation issued before a place in program order may still read or write. -/
def Ctx.opsBefore (x : Ctx) (ord : Nat) : Bool :=
  [1, 2].any (fun e => (x.engQueue e).any (fun o => !o.started && decide (o.ord < ord))) ||
  x.cop.queue.any (fun o => decide (o.ord < ord)) || x.cop.flight.any (fun f => decide (f.op.ord < ord))

/-- Whether an element may still race with an access. -/
def Ctx.shadeLives (x : Ctx) (h : Shadow) : Bool := if h.eng = 0 then x.opsBefore h.ord else x.underWay h.eng h.ord

/-- Whether an element races with an access of an engine, 0 for the scalar core: it is of an operation of another engine under way, or of
another row of the same copy or matrix operation, whose rows perform in any order (R263, R296), or of a scalar store behind the operation in program order. -/
def Ctx.races (x : Ctx) (eng : Nat) (h : Shadow) : Bool :=
  if h.eng = 0 then eng ≠ 0 && decide (x.ordOf eng < h.ord)
  else if min 3 h.eng = min 3 eng then 2 ≤ eng && h.ord = x.ordOf eng else x.underWay h.eng h.ord

/-- Elements among some bytes that race with an access, and that still stand. -/
def State.racing (s : State) (c eng pa n : Nat) : List Shadow :=
  (s.ctx c).out.shadow.filter (fun h => (s.ctx c).races eng h && h.pa < pa + n && pa < h.pa + h.new.length &&
    s.read h.pa h.new.length = h.new)

/-- What a read of some bytes gives: each racing element as it was or as it is, and never again as it was once it has been read as it
is. -/
def State.mixRead (s : State) (c eng pa : Nat) (bytes : List Byte) : List Byte × State :=
  let race := s.racing c eng pa bytes.length
  if race = [] then (bytes, s)
  else
    let old := race.filter (fun h => Config.raceLane s.tick h.pa)
    (bytes.mapIdx (fun i b => match old.find? (fun h => h.pa ≤ pa + i && pa + i < h.pa + h.new.length) with
      | some h => h.old.getD (pa + i - h.pa) b
      | none => b),
     s.updOut c (fun o => { o with shadow := o.shadow.filter (fun h => old.contains h || !race.contains h) }))

/-- What a write of some bytes leaves: each racing element, or the write in its place. -/
def State.mixWrite (s : State) (c eng pa : Nat) (bytes : List Byte) : List Byte × State :=
  let race := s.racing c eng pa bytes.length
  if race = [] then (bytes, s)
  else
    let stay := race.filter (fun h => Config.raceLane s.tick (2 ^ 52 + h.pa))
    (bytes.mapIdx (fun i b => match stay.find? (fun h => h.pa ≤ pa + i && pa + i < h.pa + h.new.length) with
      | some h => h.new.getD (pa + i - h.pa) b
      | none => b),
     s.updOut c (fun o => { o with shadow := o.shadow.filter (fun h => !race.contains h) }))

/-- What a read-modify-write leaves of the bytes that it writes: a racing element that it has read as it was is written behind it (R96, R97,
R108). -/
def State.mixUpdate (s : State) (c eng pa : Nat) (bytes : List Byte) : List Byte × State :=
  let race := s.racing c eng pa bytes.length
  if race = [] then (bytes, s)
  else
    (bytes.mapIdx (fun i b => match race.find? (fun h => h.pa ≤ pa + i && pa + i < h.pa + h.new.length) with
      | some h => h.new.getD (pa + i - h.pa) b
      | none => b),
     s.updOut c (fun o => { o with shadow := o.shadow.map (fun h => if !race.contains h then h else
       { h with old := h.old.mapIdx (fun j b => if pa ≤ h.pa + j then bytes.getD (h.pa + j - pa) b else b) }) }))

/-- A scalar store at a place in program order is about to write some bytes: an operation issued before it may still miss them (R108). -/
def State.shadeStore (s : State) (c ord pa : Nat) (bytes : List Byte) : State :=
  if (s.ctx c).opsBefore ord then
    let old := s.read pa bytes.length
    if old = bytes then s else s.updOut c (fun o => { o with shadow := o.shadow ++ [⟨0, ord, pa, old, bytes⟩] })
  else s

/-- Whether a place is the cell's own scratchpad. -/
def Place.isOwn : Place → Bool
  | .own _ => true
  | _ => false

/-- A read of a place past the data cache: bytes, whether it met poison, and the state after. The cell's own line keeps no older value
(R97). -/
def State.directRead (s : State) (c : Nat) (p : Place) (n : Nat) : List Byte × Bool × State :=
  let s1 := s.touch c p
  let b := s1.read (p.pa c) n
  (b, s1.poisoned (p.pa c / 64), if p.isOwn then s1 else s1.refreshLine c (p.pa c) b)

/-- A scalar read of a place, own pending stores forwarded: bytes, whether it met poison, and the state after. -/
def State.scalarRead (s : State) (c : Nat) (l : Loc) (n : Nat) : List Byte × Bool × State :=
  match l.place with
  | .bell off => (s.placeBytes c (.bell off) n, false, s)
  | p =>
    let pa := p.pa c
    let ps := s.pendingWrites c
    if allForward (s.pendingStores c) pa n then (overlay ps pa (s.read pa n), false, s)
    else
      let (b, poison, s1) := if !p.isOwn && cacheable pa l.flags then s.cachedRead c pa n else s.directRead c p n
      let (b1, s2) := s1.mixRead c 0 pa b
      (overlay ps pa b1, poison, s2)

/-- A read of a place by an engine, past the data cache, own pending stores to other places forwarded (R72, R106): bytes, whether it met
poison, and the state after. -/
def State.engineRead (s : State) (c : Nat) (p : Place) (n : Nat) : List Byte × Bool × State :=
  match p with
  | .bell off => (s.placeBytes c (.bell off) n, false, s)
  | .own off =>
    let (b, poison, s1) := s.directRead c (.own off) n
    (overlay (s.pendingWrites c) (spBase c + off) b, poison, s1)
  | p =>
    let (b, poison, s1) := s.directRead c p n
    (overlay (s.pendingWrites c) (p.pa c) b, poison && !allForward (s.pendingStores c) (p.pa c) n, s1)

/-! ## Stair requests -/

/-- Whether the remote device serves an address (R69): HBM, a scratchpad as cold reset leaves it (log entry 9), or its host
window. -/
def remoteServes (pa : Nat) : Bool :=
  match regionOf (localOf pa) with
  | .hbm => true
  | .scratch _ _ => true
  | .host => Config.remoteHost pa
  | .mmio | .unmapped => false

/-- The outcome of a cell's and engine's request to a remote address, and that it has been issued (R410). -/
def State.stairGo (s : State) (c eng pa : Nat) : Option Bool × State :=
  match s.stair.find? (fun r => r.cell = c && r.eng = eng && r.pa = pa) with
  | some r => match r.done with
    | some ok => (some ok, s)
    | none => (none, s)
  | none => (none, { s with stair := s.stair ++ [⟨c, eng, pa, s.now, none⟩] })

/-- The requests of a cell's engine are done with: its access, operation or row has ended. -/
def State.stairDone (s : State) (c eng : Nat) : State :=
  { s with stair := s.stair.filter (fun r => !(r.cell = c && r.eng = eng)) }

end Sys2Proof.Machine
end

