-- ==== Sys2Proof/Machine/Port.lean ====
section
/-! DEFINITION. Physical places that units other than cells reach (R69, R70, R80, R89), stores that reach the Imposer's reply port
(R382, R384) or the memory behind it, and items posted to the sampling queue (R276, R380, R384). -/

namespace Sys2Proof.Machine

/-- Why such an access fails (R90). -/
inductive SysErr where
  | translation | badEntry | permission | access | poison
  deriving DecidableEq, Repr

/-- The cause code of R90. -/
def SysErr.code : SysErr → Nat
  | .translation => 0x10
  | .badEntry => 0x11
  | .permission => 0x12
  | .access => 0x13
  | .poison => 0x14

/-- The physical address of a byte of an ASID, for a unit of a die (R69, R70, R80); no Stair port is out of reset before the boot has ended
well (R407). -/
def State.sysPlace (s : State) (die asid va : Nat) (a : Acc) : Except SysErr Nat :=
  if va ≥ 2 ^ 52 || va < 0x100000 then .error .access
  else match s.walk die asid va with
    | .error 0x10 => .error .translation
    | .error _ => .error .badEntry
    | .ok e =>
      if !rightsOk e.flags a then .error .permission
      else
        let pa := e.pbase + (va - e.vbase)
        if nodeField pa > 288 then .error .access
        else if !s.isHere pa then (if s.awake && remoteServes pa then .ok pa else .error .access)
        else match regionOf (localOf pa) with
          | .hbm => .ok (localOf pa)
          | .scratch c off =>
            let cl := s.cell c
            if off < cl.fpCap && cl.ctx.core.xoTop ≤ off then .ok (localOf pa) else .error .access
          | .host => match s.hostAddr (localOf pa) with
            | some h => .ok h
            | none => .error .access
          | .mmio | .unmapped => .error .access

/-! ## The reply port -/

/-- Bytes of the reply port: a word for each logit row that a step can have (log entry 15). -/
def portBytes : Nat := 524288

/-- The row whose port word lies at a physical address (R382), none outside the port. -/
def State.portRow (s : State) (pa : Nat) : Option Nat :=
  let port := s.imp.replyPort.toNat
  if port = 0 then none
  else (List.range 9).findSome? (fun g =>
    let va := (port / 65536 + g) * 65536
    match s.sysPlace 0 0 va .store with
    | .error _ => none
    | .ok a =>
      if a ≤ pa && pa < a + 65536 && port ≤ va + (pa - a) && va + (pa - a) < port + portBytes then some ((va + (pa - a) - port) / 8)
      else none)

/-- The Imposer takes the first reply for a row of the current step and discards every other (R384). -/
def State.takeReply (s : State) (row : Nat) (v : Word) : State :=
  match s.imp.step with
  | none => s
  | some st =>
    if st.stage = 3 && fieldNat v 40 24 = s.imp.stepNo.toNat % 2 ^ 24 then
      s.updImp (fun i => { i with step := some { st with lrows := modNth st.lrows row (fun l =>
        { l with reply := if l.reply.isNone then some v else l.reply }) } })
    else s

/-- The aligned 8-byte words that a store covers whole, as address and value. -/
def wholeWords (pa : Nat) (bytes : List Byte) : List (Nat × Word) :=
  let first := (pa + 7) / 8 * 8
  (List.range ((pa + bytes.length - first) / 8)).map (fun i =>
    (first + 8 * i, BitVec.ofNat 64 (leNat ((bytes.drop (first + 8 * i - pa)).take 8))))

/-- Whether a released store's home takes it (R69, R409). -/
def State.homeTakes (s : State) (pa : Nat) : Bool :=
  if s.isHere pa then (regionOf (localOf pa) ≠ .host || s.hostOk pa) else remoteServes pa

/-- A store of any party performs at its home. One to the reply port is kept nowhere: each aligned word of it is a message to the
Imposer (R382; log entry 15). -/
def State.storeHome (s : State) (src : Nat) (scalar : Bool) (pa : Nat) (bytes : List Byte) (tag : Bool) : State :=
  if (s.portRow pa).isSome then
    (wholeWords pa bytes).foldl (fun st w => match st.portRow w.1 with
      | some row => st.takeReply row w.2
      | none => st) s
  else s.storePa src scalar pa bytes tag

/-! ## The sampling queue (R276, R380) -/

/-- A naturally aligned field of memory of ASID 0; none where it cannot be read. -/
def State.asid0 (s : State) (va n : Nat) : Option Nat := match s.sysPlace 0 0 va .load with
  | .error _ => none
  | .ok a => if s.poisoned (a / 64) then none else some (s.readNat a n)

/-- The address of item i of the sampling queue. -/
def State.itemAddr (s : State) (i : Nat) : Option Nat :=
  let q := s.imp.sqDesc.toNat
  match s.asid0 (q + 16) 8, s.asid0 (q + 28) 4 with
  | some ring, some lents => some (ring + i % 2 ^ min 20 lents * 64)
  | _, _ => none

/-- Row and step number of item i of the sampling queue. -/
def State.sampleItem (s : State) (i : Nat) : Option (Nat × Nat) :=
  (s.itemAddr i).bind (fun a => match s.asid0 (a + 16) 4, s.asid0 (a + 24) 8 with
    | some row, some no => some (row, no)
    | _, _ => none)

/-- Whether the sampling queue holds the item of a row of the step. -/
def State.itemPosted (s : State) (row : Nat) : Bool := match s.asid0 (s.imp.sqDesc.toNat + 8) 8, s.asid0 (s.imp.sqDesc.toNat + 28) 4 with
  | some tail, some lents => (List.range (min tail (2 ^ min 20 lents))).any (fun k => s.sampleItem (tail - 1 - k) = some (row, s.imp.stepNo.toNat))
  | _, _ => false

/-- An addition on the queue's tail posts items (R276): the cycle counts from which their rows may time out (R384). -/
def State.notePosts (s : State) (pa n : Nat) : State :=
  match s.imp.step with
  | none => s
  | some st =>
    let tail : Bool := match s.sysPlace 0 0 (s.imp.sqDesc.toNat + 8) .load with
      | .ok a => decide (pa < a + 8 ∧ a < pa + n)
      | .error _ => false
    if st.stage = 3 && tail then
      s.updImp (fun i => { i with step := some { st with lrows := st.lrows.mapIdx (fun l r =>
        if r.posted.isNone && s.itemPosted l then { r with posted := some s.now } else r) } })
    else s

end Sys2Proof.Machine
end

