-- ==== Sys2Proof/Machine/Ops.lean ====
section
/-! DEFINITION. Operations shared by the meanings: x registers and the pc (R185, R209), freezing a cell on a fault and resuming
it (R133, R134, R137), the bellboard (R193 to R196), the run queue (R128), what an activation holds and records (R139, R140),
destinations (R198) and the scalar core's memory accesses (R203, R94 to R100). -/

namespace Sys2Proof.Machine

abbrev Out := Host.Outcome State Fault Refusal

/-! ## Registers and the pc -/

/-- x0 reads as zero (R185). -/
def Core.readX (k : Core) (r : XReg) : Word := if r = 0 then 0 else k.x[r.toNat]
/-- Writes to x0 are discarded (R185). -/
def Core.writeX (k : Core) (r : XReg) (v : Word) : Core := if r = 0 then k else { k with x := k.x.set r.toNat v }

def State.readX (s : State) (c : Nat) (r : XReg) : Word := (s.core c).readX r
def State.writeX (s : State) (c : Nat) (r : XReg) (v : Word) : State := s.updCore c (·.writeX r v)
def State.pc (s : State) (c : Nat) : Nat := (s.core c).pc.toNat

/-- The loop test after an instruction that completes with pc at a body's end (R209). -/
def loopStep : List LoopLvl → Nat → List LoopLvl × Nat
  | [], p => ([], p)
  | l :: t, p =>
    if p = l.stop.toNat then
      if l.left.toNat > 1 then ({ l with left := l.left - 1 } :: t, l.start.toNat) else loopStep t p
    else (l :: t, p)

/-- Levels that a taken branch or jump leaves live (R209): a level that the target lies outside ends with all inside it. -/
def jumpLoops : List LoopLvl → Nat → List LoopLvl
  | [], _ => []
  | l :: t, p =>
    let t' := jumpLoops t p
    if t'.length < t.length then t' else if l.start.toNat ≤ p && p < l.stop.toNat then l :: t else t

/-- An instruction of `len` bytes completes without transfer of control (R207, R209). -/
def Core.advance (k : Core) (len : Nat) : Core :=
  let (ls, p) := loopStep k.loops ((k.pc + BitVec.ofNat 52 len).toNat)
  { k with loops := ls, pc := BitVec.ofNat 52 p }

/-- A taken branch or jump (R207 to R209). -/
def Core.jump (k : Core) (target : Nat) : Core :=
  let p := BitVec.ofNat 52 target
  { k with loops := jumpLoops k.loops p.toNat, pc := p }

def State.advance (s : State) (c : Nat) (len : Nat) : State := s.updCore c (·.advance len)
def State.jump (s : State) (c : Nat) (target : Nat) : State := s.updCore c (·.jump target)

/-! ## Identity -/

/-- id.launch (R124). -/
def LCtx.idLaunch (l : LCtx) : Word :=
  BitVec.ofNat 64 (l.key.asid * 2 ^ 48 + b2n l.fb * 2 ^ 38 + l.key.queue * 2 ^ 32 + l.key.seq)

def Ctx.idLaunch (x : Ctx) : Word := match x.launch with
  | some l => l.idLaunch
  | none => 0
def Ctx.det (x : Ctx) : Nat := match x.launch with
  | some l => l.det
  | none => 0
def Ctx.proof (x : Ctx) : Bool := match x.launch with
  | some l => l.proof
  | none => false
/-- The launch's register budget (R223); 32 where the cell holds no launch. -/
def Ctx.vregs (x : Ctx) : Nat := match x.launch with
  | some l => l.vregs
  | none => 32
def Ctx.retriable (x : Ctx) : Bool := match x.core.act with
  | some a => a.retriable
  | none => false

/-! ## Taking a fault, and going on after one -/

/-- The fault packet of a cell (R134). -/
def State.packet (s : State) (c eng cause : Nat) (addr index : Word) : FaultPkt :=
  let x := s.ctx c
  { cell := c, cause := cause, eng := eng, nonretry := x.core.act.isSome && !x.retriable, proof := x.proof,
    second := false, idAct := x.core.idAct, idLaunch := x.idLaunch, pc := x.core.pc.zeroExtend 64, addr := addr,
    index := index }

/-- TAKING A FAULT: the cell freezes, at its pc, with the packet that it will send (R133, R134). Nothing else changes. -/
def State.freeze (s : State) (c : Nat) (p : FaultPkt) : State :=
  s.updCore c (fun k => { k with run := .frozen p false s.now })

/-- Whether the cell has frozen. -/
def State.isFrozen (s : State) (c : Nat) : Bool := match (s.core c).run with
  | .frozen .. => true
  | _ => false

/-- The other cell of a proof pair, while each names the other and both hold the launch (R143). -/
def State.partner (s : State) (c : Nat) : Option Nat :=
  (s.ctx c).launch.bind (fun l => l.partner.filter (fun q =>
    (s.ctx q).launch.any (fun m => m.key = l.key && m.partner = some c)))

/-- Results of the claims that a cell's running activation has recorded (R277). -/
def Ctx.claims (x : Ctx) : List Word := Tab.get [] x.out.claims x.core.idAct.toNat

/-- The claim that a proof pair's first cell has made or makes; none where the second cell waits for it (R277). -/
def State.pairClaim (s : State) (c : Nat) : Option (Option Word) :=
  match (s.ctx c).launch with
  | none => some none
  | some l =>
    let x := s.ctx c
    if !l.proof then some none
    else match if l.first then none else s.partner c with
      | none => some x.claims[x.out.claimed]?
      | some p => ((s.ctx p).claims[x.out.claimed]?).map some

/-- A claim of a proof pair's second cell that waits for the first cell's. -/
def State.awaitsPair (s : State) (c : Nat) (f : Flight) : Bool := !f.claimed && (match f.op.ins with
  | .claim .. => (s.pairClaim c).isNone
  | _ => false)

/-- Whether every arming an operation waits for has completed (R166). -/
def Ctx.waitsMet (x : Ctx) (o : EngOp) : Bool :=
  o.waits.all (fun w => !(x.core.tok.toList.getD w.1 Tok.idle).out.contains w.2)

/-- The fault an engine has met: 1 vector, 2 matrix, 3 copy. -/
def Ctx.engFault (x : Ctx) (eng : Nat) : Option FaultPkt :=
  if eng = 1 then x.vec.fault else if eng = 2 then x.mat.fault else if eng = 3 then x.cop.fault else none

/-- Whether copies in flight still move rows. -/
def State.copiesRun (s : State) (c : Nat) : Bool := (s.cop c).flight.any (fun f => !f.stopped && !s.awaitsPair c f)

/-- An engine has nothing left that will run before its fault is dealt with: it has faulted, is empty, or its head waits for what does
not come (R133). -/
def State.engineQuiet (s : State) (c eng : Nat) : Bool :=
  let x := s.ctx c
  (x.engFault eng).isSome || (match (x.engQueue eng).head? with
    | none => true
    | some o => !o.started && !x.waitsMet o)

/-- What the engines have been given before has run to completion, as far as it can (R133). -/
def State.quiet (s : State) (c : Nat) : Bool := [1, 2, 3].all (s.engineQuiet c) && !s.copiesRun c

/-- A fault stops the cell once every earlier instruction, and what the other engines have been given, has completed (R133); the core stands
still until then. -/
def State.stop (s : State) (c : Nat) (p : FaultPkt) : State := if s.quiet c then s.freeze c p else s

/-- A scalar fault: the faulting instruction has no effect and the pc is its own (R133). -/
def State.scalarFault (s : State) (c cause : Nat) (addr : Word) : State := s.stop c (s.packet c 0 cause addr 0)

/-- The fault of an engine's head operation (R133): the operation stays queued, and the scalar core stops before the next
instruction that touches the engine. -/
def State.engineFault (s : State) (c eng cause : Nat) (addr index : Word) : State :=
  let p := s.packet c eng cause addr index
  let s := (s.updCell c (fun cl => { cl with walked := [] })).stairDone c eng
  if eng = 1 then s.updVec c (fun v => { v with fault := some p })
  else if eng = 2 then s.updMat c (fun m => { m with fault := some p })
  else s.updCop c (fun k => { k with fault := some p })

/-- Clears an engine's fault, so that it starts its head operation again. -/
def State.clearEngFault (s : State) (c eng : Nat) : State :=
  if eng = 1 then s.updVec c (fun v => { v with fault := none })
  else if eng = 2 then s.updMat c (fun m => { m with fault := none })
  else if eng = 3 then s.updCop c (fun k => { k with fault := none })
  else s

/-- Copies in flight go on, those that the Hall core has written among them (R265, R266), unless a fault of the copy engine is still to be
reported. -/
def State.restartCopies (s : State) (c : Nat) : State :=
  s.updCop c (fun k => if k.fault.isSome then k else
    { k with flight := k.flight.map (fun f => { f with stopped := false, faulted := false }) })

/-- The scalar core stops at the instruction that touches a faulted engine; the packet takes this pc (R133). -/
def State.stopOnEngine (s : State) (c : Nat) (p : FaultPkt) : State :=
  let x := s.ctx c
  s.stop c { p with pc := x.core.pc.zeroExtend 64, nonretry := x.core.act.isSome && !x.retriable }

/-- RETURN FROM A FAULT: the cell goes on from its pc with its queues as they stand (R137); cycles spent frozen do not count
towards the watchdog (R133). -/
def State.resumeCell (s : State) (c : Nat) : State :=
  match (s.core c).run with
  | .frozen p _ since =>
    ((s.clearEngFault c p.eng).restartCopies c).updCore c (fun k =>
      { k with run := if k.act.isSome then .running else .idle, act := k.act.map (fun a => { a with began := a.began + (s.now - since) }) })
  | _ => s

/-! ## Stalls -/

/-- x registers that operations of an engine's queue will write when they complete (R226, R270, R295). -/
def owedBy : Instr → List XReg
  | .vmx _ (.get _ _ xd _) => [xd]
  | .vmx _ (.kget xd _) => [xd]
  | .kop _ (.pop xd _) => [xd]
  | .vptag _ (.get xd _) => [xd]
  | .vxscan _ _ xd _ _ _ _ => [xd]
  | .qscale _ xd _ _ => [xd]
  | .mrtg _ (.get xd _) => [xd]
  | .mstat _ xd _ _ => [xd]
  | .cpyg _ _ _ xi _ _ => [xi + 2, xi + 3]
  | .claim _ xd _ _ _ _ _ => [xd]
  | .cbadv _ xd _ _ => [xd]
  | _ => []

def owedIn (l : List EngOp) (rs : List XReg) : Bool :=
  l.any (fun o => (owedBy o.ins).any (fun r => r ≠ 0 && rs.contains r))

/-- The engine that owes one of some registers, if any: 1 vector, 2 matrix, 3 copy. -/
def Ctx.owing (x : Ctx) (rs : List XReg) : Option Nat :=
  if owedIn x.vec.queue rs then some 1
  else if owedIn x.mat.queue rs then some 2
  else if owedIn (x.cop.queue ++ x.cop.flight.map (·.op)) rs then some 3
  else none

/-- A scalar instruction that names registers: it stalls while an operation owes one, and stops on the engine where that
engine has faulted (R133, R226); else it goes on. -/
def State.whenFree (s : State) (c : Nat) (rs : List XReg) (go : State → State) : State :=
  match (s.ctx c).owing rs with
  | none => go s
  | some e => match (s.ctx c).engFault e with
    | some p => s.stopOnEngine c p
    | none => s

/-- Whether an engine has operations queued or in flight. -/
def Ctx.engBusy (x : Ctx) (eng : Nat) : Bool :=
  if eng = 1 then x.vec.queue ≠ [] else if eng = 2 then x.mat.queue ≠ []
  else x.cop.queue ≠ [] || x.cop.flight ≠ []

/-- Waits for engines: goes on when none of them is busy, stops on a faulted one (R133, R217). -/
def State.whenIdle (s : State) (c : Nat) (engs : List Nat) (go : State → State) : State :=
  match engs.find? (fun e => ((s.ctx c).engFault e).isSome) with
  | some e => match (s.ctx c).engFault e with
    | some p => s.stopOnEngine c p
    | none => s
  | none => if engs.any (fun e => (s.ctx c).engBusy e) then s else go s

/-! ## The run queue -/

/-- Queues a firing n times at its level's tail; what a full level cannot take is deferred in the entry, with its words (R128, R193). -/
def State.queueFiring (s : State) (c : Nat) (f : Firing) (n : Nat) : State :=
  s.updCtx c (fun x =>
    let lvl := f.prio % 4
    let q := x.rq.toList.getD lvl []
    let k := min n (64 - q.length)
    let x1 := { x with rq := x.rq.set! lvl (q ++ List.replicate k f) }
    if n = k then x1
    else { x1 with later := x1.later ++ List.replicate (n - k) f
                   bell := Tab.upd Entry.reset x1.bell f.entry (fun e => { e with deferred := e.deferred + (n - k) }) })

/-- Queues the first of an entry's deferred firings, at the entry's level. -/
def State.takeLater (s : State) (c e lvl : Nat) : State :=
  match (s.ctx c).later.find? (fun f => f.entry = e) with
  | none => s
  | some f => s.updCtx c (fun x => { x with
      later := x.later.eraseP (fun g => g.entry = e)
      rq := x.rq.set! lvl (x.rq.toList.getD lvl [] ++ [{ f with prio := lvl, since := s.now }]) })

/-- Deferred firings take freed places in order of entry index (R128), each with its words. One that the Hall core has written into the count
carries the words that its entry then holds (log entry 16). -/
def State.queueDeferred (s : State) (c : Nat) : State :=
  ((s.ctx c).bell).foldl (fun st p =>
    let e := (st.ctx c).entry p.1
    if e.deferred = 0 then st
    else
      let lvl := e.prio.toNat
      let room := 64 - ((st.ctx c).rq.toList.getD lvl []).length
      let k := min room e.deferred
      if k = 0 then st
      else
        let own := min k ((st.ctx c).later.filter (fun f => f.entry = p.1)).length
        let f : Firing := ⟨e.handler, lvl, e.args, p.1, e.barrier, false, e.wide, st.now, none⟩
        let st1 := st.updCtx c (fun x => { x with bell := Tab.upd Entry.reset x.bell p.1 (fun e =>
          { e with deferred := e.deferred - k }) })
        ((List.range own).foldl (fun st _ => st.takeLater c p.1 lvl) st1).queueFiring c f (k - own)) s

/-! ## The bellboard -/

/-- settle of R193: the entry after it and how often it fires. -/
def Entry.settle (e : Entry) : Entry × Nat :=
  if e.count > 0 then (e, 0)
  else if e.enable && e.bound then
    let r := max 1 e.reload
    let n := (-e.count) / r + 1
    ({ e with count := e.count + n * r, pending := false }, n.toNat)
  else ({ e with pending := true }, 0)

/-- complete of R194: phases turn while count and pend allow; a parked continuation fires once. -/
def Entry.complete (e : Entry) : Entry × Nat :=
  if e.count > 0 || e.pend ≠ 0 then (e, 0)
  else
    let r := max 1 e.reload
    let n := (-e.count) / r + 1
    ({ e with count := e.count + n * r, phase := if n % 2 = 1 then !e.phase else e.phase, parked := false },
      if e.parked then 1 else 0)

/-- arrive of R194. -/
def Entry.arrive (e : Entry) (a b : Int) : Entry × Nat :=
  Entry.complete { e with count := max (e.count - a) (-(2 ^ 31)), pend := clampInt (-(2 ^ 47)) (2 ^ 47 - 1) (e.pend + b) }

/-- Payload words over the first argument words (R193). -/
def payArgs (args : Vector Word 4) : Nat → List Word → Vector Word 4
  | _, [] => args
  | i, w :: t => payArgs (args.set! i w) (i + 1) t

/-- deliver of R193: with decrement 0 it writes the payload's arguments and returns, so that nothing fires and no pending bit is set (R285). -/
def Entry.deliver (e : Entry) (d : Nat) (p : List Word) : Entry × Nat :=
  if e.barrier then e.arrive d 0
  else
    let e1 := { e with args := payArgs e.args 0 (p.take 4) }
    if d = 0 then (e1, 0) else Entry.settle { e1 with count := max (e1.count - d) (-(2 ^ 31)) }

/-- land of R194; a counter entry takes it as a decrement (R267). -/
def Entry.land (e : Entry) (b : Nat) : Entry × Nat :=
  if e.barrier then Entry.complete { e with pend := clampInt (-(2 ^ 47)) (2 ^ 47 - 1) (e.pend - b) }
  else e.deliver b []

/-- The firing an entry makes as it stands. -/
def Entry.firing (e : Entry) (ei now : Nat) (start : Bool) : Firing :=
  ⟨e.handler, e.prio.toNat, e.args, ei, e.barrier, start, e.wide, now, none⟩

/-- The bellboard record of an own event that took an entry from `a` to `b` (R418). -/
def EntryRec.note (r : EntryRec) (a b : Entry) : EntryRec :=
  { dCount := r.dCount + (b.count - a.count), dPend := r.dPend + (b.pend - a.pend),
    flipped := r.flipped != (a.phase != b.phase),
    handler := if r.handler = none && a.handler ≠ b.handler then some a.handler else r.handler,
    reload := if r.reload = none && a.reload ≠ b.reload then some a.reload else r.reload,
    prio := if r.prio = none && a.prio ≠ b.prio then some a.prio else r.prio,
    enable := if r.enable = none && a.enable ≠ b.enable then some a.enable else r.enable,
    bound := if r.bound = none && a.bound ≠ b.bound then some a.bound else r.bound,
    barrier := if r.barrier = none && a.barrier ≠ b.barrier then some a.barrier else r.barrier,
    parked := if r.parked = none && a.parked ≠ b.parked then some a.parked else r.parked }

/-- An event of another party on an entry (R195): firings are queued when they occur (R196). -/
def State.bellEvent (s : State) (c e : Nat) (wide start : Bool) (f : Entry → Entry × Nat) : State :=
  let old := (s.ctx c).entry e
  let (new, n) := f { old with wide := old.wide || wide }
  let s1 := s.updCtx c (fun x => { x with bell := Tab.set x.bell e new })
  if n = 0 then s1 else s1.queueFiring c (new.firing e s.now start) n

/-- An event of the running activation on its own entry: recorded while retriable, firings held until the activation ends
(R139, R196); a non-retriable activation's firings are queued as they occur (R140). -/
def State.ownEvent (s : State) (c e : Nat) (f : Entry → Entry × Nat) : State :=
  let old := (s.ctx c).entry e
  let (new, n) := f old
  let s1 := s.updCtx c (fun x => { x with bell := Tab.set x.bell e new })
  let fr := new.firing e s.now false
  if (s.ctx c).retriable then
    s1.updOut c (fun o => { o with record := Tab.upd EntryRec.empty o.record e (·.note old new),
                                   firings := o.firings ++ List.replicate n fr })
  else if n = 0 then s1 else s1.queueFiring c fr n

/-! ## Held items, the journal, and the end of retriability -/

/-- Size of an item against the 64 KiB of R139: 16 bytes of header and the payload (R211; log entry 12). -/
def Packet.size (p : Packet) : Nat :=
  16 + match p.body with
    | .msg _ _ pay => 8 * pay.length
    | .arrive _ _ => 0
    | .land _ _ => 0
    | .store _ _ b => b.length
    | .rap _ _ _ _ _ v => v.length

def heldSize (l : List Held) : Nat := l.foldl (fun n h => n + h.pkt.size) 0

/-- Puts an item into the outgoing buffer by program order. -/
def insHeld : List Held → Held → List Held
  | [], h => [h]
  | k :: t, h => if k.ord ≤ h.ord then k :: insHeld t h else h :: k :: t

/-- Releases the held items in program order and queues the held firings (R140, R199). -/
def State.release (s : State) (c : Nat) : State :=
  let o := (s.ctx c).out
  let s1 := { s with net := s.net ++ o.held.map (fun (h : Held) => { h.pkt with since := s.now }) }
  let s2 := s1.updOut c (fun o => { o with held := [], firings := [] })
  o.firings.foldl (fun st f => st.queueFiring c { f with since := s.now } 1) s2

/-- The smallest scope that contains two cells of this device, or pod where a node is named (R92). -/
def scopeOf (src dst node : Nat) : Scope :=
  if node ≠ 0 then .pod else if src = dst then .cell else if dieOfCell src = dieOfCell dst then .die else .device

/-- The packet of a store: to memory under number 4096, to another cell's scratchpad, or to another device. -/
def State.storePacket (s : State) (c pa va : Nat) (bytes : List Byte) : Packet :=
  let key := (s.ctx c).launch.map (·.key)
  if s.isHere pa then match regionOf (localOf pa) with
    | .scratch t _ => ⟨c, key, 0, t, scopeOf c t 0, .store pa va bytes, s.now⟩
    | _ => ⟨c, key, 0, 4096, .die, .store pa va bytes, s.now⟩
  else ⟨c, key, nodeField pa, 4096, .pod, .store pa va bytes, s.now⟩

/-- The packet of a buffered store. -/
def State.bufferPacket (s : State) (c : Nat) (e : SbEntry) : Packet :=
  s.storePacket c (if e.own then spBase c + e.addr else e.addr) e.va e.bytes

/-- The store buffer empties at once (R140): its stores join the held items in program order. -/
def State.flushStores (s : State) (c : Nat) : State :=
  s.updOut c (fun o => { o with sb := [], held := o.sb.foldl (fun h e => insHeld h ⟨e.ord, s.bufferPacket c e⟩) o.held })

/-- The activation becomes non-retriable (R140): held items and firings go out, journal and record are discarded. Under proof
mode it stops with cause 0x1b instead (R144). -/
def State.goNonretriable (s : State) (c : Nat) : State :=
  if !(s.ctx c).retriable then s
  else if (s.ctx c).proof then (if s.isFrozen c then s else s.freeze c (s.packet c 0 0x1b 0 0))
  else
    let s1 := (s.flushStores c).release c
    (s1.updOut c (fun o => { o with journal := [], record := [], start := none })).updCore c (fun k =>
      { k with act := k.act.map (fun a => { a with retriable := false }) })

/-- Sends an item: held while the activation is retriable, making it non-retriable where the buffer would pass 64 KiB; sent at
once otherwise (R139, R140). -/
def State.emit (s : State) (c ord : Nat) (p : Packet) : State :=
  if (s.ctx c).retriable then
    let o := (s.ctx c).out
    if heldSize o.held + p.size ≤ 65536 then s.updOut c (fun o => { o with held := insHeld o.held ⟨ord, p⟩ })
    else if (s.ctx c).proof then s.goNonretriable c
    else let s1 := s.goNonretriable c; { s1 with net := s1.net ++ [p] }
  else { s with net := s.net ++ [p] }

/-- The next place in the activation's program order. -/
def State.nextOrd (s : State) (c : Nat) : Nat := match (s.core c).act with
  | some a => a.ord
  | none => 0
def State.bumpOrd (s : State) (c : Nat) : State :=
  s.updCore c (fun k => { k with act := k.act.map (fun a => { a with ord := a.ord + 1 }) })

/-- Lines of own scratchpad that a write touches. -/
def linesOf (off n : Nat) : List Nat := (List.range (n / 64 + 2)).map (off / 64 + ·) |>.filter (fun l => l * 64 < off + n)

/-- Lines of a write that the journal does not hold yet. -/
def State.newLines (s : State) (c off n : Nat) : List Nat :=
  (linesOf off n).filter (fun l => !((s.ctx c).out.journal.any (fun r => r.1 = l)))

/-- The write would take the journal beyond 64 lines (R140). -/
def State.journalFull (s : State) (c off n : Nat) : Bool :=
  (s.ctx c).retriable && (s.ctx c).out.journal.length + (s.newLines c off n).length > 64

/-- Records lines in the journal before they are first written (R139); beyond 64 lines the activation becomes non-retriable
(R140). -/
def State.journal (s : State) (c off n : Nat) : State :=
  if !(s.ctx c).retriable || n = 0 then s
  else if s.journalFull c off n then s.goNonretriable c
  else s.updOut c (fun o => { o with journal := o.journal ++ (s.newLines c off n).map (fun l =>
        (l, s.read (spBase c + l * 64) 64, s.poisoned (spBase c / 64 + l))) })

/-- A write to the cell's own scratchpad by its core or an engine (R139, R88). Under proof mode one that the journal cannot
hold stops the cell instead (R144). -/
def State.ownWrite (s : State) (c off : Nat) (bytes : List Byte) (tag : Bool) : State :=
  let s1 := s.journal c off bytes.length
  if (s.ctx c).proof && s.journalFull c off bytes.length then s1
  else s1.storePa c false (spBase c + off) bytes tag

/-! ## Scopes and destinations -/

def scopeRank : Scope → Nat
  | .cell => 0
  | .die => 1
  | .device => 2
  | .pod => 3
  | .system => 4

/-- Columns, rows and tiles of the division in use (R123, R125). -/
structure Division where
  cols : Nat
  rows : Nat
  tm : Nat
  tn : Nat
  tk : Nat
  deriving DecidableEq, Repr

def Desc.division (d : Desc) (fb : Bool) : Division :=
  if fb then ⟨d.cols2, d.rows2, d.tm2, d.tn2, d.tk2⟩ else ⟨d.cols, d.rows, d.tm, d.tn, d.tk⟩

/-- Tile of logical cell (i, j): off and ext of m, n, k (R123); of R285's launch, 4 columns by 1 row of unit tiles with n = 4, cell i has off.n = i
and extents of 1. -/
def Desc.tile (d : Desc) (v : Division) (i j : Nat) : Nat × Nat × Nat × Nat × Nat × Nat :=
  let nt := max 1 (ceilDiv d.n v.tn)
  let offN := i % nt * v.tn
  let offK := i / nt * v.tk
  let offM := j * v.tm
  (offM, offN, offK, min v.tm (d.m - offM), min v.tn (d.n - offN), min v.tk (d.k - offK))

def Desc.started (d : Desc) (v : Division) (i j : Nat) : Bool :=
  let (_, _, _, em, en, ek) := d.tile v i j
  em > 0 && en > 0 && ek > 0

/-- Logical coordinates of the started cells, in row-major order of (j, i) (R123). -/
def Desc.startedCells (d : Desc) (v : Division) : List (Nat × Nat) :=
  ((List.range v.rows).map (fun j => (List.range v.cols).map (fun i => (i, j)))).flatten.filter
    (fun p => d.started v p.1 p.2)

def State.launchOf (s : State) (k : LKey) : Option Launch := s.launches.find? (fun l => l.key = k)

/-- Physical cells of a logical cell of a launch: one, or the pair under proof mode (R126, R143). -/
def Launch.cellsAt (l : Launch) (i j : Nat) : List Nat :=
  match (l.desc.startedCells (l.desc.division l.fb)).findIdx? (fun p => p = (i, j)) with
  | some n => (l.place[n]?).toList ++ (l.place2[n]?).toList
  | none => []

/-- Destination of R198 as node and cells; none where the value fails. -/
def State.destOf (s : State) (c : Nat) (d : Word) : Option (Nat × List Nat) :=
  let mode := fieldNat d 62 2
  let node := fieldNat d 32 9
  let cell := fieldNat d 0 12
  if fieldNat d 41 21 ≠ 0 || fieldNat d 12 20 ≠ 0 then none
  else if mode = 0 then if node = 0 && cell < 3072 then some (0, [cell]) else none
  else if mode = 1 then
    if node ≠ 0 || cell ≥ 2048 then none
    else match (s.ctx c).launch with
      | none => none
      | some l => match s.launchOf l.key with
        | none => none
        | some la =>
          let cs := la.cellsAt (cell / 32 % 64) (cell % 32)
          if cs = [] then none else some (0, cs)
  else if mode = 2 then
    if 1 ≤ node && node ≤ 288 && cell < 3072 then
      if s.isHere (node * 2 ^ 43) then some (0, [cell]) else some (node, [cell])
    else none
  else none

/-- Packets to a destination (R198, R102): to each of its cells, in the class R102 gives. Under proof mode a packet to a cell
of the launch goes to both cells of its pair. -/
def State.packetsTo (s : State) (c node : Nat) (cells : List Nat) (body : PBody) : List Packet :=
  let key := (s.ctx c).launch.map (·.key)
  cells.map (fun t => ⟨c, key, node, t, scopeOf c t node, body, s.now⟩)

/-- The cell that a number leads a cell's items to (R149), with that cell's partner where it holds a launch under proof mode (R198), unless
the partner has retired and holds another context of the launch (R122). -/
def State.pairOf (s : State) (c t : Nat) : List Nat :=
  let d := s.forward ((s.ctx c).launch.map (·.key)) t
  match (s.ctx d).launch with
  | some l => d :: (l.partner.filter (fun q => !(s.ctx q).launch.any (fun m => m.key = l.key && m.partner ≠ some d))).toList
  | none => [d]

def State.emitAll (s : State) (c ord : Nat) (ps : List Packet) : State := ps.foldl (fun st p => st.emit c ord p) s

/-- The cells that a body of a cell to a destination's cells reaches. -/
def State.recipients (s : State) (c node : Nat) (cells : List Nat) : List Nat :=
  if node = 0 then (match cells with
    | [t] => s.pairOf c t
    | l => l) else cells

/-- Sends a body to the cells of a destination, as one place of program order. DESIGN CHOICE: under proof mode each cell of the pair has a packet
of its own, and both count against the buffer of R139 (R198, R211; log entry 97). -/
def State.sendTo (s : State) (c node : Nat) (cells : List Nat) (body : PBody) : State :=
  (s.emitAll c (s.nextOrd c) (s.packetsTo c node (s.recipients c node cells) body)).bumpOrd c

/-- The wider of two scopes (R92). -/
def wider (a b : Scope) : Scope := if scopeRank a < scopeRank b then b else a

/-- A packet within the device whose scope reaches further than its cells (R103). -/
def Packet.widen (p : Packet) (r : Scope) : Packet := if p.node = 0 then { p with cls := wider p.cls r } else p

/-- Sends what a copy operation sends, at the place in program order that it took at issue (R102, R139), at a scope that its payload
has reached too (R103). -/
def State.sendAt (s : State) (c ord : Nat) (reach : Scope) (node : Nat) (cells : List Nat) (body : PBody) : State :=
  s.emitAll c ord ((s.packetsTo c node cells body).map (·.widen reach))

/-- Own remote arithmetic packets that their banks have not applied (R109). -/
def State.rapsOut (s : State) (c : Nat) : Bool :=
  s.net.any (fun p => p.src = c && (match p.body with
    | .rap .. => true
    | _ => false)) ||
  s.cells.any (fun p => p.2.ctx.rapWait.any (fun w => w.pkt.src = c))

/-- Own released stores in flight. -/
def State.storesOut (s : State) (c : Nat) : Bool :=
  s.net.any (fun p => p.src = c && (match p.body with
    | .store .. => true
    | _ => false))

/-- Every earlier store of the cell has left the store buffer and performed (R99): the buffer is empty and no released store
or packet is on its way. -/
def State.drained (s : State) (c : Nat) : Bool :=
  (s.ctx c).out.sb = [] && !s.storesOut c && !s.rapsOut c

/-! ## The scalar core's accesses -/

/-- Address of a scalar access (R203): base[51:0] + off, exact; none where misaligned or outside 0 to 2^52 − 1. -/
def scalarAddr (base : Word) (off : Int) (n : Nat) : Option Nat :=
  let a : Int := (base.toNat % 2 ^ 52 : Nat) + off
  if a < 0 || a + n > 2 ^ 52 || a % n ≠ 0 then none else some a.toNat

/-- The address that a packet reports for a scalar access. -/
def scalarVa (base : Word) (off : Int) : Word := BitVec.ofInt 64 ((base.toNat % 2 ^ 52 : Nat) + off)

/-- The outcome of a failed walk that an access waited for is used up (R80). -/
def State.forgetWalk (s : State) (c va : Nat) : State :=
  s.updCell c (fun cl => { cl with walked := cl.walked.filter (fun w => w.2.1 ≠ va / 65536) })

/-- The fault of a scalar access that does not resolve (R80, R133). -/
def State.walkFault (s : State) (c va cause : Nat) : State :=
  if s.quiet c then (s.forgetWalk c va).scalarFault c cause (BitVec.ofNat 64 va) else s

/-- A scalar access of n aligned bytes resolved: goes on with its place, waits for a walk or a Stair request, or faults
(R80, R218). -/
def State.scalarAccess (s : State) (c : Nat) (a : Acc) (va : Nat) (go : State → Loc → State) : State :=
  match s.resolve c a false va with
  | .miss g => s.startWalk c g false
  | .fault _ cause => s.walkFault c va cause
  | .ok l => match l.place with
    | .remote pa => if a = .load && s.dcacheHit c pa l.flags then go s l else match s.stairGo c 0 pa with
      | (none, s1) => s1
      | (some true, s1) => go (s1.stairDone c 0) l
      | (some false, s1) => if s1.quiet c then (s1.stairDone c 0).scalarFault c 0x13 (BitVec.ofNat 64 va) else s1
    | _ => go s l

/-- A store-buffer entry against a place: none if apart, else whether it covers the access (R95). -/
def SbEntry.covers (e : SbEntry) (c : Nat) (p : Place) (n : Nat) : Option Bool :=
  let pa := p.pa c
  let ea := if e.own then spBase c + e.addr else e.addr
  match p with
  | .bell _ => none
  | _ => if pa < ea + e.bytes.length && ea < pa + n then some (ea ≤ pa && pa + n ≤ ea + e.bytes.length) else none

/-- The youngest store-buffer entry that meets an access: its bytes where it covers the access, none where the load waits. -/
def sbForward (c : Nat) (sb : List SbEntry) (p : Place) (n : Nat) : Option (Option (List Byte)) :=
  sb.foldl (fun r e => match e.covers c p n with
    | none => r
    | some true => some (some ((e.bytes.drop (p.pa c - (if e.own then spBase c + e.addr else e.addr))).take n))
    | some false => some none) none

/-- A load at a resolved place (R95, R89, R139): the store buffer forwards, a partial overlap waits, as an own remote arithmetic packet makes
it wait (R109), poison faults. -/
def State.loadAt (s : State) (c : Nat) (l : Loc) (va n : Nat) (go : State → List Byte → State) : State :=
  match sbForward c (s.ctx c).out.sb l.place n with
  | some none => s
  | some (some b) => if s.rapAhead c (l.place.pa c) n then s else go s b
  | none => if s.rapAhead c (l.place.pa c) n then s else
    let (b, poison, s1) := s.scalarRead c l n
    if poison then s1.scalarFault c 0x14 (BitVec.ofNat 64 va) else go s1 b

/-- Puts a store into the store buffer, or waits while it is full (R95). -/
def State.bufferStore (s : State) (c : Nat) (l : Loc) (va : Nat) (bytes : List Byte) (go : State → State) : State :=
  if (s.ctx c).out.sb.length ≥ 16 then s
  else
    let (own, addr) := match l.place with
      | .own off => (true, off)
      | p => (false, p.pa c)
    go ((s.updOut c (fun o => { o with sb := o.sb ++ [⟨s.nextOrd c, own, addr, va, bytes⟩] })).bumpOrd c)

/-- An access that R140 lists makes its activation non-retriable, unless it is to the local scratchpad. -/
def State.nonretriableAt (s : State) (c : Nat) (p : Place) : State :=
  if p.isOwn then s else s.goNonretriable c

/-! ## Engine queues -/

/-- Which engine an instruction goes to: 1 vector, 2 matrix, 3 copy (R175 to R177), 0 none. -/
def engineOf : Instr → Nat
  | .vld .. | .vst .. | .vlds .. | .vsts .. | .vgth .. | .vsct .. | .vadd .. | .vsub .. | .vmul .. | .vmin .. | .vmax ..
  | .vabs .. | .vneg .. | .vfma .. | .vcmp .. | .vsel .. | .vcvt .. | .vexp2 .. | .vlog2 .. | .vrcp .. | .vsqrt ..
  | .vrcpa .. | .vrsqa .. | .vredx .. | .vredm .. | .vredf .. | .vxadd .. | .vxrnd .. | .vxscan .. | .vrng .. | .vshf ..
  | .vbc .. | .viota .. | .vmx .. | .kop .. | .qhist .. | .qscale .. | .qpack .. | .qunpk .. | .vptag .. => 1
  | .mlda .. | .mldb .. | .mgth .. | .mmac .. | .mzero .. | .madv .. | .mspl .. | .mfil .. | .mdrn .. | .mepi .. | .mrtg ..
  | .mstat .. => 2
  | .cpy .. | .cpyg .. | .cpyr .. | .cpym .. | .cpyc .. | .claim .. | .cbdef .. | .cbadv .. | .cpyx .. => 3
  | _ => 0

def State.pushEng (s : State) (c eng : Nat) (o : EngOp) : State :=
  if eng = 1 then s.updVec c (fun v => { v with queue := v.queue ++ [o] })
  else if eng = 2 then s.updMat c (fun m => { m with queue := m.queue ++ [o] })
  else s.updCop c (fun k => { k with queue := k.queue ++ [o] })

def Tok.complete (t : Tok) : Bool := !t.out.contains t.gen

/-- Arms a token for an engine (R264, R166). -/
def State.armTok (s : State) (c eng : Nat) (t : Option TReg) : State :=
  match t with
  | none => s
  | some r => s.updCore c (fun k =>
      let o := k.tok[r.toNat]
      { k with tok := k.tok.set r.toNat ⟨o.gen + 1, o.out ++ [o.gen + 1], false, false, eng⟩ })

/-- An arming of a token completes (R225, R264); its bits are those of the last arming. -/
def State.completeTok (s : State) (c : Nat) (t : Option TReg) (gen : Nat) (error cancelled : Bool) : State :=
  match t with
  | none => s
  | some r => s.updCore c (fun k =>
      let o := k.tok[r.toNat]
      let last := decide (o.gen = gen)
      { k with tok := k.tok.set r.toNat { o with out := o.out.filter (· ≠ gen), error := if last then error else o.error,
                                                 cancelled := if last then cancelled else o.cancelled } })

/-- The token with a number. -/
def Ctx.token (x : Ctx) (i : Nat) : Tok := x.core.tok.toList.getD i Tok.idle

/-- Tokens of a mask that are not complete. -/
def Ctx.waiting (x : Ctx) (mask : BitVec 8) : List Nat :=
  ((List.range 8).filter (fun i => bitAt mask i)).filter (fun i => !(x.token i).complete)

/-- The first faulted engine that a wait mask waits on (R133). -/
def Ctx.waitFault (x : Ctx) (mask : BitVec 8) : Option FaultPkt :=
  (x.waiting mask).findSome? (fun i => x.engFault (x.token i).eng)

/-- x registers that an engine instruction reads when it enters its queue, in the slot order of R266: the fields F1 to F4, then
the further registers of a group; x0 stands in a slot that names no source. -/
def slotRegs : Instr → List XReg
  | .vld _ _ _ xa _ | .vst _ _ _ xa _ => [0, xa]
  | .vlds _ _ _ xa xs _ | .vsts _ _ _ xa xs _ => [0, xa, xs]
  | .vgth _ _ _ xa _ _ _ _ | .vsct _ _ _ xa _ _ => [0, xa]
  | .vrng _ _ xs xq xi _ => [0, xs, xq, xi]
  | .vbc _ _ _ xa _ | .viota _ _ _ xa _ => [0, xa]
  | .vmx _ (.put _ _ _ xa) | .vmx _ (.kput _ xa) => [0, xa]
  | .qhist _ _ xh _ _ => [xh]
  | .qscale _ _ xh xp => [0, xh, xp]
  | .qpack _ _ _ xa _ xc => [xa, 0, xc]
  | .qunpk _ _ _ _ xa => [0, xa]
  | .mlda _ _ _ xa xs | .mldb _ _ _ xa xs => [0, xa, xs]
  | .mgth _ _ _ xa _ xs => [0, xa, 0, xs]
  | .mspl _ _ xa | .mfil _ _ xa => [0, xa]
  | .mdrn _ _ _ xa xs xr _ _ => [0, xa, xs, xr]
  | .mepi _ xa => [xa]
  | .mrtg _ (.put _ xa) | .mrtg _ (.or _ xa) => [0, xa]
  | .cpy _ xd xs xn xc => [xd, xs, xn, xc, xn + 1]
  | .cpyg _ xd xb xi xc _ => [xd, xb, xi, xc, xi + 1, xi + 2]
  | .cpyr _ xt xs xn xc => [xt, xs, xn, xc]
  | .cpym _ xr xs xn xc => [xr, xs, xn, xc]
  | .cpyc _ _ _ xd xs xn xc => [xd, xs, xn, xc]
  | .claim _ _ xq xb xc _ _ => [0, xq, xb, xc]
  | .cbdef _ _ xa xg xp => [0, xa, xg, xp]
  | _ => []

/-- ISSUE OF AN ENGINE INSTRUCTION (R224, R262, R295). It stalls while its queue is full or a register that it reads is owed
(R226), stops where it touches a faulted engine, and else enters the queue with its x values and its place in program order. -/
def State.issueEng (s : State) (c : Nat) (i : Instr) (k : EngKeys) : State :=
  let eng := engineOf i
  let x := s.ctx c
  match x.engFault eng with
  | some p => s.stopOnEngine c p
  | none => match x.waitFault k.wait with
    | some p => s.stopOnEngine c p
    | none => s.whenFree c (slotRegs i) (fun s =>
        if ((s.ctx c).engQueue eng).length ≥ 2 then s
        else
          let x := s.ctx c
          let waits := (x.waiting k.wait).map (fun i => (i, (x.token i).gen))
          let gen := match k.tok with
            | some r => (x.token r.toNat).gen + 1
            | none => 0
          let o : EngOp := ⟨i, (slotRegs i).map (s.readX c), false, [], gen, waits, s.nextOrd c⟩
          (((s.pushEng c eng o).armTok c eng k.tok).bumpOrd c).advance c 8)

/-- What is left of bytes at qa once n bytes from pa on are taken out of them. -/
def cutRun (pa n qa : Nat) (b : List Byte) : List (Nat × List Byte) :=
  [(qa, b.take (pa - qa)), (qa + (pa + n - qa), b.drop (pa + n - qa))].filter (fun r => r.2 ≠ [])

/-- A store on its way without the bytes that a younger write has covered. -/
def Packet.cut (p : Packet) (pa n : Nat) : List Packet :=
  match p.body with
  | .store qa va b => (cutRun pa n qa b).map (fun r => { p with body := .store r.1 (va + (r.1 - qa)) r.2 })
  | _ => [p]

/-- An engine's operation, at a place in program order, is about to write n bytes at their home (R106, R97). Of the cell's own stores that
have not performed, those before it give these bytes up: no one ever sees them. -/
def State.cutPending (s : State) (c ord pa n : Nat) : State :=
  let s1 := { s with net := s.net.flatMap (fun (p : Packet) => if p.src = c then p.cut pa n else [p]) }
  s1.updOut c (fun o => { o with held := o.held.flatMap (fun (h : Held) =>
    if h.ord < ord then (h.pkt.cut pa n).map (fun p => { h with pkt := p }) else [h]) })

/-- What an engine's plain write at a place in program order covers of the cell's earlier stores and packets. -/
def State.supersede (s : State) (c ord pa n : Nat) : State := (s.cutPending c ord pa n).dropRaps c ord pa n

/-- Logs one arrival (R113, R114). -/
def Trace.log (t : Trace) (src : Nat) (rap : Bool) (off : Nat) : Trace :=
  if !t.en then t
  else
    { t with ring := Tab.set t.ring t.head.toNat ⟨t.seqn, BitVec.ofNat 12 src, rap, BitVec.ofNat 19 off⟩,
             ovf := t.ovf || (Tab.find t.ring t.head.toNat).isSome, head := t.head + 1, seqn := t.seqn + 1 }

/-- A store that arrives at a cell's scratchpad port through the window is logged; the source of one from no cell is 0xfff (R113, R114). -/
def State.logArrival (s : State) (t src : Nat) (rap : Bool) (off : Nat) : State :=
  s.updCell t (fun cl => { cl with trace := cl.trace.log (if src < 3072 then src else 0xfff) rap off })

/-- An engine's write at a resolved place (R72, R139). -/
def State.engineWrite (s : State) (c eng : Nat) (p : Place) (bytes : List Byte) (tag : Bool) : State :=
  match p with
  | .own off => (s.dropRaps c ((s.ctx c).ordOf eng) (spBase c + off) bytes.length).ownWrite c off bytes tag
  | .bell _ => s
  | p =>
    let pa := p.pa c
    let s1 := s.supersede c ((s.ctx c).ordOf eng) pa bytes.length
    match p with
    | .scratch t off => (s1.storePa c false pa bytes tag).logArrival t c false off
    | _ => s1.storeHome c false pa bytes tag

/-- Whether the issuer of a packet still is what it was: a cell that holds the packet's launch, or a Hall core. -/
def State.issuerStands (s : State) (p : Packet) : Bool :=
  (isHall p.src || (p.src < 3072 && p.launch.isSome)) && (s.ctx p.src).launch.map (·.key) = p.launch

/-- An access that meets its fault only at its home (R69, R71, R410): reported at the issuing cell, with its virtual address. An
issuer that holds the launch no longer takes none. -/
def State.lateFault (s : State) (p : Packet) (va : Nat) : State :=
  if s.issuerStands p then s.freeze p.src (s.packet p.src 0 0x13 (BitVec.ofNat 64 va) 0) else s

/-- An engine of the cell performs an operation. -/
def State.opsRun (s : State) (c : Nat) : Bool :=
  [1, 2].any (fun e => ((s.ctx c).engQueue e).head?.any (·.started)) || s.copiesRun c

/-- Such a fault waits while the issuer is frozen, and while an operation of its engines runs; none starts meanwhile, since the access stands
before it (R106, R133). -/
def State.lateWaits (s : State) (p : Packet) : Bool := s.issuerStands p && (s.isFrozen p.src || s.opsRun p.src)

end Sys2Proof.Machine
end

