-- ==== Sys2Proof/Machine/Integer.lean ====
section
/-! DEFINITION. Integer register operations, immediates and pointer operations (R200 to R202). -/

namespace Sys2Proof.Machine

/-- rd := f ra rb (R200). -/
def State.intOp (s : State) (rd ra rb : XReg) (f : Word → Word → Word) : State :=
  s.whenFree s.actCell [rd, ra, rb] (fun s =>
    (s.writeX s.actCell rd (f (s.readX s.actCell ra) (s.readX s.actCell rb))).advance s.actCell 4)

/-- rd := f ra (R200 to R202). -/
def State.intOp1 (s : State) (rd ra : XReg) (f : Word → Word) : State :=
  s.whenFree s.actCell [rd, ra] (fun s =>
    (s.writeX s.actCell rd (f (s.readX s.actCell ra))).advance s.actCell 4)

def boolW (b : Bool) : Word := if b then 1 else 0

def mulhW (a b : Word) : Word := ((a.signExtend 128) * (b.signExtend 128)).extractLsb' 64 64
def mulhnW (a b : Word) : Word := ((a.zeroExtend 128) * (b.zeroExtend 128)).extractLsb' 64 64
def shlW (a b : Word) : Word := a <<< (b.toNat % 64)
def shrW (a b : Word) : Word := a >>> (b.toNat % 64)
def sraW (a b : Word) : Word := a.sshiftRight (b.toNat % 64)
def minW (a b : Word) : Word := if a.slt b then a else b
def maxW (a b : Word) : Word := if a.slt b then b else a
def minnW (a b : Word) : Word := if a.ult b then a else b
def maxnW (a b : Word) : Word := if a.ult b then b else a
def clzW (a : Word) : Word := BitVec.ofNat 64 (64 - bitLen a.toNat)
def popcW (a : Word) : Word := BitVec.ofNat 64 (popCount 64 a.toNat)
def sextImm (i : BitVec 16) : Word := i.signExtend 64
def zextImm (i : BitVec 16) : Word := i.zeroExtend 64

def execAdd (rd ra rb : XReg) (s : State) : Out := .next (s.intOp rd ra rb (fun a b => a + b))
def execSub (rd ra rb : XReg) (s : State) : Out := .next (s.intOp rd ra rb (fun a b => a - b))
def execMul (rd ra rb : XReg) (s : State) : Out := .next (s.intOp rd ra rb (fun a b => a * b))
def execMulh (rd ra rb : XReg) (s : State) : Out := .next (s.intOp rd ra rb mulhW)
def execMulhn (rd ra rb : XReg) (s : State) : Out := .next (s.intOp rd ra rb mulhnW)
def execDiv (rd ra rb : XReg) (s : State) : Out := .next (s.intOp rd ra rb (fun a b => a.sdiv b))
def execDivn (rd ra rb : XReg) (s : State) : Out := .next (s.intOp rd ra rb (fun a b => a.udiv b))
def execRem (rd ra rb : XReg) (s : State) : Out := .next (s.intOp rd ra rb (fun a b => a.srem b))
def execRemn (rd ra rb : XReg) (s : State) : Out := .next (s.intOp rd ra rb (fun a b => a.umod b))
def execAnd (rd ra rb : XReg) (s : State) : Out := .next (s.intOp rd ra rb (fun a b => a &&& b))
def execOr (rd ra rb : XReg) (s : State) : Out := .next (s.intOp rd ra rb (fun a b => a ||| b))
def execXor (rd ra rb : XReg) (s : State) : Out := .next (s.intOp rd ra rb (fun a b => a ^^^ b))
def execAndn (rd ra rb : XReg) (s : State) : Out := .next (s.intOp rd ra rb (fun a b => a &&& ~~~b))
def execShl (rd ra rb : XReg) (s : State) : Out := .next (s.intOp rd ra rb shlW)
def execShr (rd ra rb : XReg) (s : State) : Out := .next (s.intOp rd ra rb shrW)
def execSra (rd ra rb : XReg) (s : State) : Out := .next (s.intOp rd ra rb sraW)
def execMin (rd ra rb : XReg) (s : State) : Out := .next (s.intOp rd ra rb minW)
def execMinn (rd ra rb : XReg) (s : State) : Out := .next (s.intOp rd ra rb minnW)
def execMax (rd ra rb : XReg) (s : State) : Out := .next (s.intOp rd ra rb maxW)
def execMaxn (rd ra rb : XReg) (s : State) : Out := .next (s.intOp rd ra rb maxnW)
def execSlt (rd ra rb : XReg) (s : State) : Out := .next (s.intOp rd ra rb (fun a b => boolW (a.slt b)))
def execSltn (rd ra rb : XReg) (s : State) : Out := .next (s.intOp rd ra rb (fun a b => boolW (a.ult b)))
def execSeq (rd ra rb : XReg) (s : State) : Out := .next (s.intOp rd ra rb (fun a b => boolW (a == b)))
def execClz (rd ra : XReg) (s : State) : Out := .next (s.intOp1 rd ra clzW)
def execPopc (rd ra : XReg) (s : State) : Out := .next (s.intOp1 rd ra popcW)

/-! Immediates: sign-extended for ADDI and SLTI, zero-extended for the logical ones, six bits for shifts (R169, R201). -/

def execAddi (rd ra : XReg) (imm : BitVec 16) (s : State) : Out := .next (s.intOp1 rd ra (fun a => a + sextImm imm))
def execAndi (rd ra : XReg) (imm : BitVec 16) (s : State) : Out := .next (s.intOp1 rd ra (fun a => a &&& zextImm imm))
def execOri (rd ra : XReg) (imm : BitVec 16) (s : State) : Out := .next (s.intOp1 rd ra (fun a => a ||| zextImm imm))
def execXori (rd ra : XReg) (imm : BitVec 16) (s : State) : Out := .next (s.intOp1 rd ra (fun a => a ^^^ zextImm imm))
def execShli (rd ra : XReg) (sh : BitVec 6) (s : State) : Out := .next (s.intOp1 rd ra (fun a => shlW a (sh.zeroExtend 64)))
def execShri (rd ra : XReg) (sh : BitVec 6) (s : State) : Out := .next (s.intOp1 rd ra (fun a => shrW a (sh.zeroExtend 64)))
def execSrai (rd ra : XReg) (sh : BitVec 6) (s : State) : Out := .next (s.intOp1 rd ra (fun a => sraW a (sh.zeroExtend 64)))
def execSlti (rd ra : XReg) (imm : BitVec 16) (s : State) : Out :=
  .next (s.intOp1 rd ra (fun a => boolW (a.slt (sextImm imm))))
/-- LUI: the sign-extended immediate times 2^16 (R201). -/
def execLui (rd : XReg) (imm : BitVec 16) (s : State) : Out := .next (s.intOp1 rd 0 (fun _ => sextImm imm <<< 16))

/-! ## Pointers -/

/-- Element size of a format code, and whether it is a block format (R41). -/
def fmtSize : Nat → Nat
  | 0 | 1 | 4 => 1
  | 2 | 5 | 7 => 2
  | 3 | 6 | 8 | 13 => 4
  | 9 => 6
  | 10 => 10
  | 11 => 16
  | 12 => 80
  | _ => 0
def fmtIsPb (f : Nat) : Bool := f = 9 || f = 10 || f = 11

/-- The checks of R60 that ADDP and ADDPE make (R202). -/
def ptrOk (p : Word) : Bool :=
  let fmt := fieldNat p 52 4
  fieldNat p 61 3 = 0 && fmt < 14 && (!fmtIsPb fmt || fieldNat p 56 5 ≥ 4)

/-- The pointer moved by a signed byte count, where it stays within 52 bits (R61). -/
def ptrAdd (p : Word) (d : Int) : Option Word :=
  let a : Int := (fieldNat p 0 52 : Nat) + d
  if 0 ≤ a && a < 2 ^ 52 then some (BitVec.ofNat 64 (p.toNat / 2 ^ 52 * 2 ^ 52 + a.toNat)) else none

/-- Byte count of a signed element count (R61): whole blocks for a block format. -/
def ptrScale (p n : Word) : Option Int :=
  let fmt := fieldNat p 52 4
  if fmtIsPb fmt then if n.toInt % 16 = 0 then some (n.toInt / 16 * fmtSize fmt) else none
  else some (n.toInt * fmtSize fmt)

/-- A pointer operation that gives a value, or the pointer fault with rd unwritten (R202). -/
def State.ptrOp (s : State) (rd ra rb : XReg) (f : Word → Word → Option Word) : State :=
  s.whenFree s.actCell [rd, ra, rb] (fun s =>
    match f (s.readX s.actCell ra) (s.readX s.actCell rb) with
    | some v => (s.writeX s.actCell rd v).advance s.actCell 4
    | none => s.scalarFault s.actCell 0x03 0)

def execAddp (rd ra rb : XReg) (s : State) : Out :=
  .next (s.ptrOp rd ra rb (fun p n => if ptrOk p then ptrAdd p n.toInt else none))
def execAddpe (rd ra rb : XReg) (s : State) : Out :=
  .next (s.ptrOp rd ra rb (fun p n => if ptrOk p then (ptrScale p n).bind (ptrAdd p) else none))
/-- PFMT: bits [60:52] of ra replaced by rb[8:0] (R202). -/
def pfmtW (a b : Word) : Word :=
  BitVec.ofNat 64 (fieldNat a 61 3 * 2 ^ 61 + fieldNat b 0 9 * 2 ^ 52 + fieldNat a 0 52)
def execPfmt (rd ra rb : XReg) (s : State) : Out := .next (s.intOp rd ra rb pfmtW)
/-- PGET: addr, fmt or bll of ra, zero-extended (R202). -/
def pgetW (sel : PgetSel) (a : Word) : Word :=
  match sel with
  | .addr => BitVec.ofNat 64 (fieldNat a 0 52)
  | .fmt => BitVec.ofNat 64 (fieldNat a 52 4)
  | .bll => BitVec.ofNat 64 (fieldNat a 56 5)
def execPget (rd ra : XReg) (sel : PgetSel) (s : State) : Out := .next (s.intOp1 rd ra (pgetW sel))

end Sys2Proof.Machine
end

