-- ==== Sys2Proof/Machine/Access.lean ====
section
/-! DEFINITION. The scalar core's memory instructions (R203 to R206) and their orders (R94 to R100). -/

namespace Sys2Proof.Machine

/-- Bytes of a load type and of a store type (R170). -/
def LdTy.bytes : LdTy → Nat
  | .s8 | .n8 => 1
  | .s16 | .n16 => 2
  | .s32 | .n32 => 4
  | .d64 => 8
def StTy.bytes : StTy → Nat
  | .w8 => 1
  | .w16 => 2
  | .w32 => 4
  | .w64 => 8

/-- The register value of loaded bytes: sign-extended for .s types, zero-extended for .n types (R203). -/
def LdTy.extend (t : LdTy) (b : List Byte) : Word :=
  match t with
  | .s8 | .s16 | .s32 | .d64 => BitVec.ofInt 64 (sextNat (8 * LdTy.bytes t) (leNat b))
  | .n8 | .n16 | .n32 => BitVec.ofNat 64 (leNat b)

/-- A load (R203); `acq` is the scope of an LDA (R98, R140). -/
def State.loadOp (s : State) (t : LdTy) (rd base : XReg) (off : Int) (acq : Option Scope) : State :=
  s.whenFree s.actCell [rd, base] (fun s =>
    let c := s.actCell
    let b := s.readX c base
    match scalarAddr b off (LdTy.bytes t) with
    | none => s.scalarFault c 0x13 (scalarVa b off)
    | some va => s.scalarAccess c .load va (fun s l =>
        s.loadAt c l va (LdTy.bytes t) (fun s bytes =>
          let s1 := if acq.isSome then s.nonretriableAt c l.place else s
          if s1.isFrozen c then s1
          else
            let s2 := match acq with
              | some sc => if scopeRank sc ≥ 2 then s1.dropForeign c else s1
              | none => s1
            (s2.writeX c rd (LdTy.extend t bytes)).advance c 4)))

def execLd (t : LdTy) (rd base : XReg) (off : BitVec 12) (s : State) : Out := .next (s.loadOp t rd base off.toInt none)
def execLda (t : LdTy) (rd base : XReg) (sc : Scope) (s : State) : Out := .next (s.loadOp t rd base 0 (some sc))

/-- A store (R203, R95); `rel` marks an STL, which makes its activation non-retriable away from the local scratchpad (R140) and,
as a release, performs after every earlier access of the cell (R98). -/
def State.storeOp (s : State) (t : StTy) (data base : XReg) (off : Int) (rel : Bool) : State :=
  s.whenFree s.actCell [data, base] (fun s =>
    let c := s.actCell
    let b := s.readX c base
    match scalarAddr b off (StTy.bytes t) with
    | none => s.scalarFault c 0x13 (scalarVa b off)
    | some va => s.scalarAccess c .store va (fun s l =>
        let s1 := if rel then s.nonretriableAt c l.place else s
        if s1.isFrozen c then s1
        else s1.bufferStore c l va (leBytes (StTy.bytes t) (s.readX c data).toNat) (fun s => s.advance c 4)))

def execSt (t : StTy) (data base : XReg) (off : BitVec 12) (s : State) : Out := .next (s.storeOp t data base off.toInt false)
def execStl (t : StTy) (data base : XReg) (_sc : Scope) (s : State) : Out := .next (s.storeOp t data base 0 true)

/-- The new value of an AMO on w-bit values (R205). -/
def amoNew (op : AmoOp) (w old v : Nat) : Nat :=
  match op with
  | .swap => v
  | .add => (old + v) % 2 ^ w
  | .and => Nat.land old v
  | .or => Nat.lor old v
  | .xor => Nat.xor old v
  | .min => if sextNat w old < sextNat w v then old else v
  | .max => if sextNat w old < sextNat w v then v else old
  | .minn => if old < v then old else v
  | .maxn => if old < v then v else old

/-- A read-modify-write (R205, R96): away from the local scratchpad the activation becomes non-retriable (R140), the earlier
stores and packets perform first, then it acts at the home in one step, before or after an element of an engine operation that races
with it (R108); it orders as a full fence. `upd` gives the value to write, if any. DESIGN CHOICE: its write at another cell's port is no remote store for the trace ring (R113; log entry 72). -/
def State.rmw (s : State) (w64 : Bool) (sc : Scope) (rd ra rb : XReg) (upd : State → Nat → Option Nat) : State :=
  s.whenFree s.actCell [rd, ra, rb] (fun s =>
    let c := s.actCell
    let n := if w64 then 8 else 4
    let b := s.readX c ra
    match scalarAddr b 0 n with
    | none => s.scalarFault c 0x13 (scalarVa b 0)
    | some va => s.scalarAccess c .both va (fun s l =>
        let pa := l.place.pa c
        let s0 := s.touch c l.place
        if s0.poisoned (pa / 64) then s0.scalarFault c 0x14 (BitVec.ofNat 64 va)
        else
          let sn := s.nonretriableAt c l.place
          if sn.isFrozen c then sn
          else if !sn.drained c then sn
          else
            let s1 := sn.touch c l.place
            let (b0, sm) := s1.mixRead c 0 pa (overlay (if l.place.isOwn then s1.pendingWrites c else []) pa (s1.read pa n))
            let old := leNat b0
            let sr := sm.refreshLine c pa (s1.read pa n)
            let s2 := match upd sr old with
              | none => sr
              | some v =>
                let (b, sw) := sr.mixUpdate c 0 pa (leBytes n v)
                (match l.place with
                | .own off => (sw.dropRaps c (sw.nextOrd c) pa n).ownWrite c off b false
                | _ => sw.storeHome c true pa b false).notePosts pa n
            let s3 := if scopeRank sc ≥ 2 then s2.dropForeign c else s2
            if s3.isFrozen c then s3
            else (s3.writeX c rd (BitVec.ofNat 64 old)).advance c 4))

def execAmo (op : AmoOp) (w64 : Bool) (sc : Scope) (rd ra rb : XReg) (s : State) : Out :=
  let w := if w64 then 64 else 32
  .next (s.rmw w64 sc rd ra rb (fun st old => some (amoNew op w old ((st.readX st.actCell rb).toNat % 2 ^ w))))
def execCas (w64 : Bool) (sc : Scope) (rd ra rb : XReg) (s : State) : Out :=
  let w := if w64 then 64 else 32
  .next (s.rmw w64 sc rd ra rb (fun st old =>
    if old = (st.readX st.actCell rd).toNat % 2 ^ w then some ((st.readX st.actCell rb).toNat % 2 ^ w) else none))

/-- FENCE (R99, R100, R140, R206). -/
def execFence (k : FenceKind) (sc : Scope) (s : State) : Out :=
  let c := s.actCell
  .next (
    if k = .acq then (if scopeRank sc ≥ 2 then s.dropForeign c else s).advance c 4
    else
      let s1 := if sc = .cell then s else s.goNonretriable c
      if s1.isFrozen c then s1
      else if !s1.drained c then s1
      else (if k = .full && scopeRank sc ≥ 2 then s1.dropForeign c else s1).advance c 4)

end Sys2Proof.Machine
end

