-- ==== Sys2Proof/Machine/Activation.lean ====
section
/-! DEFINITION. How activations start, end, are run again or abandoned (R128, R129, R139 to R142, R199, R418), and how a cell
retires from its launch (R122). -/

namespace Sys2Proof.Machine

/-! ## Launch records -/

def State.updLaunch (s : State) (k : LKey) (f : Launch → Launch) : State :=
  { s with launches := s.launches.map (fun l => if l.key = k then f l else l) }

/-- Whether an item of a launch comes late to a cell: the cell has retired from that launch (R122). -/
def State.retiredFrom (s : State) (k : Option LKey) (t : Nat) : Bool := (k.bind s.launchOf).any (fun la => la.retired.contains t)

/-- The number that stands in a launch's tables for a cell that has retired from it and to which another of its contexts has moved since. -/
def goneCell (c : Nat) : Nat := 65536 + c

/-- The launch in whose stray count an item is counted that is dropped at a cell: the last one that the cell retired from (R122), of a cell
that holds a cancelled launch that launch (R130). DESIGN CHOICE: the latter takes a late item of an earlier launch too (log entry 96). -/
def State.strayKey (s : State) (t : Nat) : Option LKey :=
  let cell := if 65536 ≤ t then t - 65536 else t
  match (s.ctx cell).launch with
  | some l => if l.cancelled then some l.key else (s.cell cell).last
  | none => (s.cell cell).last

/-- Counts an item that was dropped at a cell. -/
def State.countDrop (s : State) (t : Nat) : State :=
  match s.strayKey t with
  | some k => s.updLaunch k (fun la => { la with stray := la.stray + 1 })
  | none => s

/-- A store or arithmetic packet of a cell to its own scratchpad is on its way. -/
def State.selfBound (s : State) (c : Nat) : Bool :=
  s.net.any (fun p => p.src = c && p.node = 0 && p.dst = c && (match p.body with
    | .store .. | .rap .. => true
    | .msg .. | .arrive .. | .land .. => false))

/-- A cell can be given a launch: it holds none, no migration has reserved it, and nothing of its last one to its own scratchpad is on its
way. -/
def State.isFree (s : State) (c : Nat) : Bool :=
  (s.ctx c).launch.isNone && !(s.cell c).taken && !s.selfBound c

/-- Stores left in the buffer of a cell that retires are on their way; its launch waits for them (R105). -/
def State.sendStores (s : State) (c : Nat) : State :=
  { s with net := s.net ++ (s.ctx c).out.sb.map (s.bufferPacket c) }

/-- A migration in progress ends with its context: its destination is no longer reserved. -/
def State.dropMove (s : State) (c : Nat) : State :=
  match (s.cell c).moving with
  | none => s
  | some (d, _) => (s.updCell d (fun cl => { cl with taken := false })).updCell c (fun cl => { cl with moving := none })

/-- Withdrawals that take effect at an activation boundary (R153): the top logical unit of each kind goes with its contents. -/
def Floor.withdraw (f : Floor) : UnitKind → Floor
  | .scratch => { f with scratch := f.scratch.dropLast }
  | .vector => { f with vector := f.vector.dropLast }
  | .accum => { f with accum := f.accum.dropLast }

/-- The contents of a cell's highest unit of a kind are discarded (R153): zeros stand in its place (log entry 31). -/
def State.discardTop (s : State) (c : Nat) : UnitKind → State
  | .scratch =>
    let a := spBase c + ((s.cell c).floor.scratch.length - 1) * 32768
    let stays := fun (n : Nat) => n < a || a + 32768 ≤ n
    { s with mem := s.mem.filter (fun p => stays p.1), poison := s.poison.filter (fun l => stays (l * 64)) }
  | .vector =>
    let r := ((s.cell c).floor.vector.length - 1) * 8
    s.updVec c (fun e => (List.range 8).foldl (fun e i => { e with v := e.v.set! (r + i) 0, tag := setBitAt e.tag (r + i) false }) e)
  | .accum => s.updMat c (fun m => { m with tiles := m.tiles.set! ((s.cell c).floor.accum.length - 1) Tile.zero })

/-- One withdrawal takes effect. -/
def State.withdrawUnit (s : State) (c : Nat) (k : UnitKind) : State :=
  (s.discardTop c k).updCell c (fun cl => { cl with floor := cl.floor.withdraw k })

/-- An activation boundary (R153): the end of an activation, however it comes, or its start. -/
def State.boundary (s : State) (c : Nat) : State :=
  ((s.cell c).floor.due.foldl (fun st k => st.withdrawUnit c k) s).updCell c (fun cl => { cl with floor := { cl.floor with due := [] } })

/-- The cell retires from its launch (R122): queued activations go, bellboard entries are cleared, forwarding entries that name
its context are removed (R149). -/
def State.retireCell (s : State) (c : Nat) : State :=
  match (s.ctx c).launch with
  | none => s
  | some l =>
    let s1 := ((((s.boundary c).sendStores c).dropMove c).dropCompare c).updCell c (fun cl => { cl with last := some l.key, ctx := { cl.ctx with
      launch := none, bell := [], rq := Vector.replicate 4 [], later := [],
      core := { cl.ctx.core with run := .idle, act := none, idAct := 0, trig := 0, loops := [] },
      out := { cl.ctx.out with sb := [], held := [], firings := [], journal := [], record := [], start := none, ended := none,
                               misses := [], claims := [] } } })
    let s2 := s1.updLaunch l.key (fun la => { la with retired := la.retired ++ [c] })
    let s3 := { s2 with cells := s2.cells.map (fun p =>
      (p.1, { p.2 with fwd := p.2.fwd.filter (fun f => !(f.key = l.key && f.dst = c)) })) }
    if (cellsOfDist (distOfCell c)).all (fun t => (s3.ctx t).launch.isNone) then
      s3.updDist (distOfCell c) (fun d => { d with freeSince := s.now })
    else s3

/-! ## The end of an activation -/

/-- Under a cancelled launch, items addressed to its cells are dropped at END (R130); under a killed job, all held items (R150). -/
def State.dropCancelled (s : State) (c : Nat) : State :=
  match (s.ctx c).launch with
  | none => s
  | some l =>
    if l.cut then s.updOut c (fun o => { o with held := [], firings := [] })
    else if !l.cancelled then s
    else s.updOut c (fun o => { o with held := o.held.filter (fun h =>
      match h.pkt.body with
      | .store .. => true
      | .rap .. => true
      | _ =>
        let t := s.forward (some l.key) h.pkt.dst
        !(h.pkt.node = 0 && ((s.ctx t).launch.map (·.key) = some l.key || s.retiredFrom (some l.key) t))) })

/-- Steps 2 to 4 of R199 once the engines are idle and the buffer is empty: held items and firings go out, `last` is the
instruction's own last step, and the cell retires where END says so or its launch is cancelled. -/
def State.finishAct (s : State) (c : Nat) (retire : Bool) (last : State → State) : State :=
  let x := s.ctx c
  let cancelled := match x.launch with
    | some l => l.cancelled
    | none => false
  let second := x.core.act.bind (·.second)
  let s1 := (s.dropCancelled c).release c
  let s2 := last s1
  let s3 := s2.updCtx c (fun x => { x with
    core := { x.core with run := .idle, act := none, loops := [] },
    mat := { x.mat with failed := x.mat.failed.filter (fun f => f.1 ≠ x.core.idAct) },
    out := { x.out with journal := [], record := [], start := none, ended := none, claimed := 0,
                         misses := Tab.drop x.out.misses x.core.idAct.toNat, claims := Tab.drop x.out.claims x.core.idAct.toNat } })
  let s4 := match second with
    | some a => s3.updCell c (fun cl => { cl with bankPk := cl.bankPk ++ [{ s.packet c 2 0x14 a 0 with second := true }] })
    | none => s3
  let s5 := (if x.proof then s4 else s4.updDist (distOfCell c) (fun d => { d with commit := d.commit + 1 })).boundary c
  if retire || cancelled then s5.retireCell c else s5

/-- Bytes of a released item: header, then payload (R143). -/
def Packet.stream (p : Packet) : List Byte :=
  match p.body with
  | .msg e d pay => Config.itemHeader [0, p.node, p.dst, e, d] ++ (pay.map (fun w => leBytes 8 w.toNat)).flatten
  | .arrive e b => Config.itemHeader [1, p.node, p.dst, e, b.toNat]
  | .land e b => Config.itemHeader [2, p.node, p.dst, e, b]
  | .store pa _ b => Config.itemHeader [3, p.node, p.dst, pa] ++ b
  | .rap _ _ q pa _ v => Config.itemHeader [4, p.node, p.dst, pa, (q.map BitVec.toNat).getD 0] ++ v

def Outgoing.digest (o : Outgoing) : BitVec 64 := crc64 (o.held.map (fun h => h.pkt.stream)).flatten

/-- END and WAITB up to step 1 of R199, and under proof mode the wait for the comparison of digests (R143), which a partner that has
left the launch no longer takes part in (R150). -/
def State.endWith (s : State) (c : Nat) (retire : Bool) (last : State → State) : State :=
  s.whenIdle c [1, 2, 3] (fun s =>
    if (s.ctx c).out.sb ≠ [] then s
    else if !(s.ctx c).proof || (s.partner c).isNone then s.finishAct c retire last
    else match (s.ctx c).out.ended with
      | none => s.updOut c (fun o => { o with ended := some (false, o.digest), assisted := bitAt s.fmCtl 6 })
      | some (false, _) => s
      | some (true, _) => s.finishAct c retire last)

/-! ## The start of an activation -/

/-- act.trig (R187). -/
def Firing.trig (f : Firing) : Word := BitVec.ofNat 64 (f.entry % 512 + 2 ^ 14 * b2n f.start + 2 ^ 15 * b2n f.cont)

/-- The start of a chosen firing (R185, R199): argument words in x1 to x4, every other x register zero, loop state empty,
tokens complete, freshness cleared (R297); an acquire of device scope drops foreign lines (R101). DEDUCED: id.act counts the
activation that begins (R124; log entry 75). -/
def State.beginAct (s : State) (c : Nat) (f : Firing) (rerun : Bool) : State :=
  let x := s.ctx c
  let (num, begun) := match x.launch with
    | some l => (l.number, l.begun)
    | none => (0, 0)
  let ida : Word := f.idAct.getD (BitVec.ofNat 64 (num * 2 ^ 40 + (begun + 1)))
  let act : Activation := ⟨f, ida, s.now, true, 0, rerun, none⟩
  let xs := (((((Vector.replicate 32 (0 : Word)).set 1 f.args[0]).set 2 f.args[1]).set 3 f.args[2]).set 4 f.args[3])
  let s1 := s.updCtx c (fun x => { x with
    launch := x.launch.map (fun l => if rerun then l else { l with begun := l.begun + 1 }),
    core := { x.core with x := xs, pc := BitVec.ofNat 52 f.handler, loops := [], tok := Vector.replicate 8 Tok.idle,
                          run := .running, act := some act, trig := f.trig, idAct := ida },
    mat := { x.mat with freshl := 0, fresht := 0 },
    out := { x.out with held := [], firings := [], journal := [], record := [], ended := none, claimed := 0, shadow := [],
                        start := some ⟨x.core.hnd, x.core.xoTop, x.mat.head, x.mat.tail, x.mat.epi, x.mat.lists,
                          x.mat.listTy, x.mat.sat, x.mat.cg⟩ } })
  let s2 := s1.updCell c (fun cl => { cl with walked := [] })
  if f.wide then s2.dropForeign c else s2

/-- The head of the highest non-empty level (R128). -/
def Ctx.nextFiring (x : Ctx) : Option (Nat × Firing) :=
  [3, 2, 1, 0].findSome? (fun l => match x.rq.toList.getD l [] with
    | [] => none
    | f :: _ => some (l, f))

/-- Over-capacity at the start of an activation (R154). -/
def Cell.overCapacity (cl : Cell) : Bool := match cl.ctx.launch with
  | some l => l.footprint > cl.fpCap || l.vregs > cl.fpVcap
  | none => false

/-- Starts a firing that has left its queue (R199, R128); over-capacity shows before the first instruction (R154). -/
def State.startFiring (s : State) (c : Nat) (f : Firing) (rerun : Bool) : State :=
  let s1 := (s.beginAct c f rerun).queueDeferred c
  if (s1.cell c).overCapacity then s1.freeze c (s1.packet c 0 0x09 0 0) else s1

/-- Firing k of a level leaves the run queue. -/
def State.unqueue (s : State) (c lvl k : Nat) : State :=
  s.updCtx c (fun x => { x with rq := x.rq.set! lvl ((x.rq.toList.getD lvl []).eraseIdx k) })

def State.startHead (s : State) (c : Nat) : State :=
  match (s.ctx c).nextFiring with
  | none => s
  | some (l, f) => (s.unqueue c l 0).startFiring c f f.idAct.isSome

/-- Whether a firing is of a running activation's trigger. -/
def Activation.sameTrigger (a : Activation) (f : Firing) : Bool :=
  f.entry = a.firing.entry && f.cont = a.firing.cont && f.start = a.firing.start

/-- Where a firing of the trigger stands in a run queue: level and place; a run again looks for its own number first. -/
def Ctx.matching (x : Ctx) (a : Activation) : Option (Nat × Nat) :=
  ((if a.rerun then [some a.idAct, none] else [none]).findSome? (fun ida => [3, 2, 1, 0].findSome? (fun l =>
    ((x.rq.toList.getD l []).findIdx? (fun f => a.sameTrigger f && f.idAct = ida)).map (fun k => (l, k)))))

/-- A deferred firing of the trigger's entry is used up. -/
def Ctx.useDeferred (x : Ctx) (e : Nat) : Ctx :=
  { x with later := x.later.eraseP (fun f => f.entry = e)
           bell := Tab.upd Entry.reset x.bell e (fun en => { en with deferred := en.deferred - 1 }) }

/-- The second cell of a proof pair runs the trigger that the first runs, with the same words and number (R143). -/
def State.startSecond (s : State) (c q : Nat) : State :=
  match (s.core q).act, (s.ctx q).out.ended with
  | none, _ | _, some (true, _) => s
  | some a, _ =>
    let go := fun (st : State) => st.startFiring c { a.firing with idAct := some a.idAct } a.rerun
    match (s.ctx c).matching a with
    | some (l, k) => go (s.unqueue c l k)
    | none =>
      if ((s.ctx c).entry a.firing.entry).deferred = 0 then s
      else go (s.updCtx c (fun x => x.useDeferred a.firing.entry))

/-- The free core starts the next activation (R199, R128, R153), once the stores of an abandoned one have left the buffer (R94, R142); of a
proof pair the first cell chooses, when the second is free too (R143). -/
def State.startNext (s : State) (c : Nat) : State :=
  if (s.core c).run ≠ .idle || (s.cell c).moving.isSome || !s.awake || (s.ctx c).out.sb ≠ [] then s
  else
    let s1 := s.boundary c
    match s1.partner c with
    | none => s1.startHead c
    | some q =>
      if (s1.ctx c).launch.any (·.first) then (if (s1.core q).act.isSome then s1 else s1.startHead c) else s1.startSecond c q

/-- The oldest activation of a level moves up when it has waited 65,536 cycles and the level above has room (R128). -/
def State.promote (s : State) (c lvl : Nat) : State :=
  match (s.ctx c).rq.toList.getD lvl [] with
  | [] => s
  | f :: t =>
    let up := (s.ctx c).rq.toList.getD (lvl + 1) []
    if lvl ≥ 3 || s.now < f.since + 65536 || up.length ≥ 64 then s
    else (s.updCtx c (fun x => { x with
      rq := (x.rq.set! lvl t).set! (lvl + 1) (up ++ [{ f with prio := lvl + 1, since := s.now }]) })).queueDeferred c

/-- Cycles an activation has run (R129). -/
def Activation.ran (a : Activation) (now : Nat) : Nat := now - a.began

/-- The hang fault (R129). -/
def State.hang (s : State) (c : Nat) : State :=
  match (s.core c).run, (s.core c).act, (s.ctx c).launch with
  | .running, some a, some l => if a.ran s.now > l.watchdog then s.scalarFault c 0x08 0 else s
  | _, _, _ => s

/-! ## Kill and redelivery -/

/-- Undoes an entry's own changes (R418). -/
def EntryRec.undo (r : EntryRec) (e : Entry) : Entry :=
  let e1 : Entry := { e with
    count := e.count - r.dCount, pend := e.pend - r.dPend, phase := e.phase != r.flipped,
    handler := r.handler.getD e.handler, reload := r.reload.getD e.reload, prio := r.prio.getD e.prio,
    enable := r.enable.getD e.enable, bound := r.bound.getD e.bound, barrier := r.barrier.getD e.barrier,
    parked := r.parked.getD e.parked }
  { e1 with pending := !e1.barrier && e1.count ≤ 0 && !(e1.enable && e1.bound) }

/-- The bellboard record of an activation undone: entries, handles, xo.top and the matrix state of R297. -/
def State.undoRecord (s : State) (c : Nat) : State :=
  s.updCtx c (fun x =>
    let bell := x.out.record.foldl (fun b p => Tab.upd Entry.reset b p.1 (EntryRec.undo p.2)) x.bell
    match x.out.start with
    | none => { x with bell := bell }
    | some st => { x with
        bell := bell
        core := { x.core with hnd := st.handles, xoTop := st.xoTop }
        mat := { x.mat with head := st.head, tail := st.tail, epi := st.epi, lists := st.lists, listTy := st.listTy,
                            sat := st.sat, cg := st.cg } })

/-- The journal puts recorded lines back, the oldest record last (R141). -/
def State.undoJournal (s : State) (c : Nat) : State :=
  (s.ctx c).out.journal.reverse.foldl (fun st r =>
    let pa := spBase c + r.1 * 64
    ({ st with mem := memWrite st.mem pa r.2.1 }).setPoison (pa / 64) r.2.2) s

/-- Queued engine operations and copies in flight go, with the requests that they and the core have made (R141, R142, R283). -/
def State.dropEngines (s : State) (c : Nat) : State :=
  { s with stair := s.stair.filter (fun r => r.cell ≠ c) }.updCtx c (fun x => { x with
    vec := { x.vec with queue := [], fault := none }
    mat := { x.mat with queue := [], fault := none }
    cop := CopyEng.reset })

/-- Killing a retriable activation (R141): held items dropped, journal and record undone, engine operations discarded, and the
activation queued again at its entry's priority with its words and numbers (R188). DESIGN CHOICE: where that level already holds 64
it is deferred with them, as R128 defers a firing (log entry 76). A cell of a cancelled launch retires instead (R130). -/
def State.killRetriable (s : State) (c : Nat) : State :=
  match (s.core c).act with
  | none => s
  | some a =>
    let s1 := s.updOut c (fun o => { o with held := [], firings := [], sb := [] })
    let s2 := (((s1.undoJournal c).undoRecord c).dropEngines c).dropCompare c
    let s3 := (s2.updCtx c (fun x => { x with
      core := { x.core with run := .idle, act := none, loops := [] },
      out := { x.out with journal := [], record := [], start := none, ended := none } })).boundary c
    match (s3.ctx c).launch with
    | some l =>
      if l.cancelled then s3.retireCell c
      else s3.queueFiring c { a.firing with
        prio := ((s3.ctx c).entry a.firing.entry).prio.toNat, idAct := some a.idAct, since := s.now } 1
    | none => s3

/-- Abandoning a non-retriable activation (R142); its buffered stores go on to their homes (R95). -/
def State.abandon (s : State) (c : Nat) : State :=
  let ida := (s.core c).idAct
  let s1 := (((s.dropEngines c).dropCompare c).updCtx c (fun x => { x with
    core := { x.core with run := .idle, act := none, loops := [], tok := Vector.replicate 8 Tok.idle },
    out := { x.out with journal := [], record := [], start := none, ended := none } })).boundary c
  let s2 := { s1 with notices := s1.notices ++ [Notice.abandoned ida] }
  match (s2.ctx c).launch with
  | some l => if l.cancelled then s2.retireCell c else s2
  | none => s2

/-- The B panel or other operand load at the head of a frozen cell's matrix queue that has met poison is remembered for the re-run
(R147, R302). -/
def State.rememberFailed (s : State) (c : Nat) : State :=
  match (s.core c).run, (s.ctx c).mat.queue with
  | .frozen p _ _, o :: _ =>
    if p.eng = 2 && p.cause = 0x14 && (match o.ins with
      | .mldb .. => true
      | .mfil .. => true
      | _ => false)
    then s.updMat c (fun m => { m with failed := m.failed ++ [((s.core c).idAct, o.ins, o.xs)] }) else s
  | _, _ => s

/-- Kill activation (R137): by R141 where retriable, by R142 otherwise. -/
def State.killActivation (s : State) (c : Nat) : State :=
  match (s.core c).run with
  | .frozen .. => if (s.ctx c).retriable then (s.rememberFailed c).killRetriable c else s.abandon c
  | _ => s

def execActivationStart (c : Nat) (s : State) : Out := .next (s.startNext c)
def execRunQueuePromotion (c lvl : Nat) (s : State) : Out := .next (s.promote c lvl)
def execHangFault (c : Nat) (s : State) : Out := .next (s.hang c)

end Sys2Proof.Machine
end

