-- ==== Sys2Proof/Machine/Control.lean ====
section
/-! DEFINITION. Branches, jumps and hardware loops (R207 to R209). -/

namespace Sys2Proof.Machine

/-- pc + 4 × a signed word offset. -/
def wordTarget (pc : BitVec 52) (off : Int) : Nat := wrapInt 52 (pc.toNat + 4 * off)

/-- A branch on two registers (R207). -/
def State.branch (s : State) (ra rb : XReg) (off : BitVec 16) (cond : Word → Word → Bool) : State :=
  s.whenFree s.actCell [ra, rb] (fun s =>
    if cond (s.readX s.actCell ra) (s.readX s.actCell rb) then
      s.jump s.actCell (wordTarget (s.core s.actCell).pc off.toInt)
    else s.advance s.actCell 4)

def execBeq (ra rb : XReg) (off : BitVec 16) (s : State) : Out := .next (s.branch ra rb off (fun a b => a == b))
def execBne (ra rb : XReg) (off : BitVec 16) (s : State) : Out := .next (s.branch ra rb off (fun a b => a != b))
def execBlt (ra rb : XReg) (off : BitVec 16) (s : State) : Out := .next (s.branch ra rb off (fun a b => a.slt b))
def execBge (ra rb : XReg) (off : BitVec 16) (s : State) : Out := .next (s.branch ra rb off (fun a b => !a.slt b))
def execBltn (ra rb : XReg) (off : BitVec 16) (s : State) : Out := .next (s.branch ra rb off (fun a b => a.ult b))
def execBgen (ra rb : XReg) (off : BitVec 16) (s : State) : Out := .next (s.branch ra rb off (fun a b => !a.ult b))

/-- x31 := pc + 4; pc := pc + 4 × offset (R208). -/
def execJal (off : BitVec 26) (s : State) : Out :=
  .next (s.whenFree s.actCell [31] (fun s =>
    let pc := (s.core s.actCell).pc
    (s.writeX s.actCell 31 ((pc + 4).zeroExtend 64)).jump s.actCell (wordTarget pc off.toInt)))

/-- The target of JALR: (ra + 4 × offset) with bits [1:0] cleared, low 52 bits (R208). -/
def jalrTarget (a : Word) (off : BitVec 14) : Nat := (a + BitVec.ofInt 64 (4 * off.toInt)).toNat / 4 * 4 % 2 ^ 52

/-- rd := pc + 4 after ra is read; pc := target (R208). -/
def execJalr (rd ra : XReg) (off : BitVec 14) (s : State) : Out :=
  .next (s.whenFree s.actCell [rd, ra] (fun s =>
    let t := jalrTarget (s.readX s.actCell ra) off
    (s.writeX s.actCell rd (((s.core s.actCell).pc + 4).zeroExtend 64)).jump s.actCell t))

/-- A loop instruction of count c and body length b words (R209). -/
def State.loopOp (s : State) (cnt : Nat) (body : Nat) : State :=
  let c := s.actCell
  let k := s.core c
  let start := k.pc.toNat + 4
  let stop := k.pc.toNat + 4 + 4 * body
  if cnt = 0 then s.advance c (4 + 4 * body)
  else
    let bad := match k.loops with
      | [] => false
      | [l] => stop > l.stop.toNat
      | _ => true
    if bad then s.scalarFault c 0x01 0
    else s.updCore c (fun k => { k with
      loops := ⟨BitVec.ofNat 32 cnt, BitVec.ofNat 32 start, BitVec.ofNat 32 stop⟩ :: k.loops, pc := BitVec.ofNat 52 start })

def execLoop (ra : XReg) (body : BitVec 14) (s : State) : Out :=
  .next (s.whenFree s.actCell [ra] (fun s => s.loopOp (fieldNat (s.readX s.actCell ra) 0 32) body.toNat))
def execLoopi (cnt body : BitVec 12) (s : State) : Out := .next (s.loopOp cnt.toNat body.toNat)

end Sys2Proof.Machine
end

