-- ==== Sys2Proof/Machine/Operands.lean ====
section
/-! DEFINITION. Operands of engine operations: accesses of many pieces with their faults in order (R231, R284, R312), lanes and
masks of vector registers (R219, R220), and XA pairs (R221). -/

namespace Sys2Proof.Machine

/-! ## Accesses of many pieces -/

/-- How far an engine operation gets with its accesses: done with a value, waiting for a walk or a Stair request, or a fault with
the address and index that its packet reports. -/
inductive Got (α : Type) where
  | ok (s : State) (a : α)
  | wait (s : State)
  | fault (s : State) (cause : Nat) (addr : Word) (idx : Nat)

def Got.bind {α β : Type} (g : Got α) (f : State → α → Got β) : Got β :=
  match g with
  | .ok s a => f s a
  | .wait s => .wait s
  | .fault s cause addr idx => .fault s cause addr idx

/-- A fault that is reported as the access fault. -/
def Got.asAccess {α : Type} (g : Got α) : Got α :=
  match g with
  | .fault s _ addr idx => .fault s 0x13 addr idx
  | g => g

/-- A piece of an access: the lane or row it belongs to, its address and its bytes, all within one 64-byte line once cut. -/
structure Piece where
  idx : Nat
  va  : Nat
  n   : Nat
  deriving DecidableEq, Repr

/-- Cuts a run of bytes at 64-byte lines. -/
def cutLines (idx : Nat) : Nat → Nat → Nat → List Piece
  | 0, _, _ => []
  | fuel + 1, va, n =>
    if n = 0 then []
    else
      let k := min n (64 - va % 64)
      ⟨idx, va, k⟩ :: cutLines idx fuel (va + k) (n - k)

/-- The pieces of a run of bytes. -/
def piecesOf (idx va n : Nat) : List Piece := cutLines idx (n / 64 + 2) va n

/-- A run that starts at an exact address; none where it leaves 0 to 2^52 − 1 or misses the alignment (R231, R284). -/
def runOk (align : Nat) (va : Int) (n : Nat) : Bool := 0 ≤ va && va + n ≤ 2 ^ 52 && va % align = 0

/-- The first of some runs that fails the range and alignment check, as its index and address. -/
def firstBad (align : Nat) (runs : List (Nat × Int × Nat)) : Option (Nat × Word) :=
  (runs.find? (fun r => !runOk align r.2.1 r.2.2)).map (fun r => (r.1, BitVec.ofInt 64 r.2.1))

/-- Place of a cause in the order of R231, R257, R284 and R312. -/
def causeRank (order cause : Nat) : Nat := if order = 2 then 4 else cause - 0x0f

/-- The fault that comes first: the least rank, then the first piece. -/
def firstFault (l : List (Piece × Res)) : Option (Nat × Nat × Nat) :=
  [1, 2, 3, 4].findSome? (fun r => l.findSome? (fun p => match p.2 with
    | .fault o cause => if causeRank o cause = r then some (cause, p.1.va, p.1.idx) else none
    | _ => none))

/-- Requests to other devices that pieces need: some failed with its piece, else whether all are answered. -/
def State.stairAll (s : State) (c eng : Nat) (l : List (Piece × Loc)) : Option Piece × Bool × State :=
  l.foldl (fun (r : Option Piece × Bool × State) p => match p.2.place with
    | .remote pa => match r.2.2.stairGo c eng pa with
      | (none, s1) => (r.1, false, s1)
      | (some true, s1) => (r.1, r.2.1, s1)
      | (some false, s1) => (if r.1.isSome then r.1 else some p.1, r.2.1, s1)
    | _ => r) (none, true, s)

/-- Finds the places of all pieces, each with its own kind of access (R80, R231): missing translations start their walks and the
operation waits; then the first fault in order; then the answers of other devices (R410). -/
def State.locateEach (s : State) (c eng : Nat) (ps : List (Piece × Acc)) : Got (List (Piece × Loc)) :=
  let rs := ps.map (fun p => (p.1, s.resolve c p.2 false p.1.va))
  let miss := (rs.filterMap (fun p => match p.2 with
    | .miss g => some g
    | _ => none)).eraseDups
  if miss ≠ [] then .wait (miss.foldl (fun st g => st.startWalk c g false) s)
  else match firstFault rs with
    | some (cause, va, idx) => .fault s cause (BitVec.ofNat 64 va) idx
    | none =>
      let ls := rs.filterMap (fun p => match p.2 with
        | .ok l => some (p.1, l)
        | _ => none)
      match s.stairAll c eng ls with
      | (_, false, s1) => .wait s1
      | (some p, true, s1) => .fault s1 0x13 (BitVec.ofNat 64 p.va) p.idx
      | (none, true, s1) => .ok s1 ls

/-- The places of pieces of one kind of access. -/
def State.locate (s : State) (c eng : Nat) (a : Acc) (ps : List Piece) : Got (List (Piece × Loc)) :=
  s.locateEach c eng (ps.map (fun p => (p, a)))

/-- A piece that was read: its index, its bytes and whether its line is poisoned. -/
structure ReadPiece where
  idx    : Nat
  bytes  : List Byte
  poison : Bool
  deriving DecidableEq, Repr

/-! ### Reads that race with another engine's writes (R108, R296; log entry 40) -/

/-- Elements of a run, as address and bytes: naturally aligned places of w bytes, cut at the run's ends. -/
def elements (w pa : Nat) (bytes : List Byte) : List (Nat × List Byte) :=
  (List.range (ceilDiv (bytes.length + pa % w) w)).map (fun i =>
    (max pa (pa / w * w + i * w), (bytes.drop (i * w - pa % w)).take (if i = 0 then w - pa % w else w)))

/-- Notes what stands where an engine's operation is about to write elements of w bytes. -/
def State.shade (s : State) (c eng w : Nat) (items : List (Place × List Byte)) : State :=
  let x := s.ctx c
  let ps := s.pendingWrites c
  let new := (items.map (fun p => elements w (p.1.pa c) p.2)).flatten.map (fun e =>
    Shadow.mk eng (x.ordOf eng) e.1 (overlay ps e.1 (s.read e.1 e.2.length)) e.2)
  let lives := fun (h : Shadow) => x.shadeLives h || (h.eng = eng && h.ord = x.ordOf eng)
  s.updOut c (fun o => { o with shadow := o.shadow.filter lives ++ new.filter (fun h => h.old ≠ h.new) })

/-- Reads pieces in order; `bad` is the first piece on a poisoned line that may not be read (R89). -/
def State.readPieces (s : State) (c eng : Nat) (ls : List (Piece × Loc)) : State × List ReadPiece × Option Piece :=
  ls.foldl (fun (r : State × List ReadPiece × Option Piece) p =>
    let (b0, poison, s0) := r.1.engineRead c p.2.place p.1.n
    let (b, s1) := s0.mixRead c eng (p.2.place.pa c) b0
    (s1, r.2.1 ++ [⟨p.1.idx, b, poison⟩],
      if r.2.2.isNone && poison && !bitAt p.2.flags 4 then some p.1 else r.2.2)) (s, [], none)

/-- A row-carrying load of pieces (R89, R231): poison on a page with pa = 0 faults. -/
def State.loadPieces (s : State) (c eng : Nat) (ps : List Piece) : Got (List ReadPiece) :=
  (s.locate c eng .load ps).bind (fun s ls =>
    match s.readPieces c eng ls with
    | (s1, _, some p) => .fault s1 0x14 (BitVec.ofNat 64 p.va) p.idx
    | (s1, rs, none) => .ok s1 rs)

/-- Bytes of one lane or row, and whether a line of it is poisoned. -/
def rowBytes (rs : List ReadPiece) (idx : Nat) : List Byte := ((rs.filter (·.idx = idx)).map (·.bytes)).flatten
def rowPoison (rs : List ReadPiece) (idx : Nat) : Bool := rs.any (fun r => r.idx = idx && r.poison)

/-- Lines that some written runs cover wholly. -/
def coveredLines (runs : List (Nat × Nat)) : List Nat :=
  ((runs.map (fun r => r.1 / 64)).eraseDups).filter (fun l =>
    (List.range 64).all (fun b => runs.any (fun r => r.1 ≤ l * 64 + b && l * 64 + b < r.1 + r.2)))

/-- What each of some written runs leaves where it races (R108). -/
def State.mixItems (s : State) (c eng : Nat) : List (Place × List Byte) → List (Place × List Byte) × State
  | [] => ([], s)
  | (p, b) :: t =>
    let (b1, s1) := s.mixWrite c eng (p.pa c) b
    let (l, s2) := s1.mixItems c eng t
    ((p, b1) :: l, s2)

/-- An engine writes bytes, elements of w each, at located places as one row with its tag (R88): lines that the row covers wholly take the
tag. -/
def State.writeRow (s : State) (c eng w : Nat) (items : List (Place × List Byte)) (tag : Bool) : State :=
  let (its, sm) := s.mixItems c eng items
  let s1 := its.foldl (fun st p => st.engineWrite c eng p.1 p.2 tag) (sm.shade c eng w its)
  if tag || (s1.isFrozen c && !s.isFrozen c) then s1
  else (coveredLines (items.map (fun p => (p.1.pa c, p.2.length)))).foldl (fun st l => st.setPoison l false) s1

/-- Cuts the bytes of a run for its located pieces. -/
def cutBytes : List (Piece × Loc) → List Byte → List (Place × List Byte)
  | [], _ => []
  | (p, l) :: t, b => (l.place, b.take p.n) :: cutBytes t (b.drop p.n)

/-! ## Lanes and masks -/

/-- Lane L of a register (R219). -/
def laneOf (w : Nat) (v : BitVec 512) (l : Nat) : Nat := v.toNat / 2 ^ (w * l) % 2 ^ w

/-- A register whose lane L is f L for L below n. -/
def packLanes (w : Nat) (f : Nat → Nat) : Nat → Nat
  | 0 => 0
  | n + 1 => packLanes w f n + f n % 2 ^ w * 2 ^ (w * n)

def ofLanes (w n : Nat) (f : Nat → Nat) : BitVec 512 := BitVec.ofNat 512 (packLanes w f n)

/-- One lane replaced. -/
def setLane (w : Nat) (v : BitVec 512) (l x : Nat) : BitVec 512 :=
  ofLanes w (512 / w) (fun j => if j = l then x else laneOf w v j)

def VecEng.reg (e : VecEng) (r : VReg) : BitVec 512 := e.v[r.toNat]
def VecEng.regN (e : VecEng) (r : Nat) : BitVec 512 := e.v.toList.getD r 0
def VecEng.mask (e : VecEng) (r : KReg) : Word := e.k[r.toNat]

/-- Whether lane L is active (R220). -/
def VecEng.active (e : VecEng) (m : Option KReg) (l : Nat) : Bool := match m with
  | none => true
  | some k => bitAt (e.mask k) l

def VecEng.activeLanes (e : VecEng) (m : Option KReg) (n : Nat) : List Nat := (List.range n).filter (e.active m)

/-- Writes a mask register (R220). -/
def VecEng.setMask (e : VecEng) (r : KReg) (v : Word) : VecEng := { e with k := e.k.set r.toNat v }

/-- A mask with the given lanes set. -/
def maskOf (l : List Nat) : Word := l.foldl (fun m i => setBitAt m i true) 0

/-! ## XA pairs -/

/-- The accumulator in a pair (R221). -/
def VecEng.pair (e : VecEng) (r : VReg) : XA :=
  XA.ofNat ((e.regN r.toNat).toNat + (e.regN (r.toNat + 1)).toNat % 2 ^ 128 * 2 ^ 512)

/-- Writes a pair (R221). -/
def VecEng.setPair (e : VecEng) (r : VReg) (a : XA) : VecEng :=
  { e with v := (e.v.set! r.toNat (BitVec.ofNat 512 a.toNat)).set! (r.toNat + 1) (BitVec.ofNat 512 (a.toNat / 2 ^ 512)) }

/-! ## Values of lanes -/

def LaneTy.float? : LaneTy → Option FloatTy
  | .bf16 => some .bf16
  | .f32 => some .f32
  | _ => none

/-- The integer a lane stands for. -/
def laneInt (t : LaneTy) (x : Nat) : Int := if t.isSigned then sextNat t.width x else (x % 2 ^ t.width : Nat)

/-- The exact value of a lane. -/
def laneFl (t : LaneTy) (x : Nat) : Fl := match LaneTy.float? t with
  | some f => f.decode x
  | none => Fl.ofInt (laneInt t x)

def GathTy.lane : GathTy → LaneTy
  | .f32 => .f32
  | .s32 => .s32
  | .n32 => .n32
def SgnTy.lane : SgnTy → LaneTy
  | .f32 => .f32
  | .bf16 => .bf16
  | .s32 => .s32
  | .s16 => .s16
  | .s8 => .s8
def RedTy.lane : RedTy → LaneTy
  | .f32 => .f32
  | .bf16 => .bf16
  | .s32 => .s32
  | .n32 => .n32
def DrainTy.lane : DrainTy → LaneTy
  | .f32 => .f32
  | .bf16 => .bf16
  | .s32 => .s32
def IntTy.lane : IntTy → LaneTy
  | .s8 => .s8
  | .s16 => .s16
  | .s32 => .s32
  | .n8 => .n8
  | .n16 => .n16
  | .n32 => .n32

end Sys2Proof.Machine
end

