-- ==== Sys2Proof/Machine/Flags.lean ====
section
/-! DEFINITION. Status bits: the vtags of vector registers (R222), lane comparisons (R236), and the token and matrix status words
that instructions read (R282, R293). -/

namespace Sys2Proof.Machine

/-! ## vtags -/

def VecEng.vtag (e : VecEng) (r : VReg) : Bool := bitAt e.tag r.toNat

/-- A pair's tag as a source (R222). -/
def VecEng.pairTag (e : VecEng) (r : VReg) : Bool := bitAt e.tag r.toNat || bitAt e.tag (r.toNat + 1)

def VecEng.setTag (e : VecEng) (r : Nat) (b : Bool) : VecEng := { e with tag := setBitAt e.tag r b }

/-- Writes a register with the tag of R222: `src` is the OR of the sources' tags and the entry's own; the old tag joins where
only part of the register was written. -/
def VecEng.write (e : VecEng) (r : VReg) (v : BitVec 512) (src part : Bool) : VecEng :=
  { e with v := e.v.set r.toNat v, tag := setBitAt e.tag r.toNat (src || (part && e.vtag r)) }

/-- Writes a pair; both registers take the tag (R222). -/
def VecEng.writePair (e : VecEng) (r : VReg) (a : XA) (tag : Bool) : VecEng :=
  ((e.setPair r a).setTag r.toNat tag).setTag (r.toNat + 1) tag

/-! ## Comparisons -/

/-- Outcome of a comparison as an order: less, equal, greater, or none where a NaN takes part (R236). -/
def laneCmp (t : LaneTy) (a b : Nat) : Option Int :=
  let x := laneFl t a
  let y := laneFl t b
  if x.isNan || y.isNan then none else some (Fl.cmp false x y)

/-- Whether a condition holds (R236). -/
def condHolds (cd : CmpCond) (r : Option Int) : Bool :=
  match r with
  | none => cd = .ne
  | some o => match cd with
    | .eq => o = 0
    | .ne => o ≠ 0
    | .lt => o < 0
    | .le => o ≤ 0
    | .gt => o > 0
    | .ge => o ≥ 0

/-! ## Status words -/

/-- TWAIT's word (R282): error bits and cancelled bits of the named tokens. -/
def Ctx.tokenWord (x : Ctx) (mask : BitVec 8) : Word :=
  (List.range 8).foldl (fun (w : Word) i =>
    let t := x.token i
    if bitAt mask i && t.eng = 3 then setBitAt (setBitAt w i t.error) (8 + i) t.cancelled else w) 0

end Sys2Proof.Machine
end

