-- ==== Sys2Proof/Machine/Copy.lean ====
section
/-! DEFINITION. Issue of the copy instructions (R262, R268) and TWAIT (R282). What an operation then does, CopyOp.lean says. -/

namespace Sys2Proof.Machine

def execCpy (k : EngKeys) (xd xs xn xc : XReg) (s : State) : Out :=
  .next (s.issueEng s.actCell (.cpy k xd xs xn xc) k)
def execCpyg (k : EngKeys) (xd xb xi xc : XReg) (strict : Bool) (s : State) : Out :=
  .next (s.issueEng s.actCell (.cpyg k xd xb xi xc strict) k)
def execCpyr (k : EngKeys) (xt xs xn xc : XReg) (s : State) : Out :=
  .next (s.issueEng s.actCell (.cpyr k xt xs xn xc) k)
def execCpym (k : EngKeys) (xr xs xn xc : XReg) (s : State) : Out :=
  .next (s.issueEng s.actCell (.cpym k xr xs xn xc) k)
def execCpyc (k : EngKeys) (t : RapTy) (op : RapOp) (xd xs xn xc : XReg) (s : State) : Out :=
  .next (s.issueEng s.actCell (.cpyc k t op xd xs xn xc) k)
def execClaim (k : EngKeys) (xd xq xb xc : XReg) (n : BitVec 6) (key : Bool) (s : State) : Out :=
  .next (s.issueEng s.actCell (.claim k xd xq xb xc n key) k)
def execCbdef (k : EngKeys) (b : BReg) (xa xg xp : XReg) (s : State) : Out :=
  .next (s.issueEng s.actCell (.cbdef k b xa xg xp) k)
def execCbadv (k : EngKeys) (xd : XReg) (b : BReg) (n : BitVec 8) (s : State) : Out :=
  .next (s.issueEng s.actCell (.cbadv k xd b n) k)
def execCpyx (wait toks : BitVec 8) (s : State) : Out :=
  .next (s.issueEng s.actCell (.cpyx wait toks) ⟨wait, none⟩)

/-- TWAIT (R282, R270, R133): it stops on a faulted engine, stalls while a named token is not complete, then writes xd. -/
def execTwait (wait : BitVec 8) (xd : XReg) (s : State) : Out :=
  .next (s.whenFree s.actCell [xd] (fun s =>
    let c := s.actCell
    let x := s.ctx c
    match x.waitFault wait with
    | some p => s.stopOnEngine c p
    | none => if x.waiting wait ≠ [] then s else (s.writeX c xd (x.tokenWord wait)).advance c 8))

end Sys2Proof.Machine
end

