-- ==== Sys2Proof/Machine/Message.lean ====
section
/-! DEFINITION. Messages, remote arithmetic packets, bellboard instructions, and the two ways an activation ends (R211 to R216). -/

namespace Sys2Proof.Machine

/-- Whether an item may go out now (R101, R139, R140): it is held while the activation is retriable; a non-retriable
activation's earlier stores leave the buffer first. -/
def State.mayEmit (s : State) (c : Nat) : Bool := (s.ctx c).retriable || (s.ctx c).out.sb = []

/-- Sends a body to a destination value's cells, then `go`; a value that fails R198 raises the access fault. -/
def State.sendOp (s : State) (c : Nat) (dest : Word) (body : PBody) (go : State → State) : State :=
  match s.destOf c dest with
  | none => s.scalarFault c 0x13 dest
  | some (node, cells) =>
    if !s.mayEmit c then s
    else
      let s1 := s.sendTo c node cells body
      if s1.isFrozen c then s1 else go s1

/-- Payload registers of a SEND. -/
def payRegs (rb : XReg) (n : BitVec 3) : List XReg := (List.range n.toNat).map (fun i => rb + BitVec.ofNat 5 i)

/-- SEND (R211). -/
def execSend (rd ra rb : XReg) (n : BitVec 3) (s : State) : Out :=
  .next (s.whenFree s.actCell ([rd, ra] ++ payRegs rb n) (fun s =>
    let c := s.actCell
    let ctl := s.readX c rd
    s.sendOp c (s.readX c ra) (.msg (fieldNat ctl 0 9) (fieldNat ctl 32 31) ((payRegs rb n).map (s.readX c)))
      (fun s => s.advance c 4)))

/-- The scratchpad element a packet goes to: node, cell and physical address; none where the place is no scratchpad (R212). -/
def Loc.element (l : Loc) (c : Nat) : Option (Nat × Nat × Nat) :=
  match l.place with
  | .own off => some (0, c, spBase c + off)
  | .scratch t off => some (0, t, spBase t + off)
  | .remote pa => match regionOf (localOf pa) with
    | .scratch t _ => some (nodeField pa, t, pa)
    | _ => none
  | _ => none

/-- The operand of a RAP: the value, or the image at a local scratchpad address, or the fault it raises (R212). -/
def State.rapOperand (s : State) (c : Nat) (t : RapTy) (v : Word) : Except (Nat × Word) (List Byte) × State :=
  if t ≠ .xa then (.ok (leBytes 4 v.toNat), s)
  else
    let a := v.toNat % 2 ^ 52
    let cl := s.cell c
    if a % 64 ≠ 0 || a < cl.ctx.core.xoTop || a + 80 > cl.fpCap then (.error (0x13, BitVec.ofNat 64 a), s)
    else
      let s1 := (s.touchScratch c a).touchScratch c (a + 64)
      if s1.poisoned ((spBase c + a) / 64) || s1.poisoned ((spBase c + a) / 64 + 1) then (.error (0x14, BitVec.ofNat 64 a), s1)
      else
        let (b, s2) := s1.mixRead c 0 (spBase c + a) (s1.read (spBase c + a) 80)
        (.ok (overlay (s1.pendingWrites c) (spBase c + a) b), s2)

/-- RAP (R212, R109, R132): faults in the order of R218, then the packet with its operand's value. DESIGN CHOICE: bits [63:52] of its
address, and of an .xa operand's, are dropped, as a scalar access drops them (R60; log entry 84). -/
def execRap (t : RapTy) (op : RapOp) (ordered : Bool) (sc : Scope) (rd ra rb : XReg) (s : State) : Out :=
  .next (s.whenFree s.actCell [rd, ra, rb] (fun s =>
    let c := s.actCell
    let b := s.readX c ra
    let va := b.toNat % 2 ^ 52
    let av := BitVec.ofNat 64 va
    if t = .f32 && op = .add && !ordered && (s.ctx c).det ≥ 1 then s.scalarFault c 0x18 0
    else if va % RapTy.align t ≠ 0 || va + RapTy.bytes t > 2 ^ 52 then s.scalarFault c 0x13 av
    else match s.resolve c .both false va with
      | .miss g => s.startWalk c g false
      | .fault _ cause => s.walkFault c va cause
      | .ok l => match l.element c with
        | none => s.scalarFault c 0x13 av
        | some (node, tgt, pa) =>
          if node = 0 && pa + RapTy.bytes t > spBase tgt + (s.cell tgt).fpCap then s.scalarFault c 0x13 av
          else if (t = .xa || !(s.ctx c).retriable) && (s.ctx c).out.sb ≠ [] then s
          else if t = .xa && s.rapAhead c (spBase c + (s.readX c rb).toNat % 2 ^ 52) 80 then s
          else match s.rapOperand c t (s.readX c rb) with
            | (.error (cause, a), s) => s.scalarFault c cause a
            | (.ok bytes, s) =>
              let cls := if scopeRank sc < scopeRank (scopeOf c tgt node) then scopeOf c tgt node else sc
              let q := if ordered then some ((s.readX c rd).truncate 16) else none
              let p : Packet := ⟨c, (s.ctx c).launch.map (·.key), node, tgt, cls, .rap t op q pa va bytes, s.now⟩
              let s1 := (s.emit c (s.nextOrd c) p).bumpOrd c
              if s1.isFrozen c then s1 else s1.advance c 4))

/-- ra[18:2] × 4 (R213, R215). -/
def handlerOf (w : Word) : Nat := fieldNat w 2 17 * 4

/-- BIND on an entry (R213). -/
def Entry.bind (e : Entry) (handler : Nat) (reload : Int) (prio : BitVec 2) : Entry × Nat :=
  let e1 := { e with reload := clampInt 1 (2 ^ 31 - 1) reload, prio := prio }
  if e.barrier then (e1, 0) else Entry.settle { e1 with handler := handler, bound := true }

/-- ARM on an entry (R213). -/
def Entry.arm (e : Entry) (count : Int) (barrier : Bool) : Entry × Nat :=
  let e1 := { e with count := count, barrier := barrier, pending := false, pend := 0 }
  if barrier then e1.complete else e1.settle

/-- ENAB on an entry (R213). -/
def Entry.enab (e : Entry) (on : Bool) : Entry × Nat :=
  let e1 := { e with enable := on }
  if on && !e.barrier then e1.settle else (e1, 0)

def execBind (e : BitVec 9) (prio : BitVec 2) (ra rb : XReg) (s : State) : Out :=
  .next (s.whenFree s.actCell [ra, rb] (fun s =>
    let c := s.actCell
    (s.ownEvent c e.toNat (fun en => en.bind (handlerOf (s.readX c ra)) (s.readX c rb).toInt prio)).advance c 4))

def execArm (e : BitVec 9) (barrier : Bool) (ra : XReg) (s : State) : Out :=
  .next (s.whenFree s.actCell [ra] (fun s =>
    let c := s.actCell
    (s.ownEvent c e.toNat (fun en => en.arm (sextNat 32 (s.readX c ra).toNat) barrier)).advance c 4))

def execEnab (e : BitVec 9) (on : Bool) (s : State) : Out :=
  .next ((s.ownEvent s.actCell e.toNat (fun en => en.enab on)).advance s.actCell 4)

/-- A local arrival by the running activation, or its decrement of a counter entry (R214). -/
def Entry.arrv (e : Entry) (b : Nat) : Entry × Nat := if e.barrier then e.arrive 1 b else e.deliver 1 []

/-- ARRV (R214). -/
def execArrv (e : BitVec 8) (rd ra rb : XReg) (s : State) : Out :=
  .next (s.whenFree s.actCell [rd, ra, rb] (fun s =>
    let c := s.actCell
    let b := fieldNat (s.readX c rb) 0 48
    if ra = 0 then
      let en := (s.ctx c).entry e.toNat
      let ph : Word := if en.barrier && en.phase then 1 else 0
      ((s.ownEvent c e.toNat (fun x => x.arrv b)).writeX c rd ph).advance c 4
    else s.sendOp c (s.readX c ra) (.arrive e.toNat b) (fun s => (s.writeX c rd 0).advance c 4)))

/-- The last step of WAITB (R215). -/
def State.waitbLast (s : State) (c e : Nat) (phase : Bool) (handler : Nat) (args : Vector Word 4) : State :=
  let en := (s.ctx c).entry e
  if en.phase ≠ phase then s.queueFiring c ⟨handler, en.prio.toNat, args, e, true, false, en.wide, s.now, none⟩ 1
  else s.updCtx c (fun x =>
    { x with bell := Tab.set x.bell e { en with handler := handler, args := args, parked := true } })

/-- The address of an entry in the bellboard window (R191). -/
def bellAddr (e : Nat) : Nat := 0x80000 + 64 * e

/-- WAITB (R215, R199). -/
def execWaitb (e : BitVec 8) (ra rb : XReg) (s : State) : Out :=
  .next (s.whenFree s.actCell [ra, rb, 1, 2, 3, 4] (fun s =>
    let c := s.actCell
    let en := (s.ctx c).entry e.toNat
    if !en.barrier || en.parked then s.scalarFault c 0x13 (BitVec.ofNat 64 (bellAddr e.toNat))
    else
      let args : Vector Word 4 := #v[s.readX c 1, s.readX c 2, s.readX c 3, s.readX c 4]
      let phase := bitAt (s.readX c ra) 0
      let handler := handlerOf (s.readX c rb)
      s.endWith c false (fun st => st.waitbLast c e.toNat phase handler args)))

/-- END (R216, R199, R122). -/
def execEnd (retire : Bool) (s : State) : Out := .next (s.endWith s.actCell retire id)

end Sys2Proof.Machine
end

