-- ==== Sys2Proof/Machine/Bank.lean ====
section
/-! DEFINITION. What a scratchpad bank does with an element of a remote arithmetic packet or of a collective copy (R212, R275), and
the bank packet it sends (R134). -/

namespace Sys2Proof.Machine

/-- Elements of a row combined one by one: the bytes after, and the numbers of the elements whose sum would have left. -/
def combineRow (t : RapTy) (op : RapOp) (old v : List Byte) : Nat → List Byte × List Nat
  | 0 => ([], [])
  | n + 1 =>
    let z := RapTy.bytes t
    let r := combineRow t op old v n
    let e := rapCombine t op ((old.drop (n * z)).take z) ((v.drop (n * z)).take z)
    (r.1 ++ e.1, if e.2 then r.2 ++ [n] else r.2)

/-- The bank packet of R134 for a cell, from a source. -/
def State.bankPacket (s : State) (t cause off src : Nat) : State :=
  let p : FaultPkt := { cell := t, cause := cause, eng := 4, nonretry := false, proof := false, second := false, idAct := 0,
                        idLaunch := (s.ctx t).idLaunch, pc := 0, addr := BitVec.ofNat 64 off, index := BitVec.ofNat 64 src }
  s.updCell t (fun cl => { cl with bankPk := cl.bankPk ++ [p] })

/-- The element that a packet changes, where the issuer's own engine operations may race with it (R108): its bytes after, whether an XA sum
would have left the range, and the state. -/
def State.rapElement (s : State) (src pa : Nat) (ty : RapTy) (op : RapOp) (v : List Byte) : Bool × State :=
  let (old, s1) := s.mixRead src 0 pa (s.read pa (RapTy.bytes ty))
  let r := rapCombine ty op old v
  let (b, s2) := s1.mixUpdate src 0 pa r.1
  (r.2, { s2 with mem := memWrite s2.mem pa b })

/-- Applies a packet at its bank (R212): the element is read there and changes, its poison bits do not (R89). -/
def State.rapWrite (s : State) (t off : Nat) (ty : RapTy) (op : RapOp) (src : Nat) (v : List Byte) : State :=
  let s0 := (s.touchScratch t off).touchScratch t (off + RapTy.bytes ty - 1)
  let (left, s1) := s0.rapElement src (spBase t + off) ty op v
  if left then s1.bankPacket t 0x0a off src else s1

def bankOfOff (off : Nat) : Nat := off / 32768

/-- Bytes of a scratchpad that a window access of a source may reach when it arrives (R71, R189, R136). -/
def Cell.windowOk (cl : Cell) (off n src : Nat) : Bool := (cl.ctx.core.xoTop ≤ off || isHall src) && off + n ≤ cl.fpCap

/-- Applies held packets of a bank while their sequence is the expected one (R111). One that the port refuses by now (R71, R189) goes with
the fault at its issuer, or stays while the issuer is frozen. -/
def State.drainRaps (s : State) (t bank : Nat) : Nat → State
  | 0 => s
  | n + 1 =>
    let x := s.ctx t
    let want := Tab.get 0 x.rapExp bank
    match x.rapWait.findIdx? (fun w => match w.pkt.body with
      | .rap _ _ (some q) pa _ _ => q = want && bankOfOff (pa - spBase w.pkt.dst) = bank
      | _ => false) with
    | none => s
    | some j => match x.rapWait[j]? with
      | some w => match w.pkt.body with
        | .rap ty op _ pa va v =>
          let off := pa - spBase w.pkt.dst
          let out := s.updCtx t (fun x => { x with rapWait := x.rapWait.eraseIdx j })
          if (s.cell t).windowOk off (RapTy.bytes ty) w.pkt.src then
            ((out.updCtx t (fun x => { x with rapExp := Tab.set x.rapExp bank (want + 1) })).rapWrite t off ty op w.pkt.src v).drainRaps t bank n
          else if s.lateWaits w.pkt then s
          else out.lateFault w.pkt va
        | _ => s
      | none => s

end Sys2Proof.Machine
end

