-- ==== Sys2Proof/Machine/VectorOp.lean ====
section
/-! DEFINITION. What a vector operation does when the engine starts it (R230 to R256), its faults in order (R257), and its start
and completion (R224 to R226). -/

namespace Sys2Proof.Machine

/-- What an operation comes to: the x registers it will write at completion (R226). -/
abbrev XWrites := List (Nat × Word)

def State.vec (s : State) (c : Nat) : VecEng := (s.ctx c).vec

/-- An operation that only changes the engine's registers. -/
def State.vecDone (s : State) (c : Nat) (f : VecEng → VecEng) : Got XWrites := .ok (s.updVec c f) []

/-- Slot i of an operation's x values (R266). -/
def EngOp.slot (o : EngOp) (i : Nat) : Word := o.xs.getD i 0
/-- An address operand. DESIGN CHOICE (log entry 84): where an instruction's entry does not say that bits [63:52] are ignored, they are. -/
def EngOp.addr (o : EngOp) (i : Nat) : Nat := (o.slot i).toNat % 2 ^ 52

/-- A destination register whose active lanes are g, with the tag of its sources (R220, R222). -/
def VecEng.fill (e : VecEng) (t : LaneTy) (vd : VReg) (m : Option KReg) (src : Bool) (g : Nat → Nat) : VecEng :=
  e.write vd (ofLanes t.width t.lanes (fun l => if e.active m l then g l else laneOf t.width (e.reg vd) l)) src m.isSome

def VecEng.map1 (e : VecEng) (t : LaneTy) (vd va : VReg) (m : Option KReg) (f : Nat → Nat) : VecEng :=
  e.fill t vd m (e.vtag va) (fun l => f (laneOf t.width (e.reg va) l))

def VecEng.map2 (e : VecEng) (t : LaneTy) (vd va vb : VReg) (m : Option KReg) (f : Nat → Nat → Nat) : VecEng :=
  e.fill t vd m (e.vtag va || e.vtag vb) (fun l => f (laneOf t.width (e.reg va) l) (laneOf t.width (e.reg vb) l))

/-! ## Lane arithmetic (R234 to R240) -/

def laneAdd (t : LaneTy) (r : Rnd) (a b : Nat) : Nat := match LaneTy.float? t with
  | some f => f.addB r a b
  | none => (a + b) % 2 ^ t.width
def laneSub (t : LaneTy) (r : Rnd) (a b : Nat) : Nat := match LaneTy.float? t with
  | some f => f.subB r a b
  | none => wrapInt t.width ((a : Int) - b)
def laneMul (t : LaneTy) (r : Rnd) (a b : Nat) : Nat := match LaneTy.float? t with
  | some f => f.mulB r a b
  | none => a * b % 2 ^ t.width

/-- The lesser or the greater (R234). -/
def lanePick (t : LaneTy) (wantMax : Bool) (a b : Nat) : Nat := match LaneTy.float? t with
  | some f => f.pickB wantMax a b
  | none => if wantMax then (if laneInt t a < laneInt t b then b else a) else (if laneInt t b < laneInt t a then b else a)

/-- An integer in the type's range, saturated. -/
def laneSat (t : LaneTy) (i : Int) : Nat :=
  let w := t.width
  wrapInt w (if t.isSigned then clampInt (-(2 ^ (w - 1))) (2 ^ (w - 1) - 1) i else clampInt 0 (2 ^ w - 1) i)

def laneAbs (t : LaneTy) (a : Nat) : Nat := match LaneTy.float? t with
  | some f => a % 2 ^ (f.width - 1)
  | none => laneSat t (laneInt t a).natAbs
def laneNeg (t : LaneTy) (a : Nat) : Nat := match LaneTy.float? t with
  | some f => Nat.xor a (2 ^ (f.width - 1))
  | none => laneSat t (-(laneInt t a))

/-- VCVT of one lane (R238, R42, R45). -/
def laneConvert (td ts : LaneTy) (r : Rnd) (a : Nat) : Nat :=
  if td = ts then a
  else match LaneTy.float? td, LaneTy.float? ts with
    | some .f32, some .bf16 => widenB a
    | some d, _ => d.ofFl r (laneFl ts a)
    | none, some f =>
      let w := td.width
      let lo : Int := if td.isSigned then -(2 ^ (w - 1)) else 0
      let hi : Int := if td.isSigned then 2 ^ (w - 1) - 1 else 2 ^ w - 1
      wrapInt w (Fl.toInt r lo hi (f.decode a))
    | none, none => laneSat td (laneInt ts a)

/-- VCVT (R238). -/
def VecEng.convert (e : VecEng) (td ts : LaneTy) (vd va : VReg) (part : Nat) (m : Option KReg) (r : Rnd) : VecEng :=
  let nd := td.lanes
  let ns := ts.lanes
  let cv := fun l => laneConvert td ts r (laneOf ts.width (e.reg va) l)
  if nd ≤ ns then e.fill td vd m (e.vtag va) (fun l => cv (if nd = ns then l else part * nd + l))
  else
    let old := e.reg vd
    e.write vd (ofLanes td.width nd (fun l =>
      if part * ns ≤ l && l < part * ns + ns && e.active m l then cv (l - part * ns) else laneOf td.width old l))
      (e.vtag va) true

/-! ## Reductions, scan, draws (R241 to R247) -/

/-- Values of the active lanes, in lane order. -/
def VecEng.values (e : VecEng) (t : LaneTy) (va : VReg) (m : Option KReg) : List Fl :=
  (e.activeLanes m t.lanes).map (fun l => laneFl t (laneOf t.width (e.reg va) l))

/-- An addition of one instruction into a pair: the carry-guard fault with cg set, or the sum (R52, R53). -/
def State.addPair (s : State) (c : Nat) (vd : VReg) (base : XA) (k : Contrib) (tag : Bool) : Got XWrites :=
  let e := s.vec c
  if base.leaves k then
    .fault (s.updVec c (fun e => e.setPair vd { e.pair vd with cg := true })) 0x0a 0 0
  else .ok (s.updVec c (fun _ => e.writePair vd (base.accum k) tag)) []

/-- The better of a value and the best so far, with its lane (R245). -/
def redStep (t : LaneTy) (isMin : Bool) (best : Option (Nat × Nat)) (l x : Nat) : Option (Nat × Nat) :=
  match best with
  | none => some (x, l)
  | some (b, i) =>
    let o := Fl.cmp true (laneFl t x) (laneFl t b)
    if (if isMin then o < 0 else o > 0) then some (x, l) else some (b, i)

/-- Value of VREDM over no lane (R245). -/
def redEmpty (t : RedTy) (isMin : Bool) : Nat :=
  match t with
  | .f32 => FloatTy.f32.signBit (!isMin) + FloatTy.f32.infBits
  | .bf16 => FloatTy.bf16.signBit (!isMin) + FloatTy.bf16.infBits
  | .s32 => if isMin then 2 ^ 31 - 1 else 2 ^ 31
  | .n32 => if isMin then 2 ^ 32 - 1 else 0

/-- VREDM's register (R245). -/
def VecEng.extreme (e : VecEng) (t : RedTy) (va : VReg) (isMin : Bool) (m : Option KReg) : Nat :=
  let ty := RedTy.lane t
  let ls := (e.activeLanes m ty.lanes).map (fun l => (l, laneOf ty.width (e.reg va) l))
  let (x, i) := match ls.find? (fun p => (laneFl ty p.2).isNan) with
    | some p => ((match LaneTy.float? ty with
        | some f => f.nanBits
        | none => 0), p.1)
    | none => match ls.foldl (fun b p => redStep ty isMin b p.1 p.2) none with
      | some (x, l) => (x, l)
      | none => (redEmpty t isMin, 2 ^ 32 - 1)
  x + i * 2 ^ 32

/-- One level of the tree of VREDF (R246). -/
def treeLevel (r : Rnd) : List Nat → List Nat
  | a :: b :: t => FloatTy.f32.addB r a b :: treeLevel r t
  | l => l

/-- VREDF's sum (R246). -/
def VecEng.treeSum (e : VecEng) (va : VReg) (m : Option KReg) (r : Rnd) : Nat :=
  let ls := (List.range 16).map (fun l => if e.active m l then laneOf 32 (e.reg va) l else 2 ^ 31)
  (treeLevel r (treeLevel r (treeLevel r (treeLevel r ls)))).headD 0

/-- The running scan of VXSCAN (R244): the base so far, the exact running sum in units of 2^-266, the lane found. -/
def scanStep (thr : XA) (st : XA × Int × Option Nat) (l : Nat) (v : Fl) : XA × Int × Option Nat :=
  let k := Contrib.zero.add v
  let b := { st.1 with nan := st.1.nan || k.fn, pinf := st.1.pinf || k.fp, ninf := st.1.ninf || k.fm }
  let run := st.2.1 + k.sum
  let plain := !b.nan && !b.pinf && !b.ninf && !thr.nan && !thr.pinf && !thr.ninf
  (b, run, if st.2.2 = none && plain && run > thr.x.toInt then some l else st.2.2)

def State.scan (s : State) (c : Nat) (t : FloatTy) (xd : XReg) (va vb vc : VReg) (m : Option KReg) : Got XWrites :=
  let e := s.vec c
  let b := e.pair vb
  let thr := e.pair vc
  let ls := (e.activeLanes m t.lane.lanes).map (fun l => (l, t.decode (laneOf t.width (e.reg va) l)))
  let k := Contrib.zero.addAll (ls.map (·.2))
  let tag := e.vtag va || e.pairTag vb
  if b.leaves k then .fault (s.updVec c (fun e => e.setPair vb { b with cg := true })) 0x0a 0 0
  else
    let r := ls.foldl (fun st p => scanStep thr st p.1 p.2) (b, b.x.toInt, none)
    .ok (s.updVec c (fun e => e.writePair vb (b.accum k) tag))
      [(xd.toNat, match r.2.2 with
        | some l => BitVec.ofNat 64 l
        | none => BitVec.allOnes 64)]

/-! ## Loads and stores (R230 to R233) -/

/-- Runs of a contiguous, strided or indexed access: lane, exact address, bytes. -/
def VecEng.runs (e : VecEng) (t : LaneTy) (base : Nat) (step : Int) (m : Option KReg) : List (Nat × Int × Nat) :=
  (e.activeLanes m t.lanes).map (fun (l : Nat) => (l, (base : Int) + l * step, t.width / 8))

def VecEng.gatherRuns (e : VecEng) (base : Nat) (vb : VReg) (m : Option KReg) : List (Nat × Int × Nat) :=
  (e.activeLanes m 16).map (fun l => (l, (base : Int) + 4 * sextNat 32 (laneOf 32 (e.reg vb) l), 4))

/-- Runs that pass the first check as pieces. -/
def toPieces (runs : List (Nat × Int × Nat)) : List Piece := runs.map (fun r => ⟨r.1, r.2.1.toNat, r.2.2⟩)

/-- A vector load into lanes (R230, R231). -/
def State.vecLoad (s : State) (c : Nat) (t : LaneTy) (vd : VReg) (runs : List (Nat × Int × Nat)) (m : Option KReg) :
    Got XWrites :=
  match firstBad (t.width / 8) runs with
  | some (l, a) => .fault s 0x13 a l
  | none => (s.loadPieces c 1 (toPieces runs)).bind (fun s rs =>
      s.vecDone c (fun e => e.fill t vd m (rs.any (·.poison)) (fun l => leNat (rowBytes rs l))))

/-- A vector store of lanes, in lane order (R230, R231, R233). -/
def State.vecStore (s : State) (c : Nat) (t : LaneTy) (vs : VReg) (runs : List (Nat × Int × Nat)) : Got XWrites :=
  match firstBad (t.width / 8) runs with
  | some (l, a) => .fault s 0x13 a l
  | none => (s.locate c 1 .store (toPieces runs)).bind (fun s ls =>
      let e := s.vec c
      .ok (s.writeRow c 1 (t.width / 8) (ls.map (fun p => (p.2.place, leBytes p.1.n (laneOf t.width (e.reg vs) p.1.idx)))) (e.vtag vs)) [])

/-- A gather's lookup of one lane or row (R86). -/
inductive LaneState where
  | done (l : Loc)
  | notDone (gran : Nat)
  | bad (cause : Nat)
  deriving DecidableEq, Repr

def State.laneState (s : State) (c : Nat) (va : Nat) : LaneState := match s.resolve c .load true va with
  | .ok l => .done l
  | .miss g => .notDone g
  | .fault _ cause => .bad cause

/-- Pins end with a gather that includes their pages (R87). -/
def State.unpin (s : State) (c : Nat) (vas : List Nat) : State :=
  let asid := (s.ctx c).asid
  s.updCell c (fun cl => { cl with
    utlb := cl.utlb.map (fun e => if e.pin.isSome && vas.any (e.hits asid) then { e with pin := none } else e)
    pins := cl.pins.filter (fun p => !(p.asid = asid && vas.any (fun va => va / 65536 = p.gran))) })

/-- Whether the page of an address is pinned in the cell (R87). -/
def Cell.pinned (cl : Cell) (va : Nat) : Bool :=
  cl.utlb.any (fun e => e.pin.isSome && e.hits cl.ctx.asid va) || cl.pins.any (fun p => p.asid = cl.ctx.asid && p.gran = va / 65536)

/-- VGTH (R232, R86). The pins that it finds end when it completes (R87). -/
def State.gather (s : State) (c : Nat) (vd vb : VReg) (kn : KReg) (base : Nat) (strict : Bool) (m : Option KReg) :
    Got XWrites :=
  let e := s.vec c
  let runs := e.gatherRuns base vb m
  let good := runs.filter (fun r => runOk 4 r.2.1 4)
  let looked := (toPieces good).map (fun p => (p, s.laneState c p.va))
  let hits := looked.filterMap (fun p => match p.2 with
    | .done l => some (p.1, l)
    | _ => none)
  -- answers of other devices first: a lane whose request fails ends in fault (R69)
  let st := hits.foldl (fun (r : List (Piece × Loc) × List Nat × Bool × State) p => match p.2.place with
    | .remote pa => match r.2.2.2.stairGo c 1 pa with
      | (none, s1) => (r.1, r.2.1, false, s1)
      | (some true, s1) => (r.1 ++ [p], r.2.1, r.2.2.1, s1)
      | (some false, s1) => (r.1, r.2.1 ++ [p.1.idx], r.2.2.1, s1)
    | _ => (r.1 ++ [p], r.2)) ([], [], true, s)
  let (ok, failed, ready, s1) := st
  if !ready then .wait s1
  else
    match s1.readPieces c 1 ok with
    | (s3, _, some p) => .fault s3 0x14 (BitVec.ofNat 64 p.va) p.idx
    | (s3, rs, none) =>
      let notDone := looked.filterMap (fun p => match p.2 with
        | .notDone g => some (p.1.idx, g)
        | _ => none)
      let causeOf := fun (l : Nat) => match looked.find? (fun p => p.1.idx = l) with
        | some (_, .bad cause) => cause
        | _ => 0x13
      let faulty := (runs.filter (fun r => !runOk 4 r.2.1 4 || failed.contains r.1 || looked.any (fun p =>
        p.1.idx = r.1 && (match p.2 with
          | .bad _ => true
          | _ => false))))
      let s4 := notDone.foldl (fun st p => st.startWalk c p.2 true) s3
      let pinned := (good.map (fun r => r.2.1.toNat)).filter (s.cell c).pinned
      let s5 := s4.updVec c (fun e => { e with gath := pinned })
      let s6 := s5.updVec c (fun e =>
        let v := ofLanes 32 16 (fun l =>
          if rs.any (·.idx = l) then leNat (rowBytes rs l) else laneOf 32 (e.reg vd) l)
        let e1 := e.write vd v (e.vtag vb || rs.any (·.poison)) (m.isSome || rs.length < 16)
        (e1.setMask kn (maskOf (notDone.map (·.1)))).setMask (kn + 1) (maskOf (faulty.map (·.1))))
      match faulty with
      | f :: _ => if strict then .fault s6 (causeOf f.1) (BitVec.ofInt 64 f.2.1) f.1 else .ok s6 []
      | [] => .ok s6 []

/-! ## Quantisation (R252 to R255) -/

/-- The check of a histogram table (R252): its address, or the fault. -/
def State.tableAt (s : State) (c : Nat) (a : Nat) : Bool :=
  a % 4 = 0 && (s.core c).xoTop ≤ a && a + 1024 ≤ (s.cell c).fpCap

/-- The counters of a table; one that races with another engine reads as it was or as it is (R108). -/
def State.tableRead (s : State) (c a : Nat) : List Nat × State :=
  let (b, s1) := s.mixRead c 1 (spBase c + a) (s.read (spBase c + a) 1024)
  ((List.range 256).map (fun i => leNat ((b.drop (4 * i)).take 4)), s1)

/-- A counter goes up by n, to its highest value at most (R252), in one step (R108). -/
def State.countUp (s : State) (c off n : Nat) : State :=
  let pa := spBase c + off
  let s0 := s.touchScratch c off
  let (old, s1) := s0.mixRead c 1 pa (s0.read pa 4)
  let (b, s2) := s1.mixUpdate c 1 pa (leBytes 4 (min (leNat old + n) (2 ^ 32 - 1)))
  (s2.shade c 1 4 [(.own off, b)]).ownWrite c off b false

def State.histogram (s : State) (c : Nat) (t : FloatTy) (a : Nat) (va : VReg) (m : Option KReg) : Got XWrites :=
  if !s.tableAt c a then .fault s 0x13 (BitVec.ofNat 64 a) 0
  else
    let e := s.vec c
    let bins := (e.activeLanes m t.lane.lanes).map (fun l => biasedExp t (laneOf t.width (e.reg va) l))
    .ok (bins.eraseDups.foldl (fun st b => st.countUp c (a + 4 * b) (bins.count b)) s) []

def State.scaleOf (s : State) (c : Nat) (xd : XReg) (a p : Nat) : Got XWrites :=
  if !s.tableAt c a then .fault s 0x13 (BitVec.ofNat 64 a) 0
  else
    let (h, s1) := (s.touchBanks c a 1024).tableRead c a
    .ok s1 [(xd.toNat, BitVec.ofNat 64 (clipExp h (min p 65536)))]

/-- QPACK (R254). -/
def State.pack (s : State) (c : Nat) (p : PbTy) (t : FloatTy) (a : Nat) (va : VReg) (clip : Nat) : Got XWrites :=
  let e := s.vec c
  let els := (List.range t.lane.lanes).map (fun l => laneOf t.width (e.reg va) l)
  let blocks := (List.range (t.lane.lanes / 16)).map (fun i =>
    leBytes p.bytes (p.pack t (min clip 254) ((els.drop (16 * i)).take 16)))
  let bytes := blocks.flatten
  if !runOk 2 a bytes.length then .fault s 0x13 (BitVec.ofNat 64 a) 0
  else (s.locate c 1 .store (piecesOf 0 a bytes.length)).bind (fun s ls =>
    .ok (s.writeRow c 1 2 (cutBytes ls bytes) (e.vtag va)) [])

/-- QUNPK (R255). -/
def State.unpack (s : State) (c : Nat) (t : FloatTy) (p : PbTy) (vd : VReg) (a : Nat) : Got XWrites :=
  let n := t.lane.lanes
  let len := n / 16 * p.bytes
  if !runOk 2 a len then .fault s 0x13 (BitVec.ofNat 64 a) 0
  else (s.loadPieces c 1 (piecesOf 0 a len)).bind (fun s rs =>
    let bytes := rowBytes rs 0
    let blk := fun i => leNat ((bytes.drop (p.bytes * i)).take p.bytes)
    let nanBlock := (List.range (n / 16)).any (fun i => pbIsNan (blk i))
    s.vecDone c (fun e => e.write vd
      (ofLanes t.width n (fun l => t.ofFl .rne (p.elem (blk (l / 16)) (l % 16)))) (rs.any (·.poison) || nanBlock) false))

/-! ## Moves and masks (R248 to R251, R256) -/

/-- The least set bit of a mask. -/
def firstBit (v : Word) : Word := v &&& (0 - v)

def kopVal (e : VecEng) : KopOp → Option (KReg × Word)
  | .and kd ka kb => some (kd, e.mask ka &&& e.mask kb)
  | .or kd ka kb => some (kd, e.mask ka ||| e.mask kb)
  | .xor kd ka kb => some (kd, e.mask ka ^^^ e.mask kb)
  | .andn kd ka kb => some (kd, e.mask ka &&& ~~~(e.mask kb))
  | .not kd ka => some (kd, ~~~(e.mask ka))
  | .first kd ka => some (kd, firstBit (e.mask ka))
  | .set kd => some (kd, BitVec.allOnes 64)
  | .pop _ _ => none

def State.kop (s : State) (c : Nat) (op : KopOp) : Got XWrites :=
  match op with
  | .pop xd ka => .ok s [(xd.toNat, BitVec.ofNat 64 (popCount 64 ((s.vec c).mask ka).toNat))]
  | op => s.vecDone c (fun e => match kopVal e op with
    | some (kd, v) => e.setMask kd v
    | none => e)

def State.vmx (s : State) (c : Nat) (op : VmxOp) (x : Word) : Got XWrites :=
  let e := s.vec c
  match op with
  | .get t lane xd va =>
    let v := laneOf t.width (e.reg va) lane.toNat
    .ok s [(xd.toNat, if t.isSigned then BitVec.ofInt 64 (sextNat t.width v) else BitVec.ofNat 64 v)]
  | .put t lane vd _ => s.vecDone c (fun e => { e with v := e.v.set vd.toNat (setLane t.width (e.reg vd) lane.toNat x.toNat) })
  | .kget xd ka => .ok s [(xd.toNat, e.mask ka)]
  | .kput kd _ => s.vecDone c (fun e => e.setMask kd x)

def State.vptag (s : State) (c : Nat) (op : VptagOp) : Got XWrites :=
  match op with
  | .get xd va => .ok s [(xd.toNat, if (s.vec c).vtag va then 1 else 0)]
  | .set vd => s.vecDone c (fun e => e.setTag vd.toNat true)
  | .clr vd => s.vecDone c (fun e => e.setTag vd.toNat false)
  | .or vd va => s.vecDone c (fun e => e.setTag vd.toNat (e.vtag vd || e.vtag va))

/-- Reads of the determinism levels at the engine (R132, R257). -/
def State.atD3 (s : State) (c : Nat) (go : Got XWrites) : Got XWrites :=
  if (s.ctx c).det ≥ 3 then .fault s 0x18 0 0 else go

/-- A vector operation (R230 to R256). DESIGN CHOICE: the old tag that a masked VREDX ORs in is its destination pair's, the OR of both registers'
(R222; log entry 98). -/
def State.vecPerform (s : State) (c : Nat) (o : EngOp) : Got XWrites :=
  let e := s.vec c
  match o.ins with
  | .vld _ t vd _ m => s.vecLoad c t vd (e.runs t (o.addr 1) (t.width / 8 : Nat) m) m
  | .vlds _ t vd _ _ m => s.vecLoad c t vd (e.runs t (o.addr 1) (o.slot 2).toInt m) m
  | .vst _ t vs _ m => s.vecStore c t vs (e.runs t (o.addr 1) (t.width / 8 : Nat) m)
  | .vsts _ t vs _ _ m => s.vecStore c t vs (e.runs t (o.addr 1) (o.slot 2).toInt m)
  | .vgth _ _ vd _ vb kn strict m => s.gather c vd vb kn (o.addr 1) strict m
  | .vsct _ t vs _ vb m => s.vecStore c (GathTy.lane t) vs (e.gatherRuns (o.addr 1) vb m)
  | .vadd _ t vd va vb m r => s.vecDone c (fun e => e.map2 t vd va vb m (laneAdd t r))
  | .vsub _ t vd va vb m r => s.vecDone c (fun e => e.map2 t vd va vb m (laneSub t r))
  | .vmul _ t vd va vb m r => s.vecDone c (fun e => e.map2 t vd va vb m (laneMul t r))
  | .vmin _ t vd va vb m => s.vecDone c (fun e => e.map2 t vd va vb m (lanePick t false))
  | .vmax _ t vd va vb m => s.vecDone c (fun e => e.map2 t vd va vb m (lanePick t true))
  | .vabs _ t vd va m => s.vecDone c (fun e => e.map1 (SgnTy.lane t) vd va m (laneAbs (SgnTy.lane t)))
  | .vneg _ t vd va m => s.vecDone c (fun e => e.map1 (SgnTy.lane t) vd va m (laneNeg (SgnTy.lane t)))
  | .vfma _ t vd va vb vc m r => s.vecDone c (fun e => e.fill t.lane vd m (e.vtag va || e.vtag vb || e.vtag vc)
      (fun l => t.fmaB r (laneOf t.width (e.reg va) l) (laneOf t.width (e.reg vb) l) (laneOf t.width (e.reg vc) l)))
  | .vcmp _ t kd va vb cd m => s.vecDone c (fun e => e.setMask kd (maskOf ((e.activeLanes m t.lanes).filter (fun l =>
      condHolds cd (laneCmp t (laneOf t.width (e.reg va) l) (laneOf t.width (e.reg vb) l))))))
  | .vsel _ t vd va vb sel => s.vecDone c (fun e => e.write vd
      (ofLanes t.width t.lanes (fun l => laneOf t.width (if bitAt (e.mask sel) l then e.reg va else e.reg vb) l))
      (e.vtag va || e.vtag vb) false)
  | .vcvt _ td ts vd va part m r => s.vecDone c (fun e => e.convert td ts vd va part.toNat m r)
  | .vexp2 _ t vd va m r => s.vecDone c (fun e => e.map1 t.lane vd va m (fun x => t.exp2 r (t.decode x)))
  | .vlog2 _ t vd va m r => s.vecDone c (fun e => e.map1 t.lane vd va m (fun x => t.log2 r (t.decode x)))
  | .vrcp _ t vd va m r => s.vecDone c (fun e => e.map1 t.lane vd va m (fun x => t.rcp r (t.decode x)))
  | .vsqrt _ t vd va m r => s.vecDone c (fun e => e.map1 t.lane vd va m (fun x => t.sqrt r (t.decode x)))
  | .vrcpa _ t vd va m => s.atD3 c (s.vecDone c (fun e => e.map1 t.lane vd va m t.rcpa))
  | .vrsqa _ t vd va m => s.atD3 c (s.vecDone c (fun e => e.map1 t.lane vd va m t.rsqa))
  | .vredx _ t vd va acc m =>
    let base := if acc then e.pair vd else XA.zero
    let tag := e.vtag va || ((acc || m.isSome) && e.pairTag vd)
    s.addPair c vd base (Contrib.zero.addAll (e.values (RedTy.lane t) va m)) tag
  | .vredm _ t vd va isMin m => s.vecDone c (fun e =>
      e.write vd (BitVec.ofNat 512 (e.extreme t va isMin m)) (e.vtag va) m.isSome)
  | .vredf _ vd va m r => s.atD3 c (s.vecDone c (fun e =>
      let x := e.treeSum va m r
      e.write vd (BitVec.ofNat 512 x) (e.vtag va || (FloatTy.f32.decode x).isNan) m.isSome))
  | .vxadd _ vd va => s.addPair c vd (e.pair vd) (Contrib.zero.addXA (e.pair va)) (e.pairTag vd || e.pairTag va)
  | .vxrnd _ t vd va lane r =>
    let (x, nan, _) := (e.pair va).drain t r
    s.vecDone c (fun e => e.write vd (setLane (DrainTy.lane t).width (e.reg vd) lane.toNat x) (e.pairTag va || nan) true)
  | .vxscan _ t xd va vb vc m => s.scan c t xd va vb vc m
  | .vrng _ vd _ _ _ m => s.vecDone c (fun e => e.fill .n32 vd m false (fun l =>
      (draw (o.slot 1) (o.slot 2) (o.slot 3 + BitVec.ofNat 64 l)).toNat))
  | .vshf _ t vd va vb m => s.vecDone c (fun e => e.map2 t vd va vb m (fun _ i =>
      if i < t.lanes then laneOf t.width (e.reg va) i else 0))
  | .vbc _ t vd _ m => s.vecDone c (fun e => e.fill t vd m false (fun _ => (o.slot 1).toNat % 2 ^ t.width))
  | .viota _ t vd _ m => s.vecDone c (fun e => e.fill (IntTy.lane t) vd m false (fun l => (o.slot 1).toNat + l))
  | .vmx _ op => s.vmx c op (o.slot 1)
  | .kop _ op => s.kop c op
  | .qhist _ t _ va m => s.histogram c t (o.addr 0) va m
  | .qscale _ xd _ _ => s.scaleOf c xd (o.addr 1) (o.slot 2).toNat
  | .qpack _ p t _ va _ => s.pack c p t (o.addr 0) va (o.slot 2).toNat
  | .qunpk _ t p vd _ => s.unpack c t p vd (o.addr 1)
  | .vptag _ op => s.vptag c op
  | _ => .ok s []

/-! ## Start and completion -/

/-- Whether an engine's head operation may start: its wait is met, earlier scalar stores and packets have performed, or are held
(R166, R106), and the cell has not frozen (R133). -/
def State.mayStart (s : State) (c : Nat) (o : EngOp) : Bool :=
  !o.started && (s.ctx c).waitsMet o && s.drained c && (s.cell c).moving.isNone && !s.isFrozen c

/-- Marks the head as started with the x registers it will write. -/
def markHead (w : XWrites) : List EngOp → List EngOp
  | [] => []
  | o :: t => { o with started := true, writes := w } :: t

/-- Applies the x writes of a completed operation (R226). -/
def State.applyWrites (s : State) (c : Nat) (w : XWrites) : State :=
  w.foldl (fun st p => st.writeX c (BitVec.ofNat 5 p.1) p.2) s

/-- The keys of an engine instruction. -/
def keysOf : Instr → EngKeys
  | .vld k .. | .vst k .. | .vlds k .. | .vsts k .. | .vgth k .. | .vsct k .. | .vadd k .. | .vsub k .. | .vmul k ..
  | .vmin k .. | .vmax k .. | .vabs k .. | .vneg k .. | .vfma k .. | .vcmp k .. | .vsel k .. | .vcvt k .. | .vexp2 k ..
  | .vlog2 k .. | .vrcp k .. | .vsqrt k .. | .vrcpa k .. | .vrsqa k .. | .vredx k .. | .vredm k .. | .vredf k ..
  | .vxadd k .. | .vxrnd k .. | .vxscan k .. | .vrng k .. | .vshf k .. | .vbc k .. | .viota k .. | .vmx k .. | .kop k ..
  | .qhist k .. | .qscale k .. | .qpack k .. | .qunpk k .. | .vptag k .. | .mlda k .. | .mldb k .. | .mgth k ..
  | .mmac k .. | .mzero k .. | .madv k .. | .mspl k .. | .mfil k .. | .mdrn k .. | .mepi k .. | .mrtg k .. | .mstat k ..
  | .cpy k .. | .cpyg k .. | .cpyr k .. | .cpym k .. | .cpyc k .. | .claim k .. | .cbdef k .. | .cbadv k .. => k
  | .cpyx wait _ => ⟨wait, none⟩
  | _ => ⟨0, none⟩

/-- The token an engine instruction names. -/
def tokOf (i : Instr) : Option TReg := (keysOf i).tok

/-- The vector engine starts its head operation (R224, R133). -/
def State.vecStart (s : State) (c : Nat) : State :=
  match (s.vec c).queue with
  | [] => s
  | o :: _ =>
    if (s.vec c).fault.isSome || !s.mayStart c o then s
    else match s.vecPerform c o with
      | .ok s1 w => (s1.stairDone c 1).updVec c (fun e => { e with queue := markHead w e.queue, was := (s.vec c).v })
      | .wait s1 => s1
      | .fault s1 cause addr idx => s1.engineFault c 1 cause addr (BitVec.ofNat 64 idx)

/-- Its completion (R225, R226). -/
def State.vecComplete (s : State) (c : Nat) : State :=
  match (s.vec c).queue with
  | [] => s
  | o :: _ =>
    if !o.started then s
    else
      let s1 := match o.ins with
        | .vgth .. => s.unpin c (s.vec c).gath
        | _ => s
      ((s1.updVec c (fun e => { e with queue := e.queue.drop 1 })).applyWrites c o.writes).completeTok c (tokOf o.ins)
        o.gen false false

def execVectorOpStart (c : Nat) (s : State) : Out := .next (s.vecStart c)
def execVectorOpComplete (c : Nat) (s : State) : Out := .next (s.vecComplete c)

end Sys2Proof.Machine
end

