-- ==== Sys2Proof/Machine/CopyOp.lean ====
section
/-! DEFINITION. What a copy operation does when it starts, while it is in flight and when it completes (R262 to R284). Rows move
in ascending order; how many have moved at the start, Config says (log entry 13). -/

namespace Sys2Proof.Machine

/-! ## Records of operations in flight -/

def Flight.new (o : EngOp) : Flight :=
  { op := o, stopped := false, faulted := false, claimed := false, resume := 0, moved := 0, notDone := 0, bad := 0, xd := 0,
    hits := 0, looked := false, queue := none, dropped := false, strict := none, reach := .cell, served := [], pinned := [] }

def State.updFlight (s : State) (c k : Nat) (f : Flight → Flight) : State :=
  s.updCop c (fun e => { e with flight := modNth e.flight k f })

/-- The number under which a copy asks other devices (R69). -/
def EngOp.copyEng (o : EngOp) : Nat := 3 + 4 * o.ord
def State.copyEng (s : State) (c k : Nat) : Nat := (((s.cop c).flight[k]?).map (·.op.copyEng)).getD 3

/-- A fault of an operation in flight (R265): it and every later one stop; the earliest faulting operation is reported. -/
def State.copyFault (s : State) (c k cause : Nat) (addr idx : Word) : State :=
  let fs := (s.cop c).flight
  let first := !((fs.take k).any (·.faulted))
  let p := s.packet c 3 cause addr idx
  let s1 := (s.updCell c (fun cl => { cl with walked := [] })).stairDone c (s.copyEng c k)
  s1.updCop c (fun e => { e with
    fault := if first then some p else e.fault
    flight := (modNth e.flight k (fun f => { f with faulted := true })).mapIdx (fun i f =>
      if k ≤ i then { f with stopped := true } else f) })

/-! ## The completion word (R267) -/

/-- The destination part of a completion word, in the layout of R198. -/
def wordDest (w : Word) : Word := w &&& ~~~(0x3ffc000000000000 : Word)
def wordAct (w : Word) : Nat := fieldNat w 60 2
def wordByBytes (w : Word) : Bool := bitAt w 59
def wordEntry (w : Word) : Nat := fieldNat w 50 9

/-- Whether a completion word may stand on an operation of so many bytes; `many` for CPYM (R273). -/
def State.wordOk (s : State) (c : Nat) (w : Word) (bytes : Nat) (many : Bool) : Bool :=
  if wordAct w = 0 then w = 0
  else
    wordAct w ≠ 3 && !(wordByBytes w && bytes ≥ 2 ^ 31) &&
    !(wordAct w = 2 && (wordByBytes w || wordEntry w ≥ 256)) &&
    (if many then wordDest w = BitVec.ofNat 64 (2 ^ 62) else (s.destOf c (wordDest w)).isSome)

/-- What a completion delivers to an entry. -/
def wordBody (w : Word) (bytes : Nat) : PBody :=
  if wordAct w = 2 then .land (wordEntry w) bytes else .msg (wordEntry w) (if wordByBytes w then bytes else 1) []

/-- Delivers the completion of an operation (R267, R103): nothing for a word of 0 or a byte count of 0. -/
def State.deliverWord (s : State) (c : Nat) (f : Flight) (bytes : Nat) : State :=
  let w := f.op.slot 3
  if w = 0 || bytes = 0 then s
  else match s.destOf c (wordDest w) with
    | none => s
    | some (node, cells) => s.sendAt c f.op.ord f.reach node (s.recipients c node cells) (wordBody w bytes)

/-- Delivers a CPYM's completion to each cell that has received its bytes (R273). -/
def State.deliverServed (s : State) (c : Nat) (f : Flight) (bytes : Nat) : State :=
  let w := f.op.slot 3
  if w = 0 then s else s.sendAt c f.op.ord f.reach 0 f.served (wordBody w bytes)

/-! ## Shapes -/

/-- Shape of CPY (R271): row bytes, rows, strides of source and destination. -/
def cpyShape (xn xn1 : Word) : Option (Nat × Nat × Int × Int) :=
  let rb := fieldNat xn 0 32
  let rows := fieldNat xn 32 16
  if rb = 0 || rb > 2 ^ 24 || rows = 0 || fieldNat xn 48 16 ≠ 0 then none
  else some (rb, rows, sextNat 32 (fieldNat xn1 0 32), sextNat 32 (fieldNat xn1 32 32))

/-- Shape of CPYR and CPYM (R272): bytes and scratchpad offset. -/
def cpyrShape (xn : Word) : Option (Nat × Nat) :=
  let n := fieldNat xn 32 20
  if n = 0 || n > 524288 || fieldNat xn 19 13 ≠ 0 || fieldNat xn 52 12 ≠ 0 then none else some (n, fieldNat xn 0 19)

/-- Rectangle of CPYM (R273): first and last column, first and last row. -/
def cpymRect (xr : Word) : Option (Nat × Nat × Nat × Nat) :=
  let c0 := fieldNat xr 0 6
  let c1 := fieldNat xr 8 6
  let r0 := fieldNat xr 16 5
  let r1 := fieldNat xr 24 5
  if fieldNat xr 6 2 ≠ 0 || fieldNat xr 14 2 ≠ 0 || fieldNat xr 21 3 ≠ 0 || fieldNat xr 29 35 ≠ 0 || c0 > c1 || r0 > r1 then
    none
  else some (c0, c1, r0, r1)

/-- Shape of CPYC (R275): elements, elements of a row. -/
def cpycShape (xn : Word) : Option (Nat × Nat) :=
  let e := fieldNat xn 0 32
  let w := fieldNat xn 32 16
  if e = 0 || e > 2 ^ 24 || w = 0 || fieldNat xn 48 16 ≠ 0 then none else some (e, w)

/-- Parameters of CPYG (R274): row bytes and row count. -/
def cpygShape (p : Word) : Option (Nat × Nat) :=
  let rb := fieldNat p 0 32
  let n := fieldNat p 32 8
  if rb = 0 || rb > 65536 || n = 0 || n > 64 || fieldNat p 40 24 ≠ 0 then none else some (rb, n)

/-- Cells that a CPYM serves (R273): started logical cells of the rectangle, both cells of a pair. -/
def State.cpymCells (s : State) (c : Nat) (xr : Word) : List Nat :=
  match cpymRect xr, ((s.ctx c).launch.map (·.key)).bind s.launchOf with
  | some (c0, c1, r0, r1), some la =>
    ((List.range (r1 - r0 + 1)).map (fun j =>
      ((List.range (c1 - c0 + 1)).map (fun i => la.cellsAt (c0 + i) (r0 + j))).flatten)).flatten
  | _, _ => []

/-- Cells that a CPYR writes: those of its destination value, with the proof partner (R272, R198). -/
def State.cpyrCells (s : State) (c : Nat) (xt : Word) : Option (Nat × List Nat) :=
  match s.destOf c xt with
  | some (0, [t]) => some (0, s.pairOf c t)
  | r => r

/-! ## Rows of an operation -/

/-- Rows an operation moves; a CPYG counts as one. -/
def State.rowsOf (s : State) (c : Nat) (f : Flight) : Nat :=
  let o := f.op
  match o.ins with
  | .cpy .. => match cpyShape (o.slot 2) (o.slot 4) with
    | some (_, rows, _, _) => rows
    | none => 0
  | .cpyr .. | .cpyg .. => 1
  | .cpym .. => (s.cpymCells c (o.slot 0)).length
  | .cpyc .. => match cpycShape (o.slot 2) with
    | some (e, w) => ceilDiv e w
    | none => 0
  | .claim .. => f.xd.toNat / 2 ^ 56
  | _ => 0

/-- Source and destination address of a row of CPY and CLAIM, and its bytes. -/
def Flight.row (f : Flight) (r : Nat) : Int × Int × Nat :=
  let o := f.op
  match o.ins with
  | .cpy .. => match cpyShape (o.slot 2) (o.slot 4) with
    | some (rb, _, ss, ds) => ((o.addr 1 : Nat) + r * ss, (o.addr 0 : Nat) + r * ds, rb)
    | none => (0, 0, 0)
  | .claim .. => match f.queue with
    | some (ring, isz, lents) =>
      ((ring : Nat) + ((f.xd.toNat % 2 ^ 56 + r) % 2 ^ lents) * isz, (o.addr 2 : Nat) + r * isz, isz)
    | none => (0, 0, 0)
  | _ => (0, 0, 0)

/-- Rows a CPYG requests, with their source addresses (R274). DESIGN CHOICE: a poisoned line of the index list raises nothing and leaves no tag;
its bytes are the indices (log entry 100). -/
def State.cpygRows (s : State) (c : Nat) (o : EngOp) (rb n : Nat) : List (Nat × Int) :=
  ((List.range n).filter (bitAt (o.slot 5))).map (fun j =>
    (j, (o.addr 1 : Nat) + (s.readNat (spBase c + (o.slot 2).toNat + 4 * j) 4 : Nat) * (rb : Nat)))

/-- A work queue's descriptor as read at its home (R276): head, tail, ring, item bytes, log2 of the item count; none where it
breaks the table. -/
def queueDesc (b : List Byte) : Option (Word × Word × Nat × Nat × Nat) :=
  let f := fun (o n : Nat) => leNat ((b.drop o).take n)
  let isz := f 24 4
  let lents := f 28 4
  if f 16 8 % 64 ≠ 0 || isz % 64 ≠ 0 || isz = 0 || isz > 65536 || lents > 20 || (b.drop 40).any (· ≠ 0) then none
  else some (BitVec.ofNat 64 (f 0 8), BitVec.ofNat 64 (f 8 8), f 16 8, isz, lents)

/-- The ring, item bytes and log2 of the item count of the queue that a CLAIM not yet made names, where they can be seen. -/
def State.peekQueue (s : State) (c q : Nat) : Option (Nat × Nat × Nat) :=
  match s.resolve c .load false q with
  | .ok l => (queueDesc (overlay (s.pendingWrites c) (l.place.pa c) (s.read (l.place.pa c) 64))).map (fun d => d.2.2)
  | _ => none

/-- Address runs that a CLAIM not yet made may touch: its descriptor, its ring and its buffer; all of memory where the descriptor cannot be
seen. -/
def State.claimRuns (s : State) (c : Nat) (o : EngOp) (n : Nat) : List (Nat × Nat) :=
  match s.peekQueue c (o.addr 1) with
  | some (ring, isz, lents) => [(o.addr 1, 64), (ring, 2 ^ lents * isz), (o.addr 2, n * isz)]
  | none => [(0, 0x80000)]

/-- Address runs of a row, for the order of R263. -/
def State.rowRuns (s : State) (c : Nat) (f : Flight) (r : Nat) : List (Nat × Nat) :=
  let o := f.op
  match o.ins with
  | .cpy .. => let (a, b, n) := f.row r; [(a.toNat, n), (b.toNat, n)]
  | .claim _ _ _ _ _ m _ =>
    if f.claimed then (let (a, b, n) := f.row r; [(a.toNat, n), (b.toNat, n)]) else s.claimRuns c o (m.toNat + 1)
  | .cpyr .. | .cpym .. => match cpyrShape (o.slot 2) with
    | some (n, off) => [(o.addr 1, n), (off, n)]
    | none => []
  | .cpyc _ t .. => match cpycShape (o.slot 2) with
    | some (_, w) => let z := w * RapTy.bytes t; [(o.addr 1 + r * z, z), (o.addr 0 + r * z, z)]
    | none => []
  | .cpyg .. => match cpygShape (o.slot 4) with
    | some (rb, n) => ((o.slot 2).toNat, 4 * n) :: (s.cpygRows c o rb n).flatMap (fun p =>
        [(p.2.toNat, rb), (o.addr 0 + p.1 * rb, rb)])
    | none => []
  | _ => []

/-- The own scratchpad bytes that a run of addresses reaches, directly or through a page (R263, R71); a page of no known translation
stands for all of them. -/
def State.localRuns (s : State) (c : Nat) : Nat → Nat × Nat → List (Nat × Nat)
  | 0, _ => []
  | fuel + 1, (a, n) =>
    if n = 0 then []
    else
      let k := min n (65536 - a % 65536)
      let here := if a < 0x80000 then [(a, k)] else if a < 0x100000 then [] else match s.lookup c (s.ctx c).asid a with
        | none => [(0, 0x80000)]
        | some e => match s.viaEntry c a .load { e with flags := e.flags ||| 2 } with
          | .ok ⟨.own off, _⟩ => [(off, k)]
          | _ => []
      here ++ s.localRuns c fuel (a + k, n - k)

def State.rowLocal (s : State) (c : Nat) (f : Flight) (r : Nat) : List (Nat × Nat) :=
  (s.rowRuns c f r).flatMap (fun x => s.localRuns c (x.2 / 65536 + 2) x)

def runsMeet (a b : Nat × Nat) : Bool := a.1 < b.1 + b.2 && b.1 < a.1 + a.2

/-- A row waits for earlier operations' rows that touch the same local bytes (R263). -/
def State.rowBlocked (s : State) (c k r : Nat) (f : Flight) : Bool :=
  ((s.cop c).flight.take k).any (fun g =>
    let n := max 1 (s.rowsOf c g) - g.resume
    (List.range n).any (fun i => (s.rowLocal c g (g.resume + i)).any (fun a => (s.rowLocal c f r).any (runsMeet a))))

/-! ## Checks of the destination (R271) -/

/-- An untranslated part of a run that may not be written: below xo.top, at or above fp.cap, or in the reserved region. -/
def Cell.localBad (cl : Cell) (a n : Nat) : Bool :=
  (a < 0x80000 && (a < cl.ctx.core.xoTop || min (a + n) 0x80000 > cl.fpCap)) || (a < 0x100000 && a + n > 0x88000)

/-- A run meets the local bellboard window. -/
def meetsBell (a n : Nat) : Bool := a < 0x88000 && a + n > 0x80000

/-- The first destination run that fails, as row and address. -/
def Cell.firstDestBad (cl : Cell) (runs : List (Nat × Int × Nat)) : Option (Nat × Word) :=
  (runs.find? (fun r => !runOk 1 r.2.1 r.2.2 || cl.localBad r.2.1.toNat r.2.2)).map
    (fun r => (r.1, BitVec.ofInt 64 r.2.1))

/-- A copy whose destination meets the window is dropped (R66): its rows count as moved, cause 0x1a goes to the Hall core in a bank
packet with the offset of its first byte there (log entry 25). -/
def State.dropCopy (s : State) (c k rows : Nat) (a : Int) : State :=
  (s.bankPacket c 0x1a (a.toNat - 0x80000) c).updFlight c k (fun f => { f with dropped := true, resume := rows })

/-- Checks of a destination of rows, then `go`; a destination in the bellboard window drops the copy where `drop`, else
faults. -/
def State.destRuns (s : State) (c k : Nat) (drop : Bool) (runs : List (Nat × Int × Nat)) (go : Got Unit) : Got Unit :=
  match (s.cell c).firstDestBad runs with
  | some (r, a) => .fault s 0x13 a r
  | none => match runs.find? (fun r => meetsBell r.2.1.toNat r.2.2) with
    | some r => if drop then .ok (s.dropCopy c k runs.length r.2.1) () else .fault s 0x13 (BitVec.ofInt 64 r.2.1) r.1
    | none => go

/-- The completion word check, then `go`. -/
def State.checkWord (s : State) (c : Nat) (w : Word) (bytes : Nat) (many : Bool) (go : Got Unit) : Got Unit :=
  if s.wordOk c w bytes many then go else .fault s 0x13 w 0

/-! ## The claim (R277) -/

/-- Items a claim takes. -/
def claimCount (n : Nat) (key : Bool) (head tail : Word) : Nat :=
  let avail := (tail - head).toNat
  if !key then min n avail
  else
    let g := n - head.toNat % n
    if avail ≥ g then g else 0

/-- Records a made claim in the flight: items, first index, ring. -/
def State.claimed (s : State) (c k : Nat) (xd : Word) (ring isz lents : Nat) : State :=
  s.updFlight c k (fun f => { f with claimed := true, xd := xd, queue := some (ring, isz, lents) })

/-- Makes the claim at the home of the descriptor as one step. The buffer is checked for all the items that the claim may take, before
it is made; a poisoned descriptor is the last of its faults (R277, R284). A claim that a record says is made is not made again (R266).
DEDUCED: under proof mode, where R144 would kill an activation that becomes non-retriable and R277 has the pair claim once, the activation
stays retriable (log entry 21). -/
def State.makeClaim (s : State) (c k : Nat) (place : Place) (n : Nat) (key : Bool) (q xb : Nat) : Got Unit :=
  let s0 := s.touch c place
  let pa := place.pa c
  match queueDesc (overlay (s0.pendingWrites c) pa (s0.read pa 64)) with
  | none => .fault s0 0x13 (BitVec.ofNat 64 q) 0
  | some (head, tail, ring, isz, lents) =>
    let runs : List (Nat × Int × Nat) := (List.range n).map (fun (r : Nat) => (r, ((xb + r * isz : Nat) : Int), isz))
    s0.destRuns c k false runs
      ((s0.locate c (s.copyEng c k) .store ((runs.map (fun r => piecesOf r.1 r.2.1.toNat r.2.2)).flatten)).bind (fun s1 _ =>
        if s1.poisoned (pa / 64) then .fault s1 0x14 (BitVec.ofNat 64 q) 0
        else if ((s1.cop c).flight[k]?).any (·.claimed) then .ok (s1.updFlight c k (fun f => { f with queue := some (ring, isz, lents) })) ()
        else match s1.pairClaim c with
          | none => .wait s1
          | some old =>
            let cnt := match old with
              | some w => w.toNat / 2 ^ 56
              | none => claimCount n key head tail
            let xd := match old with
              | some w => w
              | none => BitVec.ofNat 64 (if cnt = 0 then 0 else cnt * 2 ^ 56 + head.toNat % 2 ^ 56)
            let proof := (s1.ctx c).proof
            let s2 := if proof then s1 else s1.goNonretriable c
            if !proof && (s2.storesOut c || s2.rapsOut c) then .wait s2
            else
            let s3 := if old.isSome || cnt = 0 then s2
              else (s2.cutPending c ((s2.ctx c).ordOf (s2.copyEng c k)) pa 8).storePa c false pa (leBytes 8 (head.toNat + cnt)) false
            let ida := (s3.core c).idAct.toNat
            let s4 := s3.updOut c (fun o =>
              { o with claims := if proof && old.isNone then Tab.upd [] o.claims ida (· ++ [xd]) else o.claims
                       claimed := if proof then o.claimed + 1 else o.claimed })
            .ok ((s4.dropForeign c).claimed c k xd ring isz lents) ()))

/-- Checks of xb that need no descriptor: its first line (R277, R284). -/
def State.claimDest (s : State) (c k xb : Nat) (go : Got Unit) : Got Unit := s.destRuns c k false [(0, (xb : Int), 64)] go

/-! ## The start of an operation -/

/-- A copy to a cell is dropped: the cell has retired from the issuer's launch, or holds none (R272). -/
def State.dropsCopy (s : State) (c t : Nat) : Bool :=
  (s.ctx t).launch.isNone || s.retiredFrom ((s.ctx c).launch.map (·.key)) t

/-- The first of some cells whose scratchpad may not take n bytes at an offset (R71, R272); one that drops the copy has no such limit. -/
def State.badTarget (s : State) (c off n : Nat) (cells : List Nat) : Option Nat :=
  cells.findIdx? (fun t =>
    let t' := s.forward ((s.ctx c).launch.map (·.key)) t
    let cl := s.cell t'
    !s.dropsCopy c t' && (off + n > cl.fpCap || off < cl.ctx.core.xoTop))

/-- The checks of the offset of CPYR and CPYM (R272, R284). -/
def State.offsetCheck (s : State) (c off n : Nat) (cells : List Nat) : Got Unit :=
  if off + n > 524288 then .fault s 0x13 (BitVec.ofNat 64 off) 0
  else match s.badTarget c off n cells with
    | some i => .fault s 0x13 (BitVec.ofNat 64 off) i
    | none => .ok s ()

def Loc.scratchCell (l : Loc) (c : Nat) : Option (Nat × Nat) := (l.element c).map (fun e => (e.1, e.2.1))

/-- The pieces of a CPYC's source, row by row, then those of its destination, each with its access (R275). -/
def cpycPieces (o : EngOp) (t : RapTy) (e w : Nat) : List (Piece × Acc) :=
  let z := RapTy.bytes t
  ((List.range (ceilDiv e w)).flatMap (fun r => piecesOf r (o.addr 1 + r * w * z) (min w (e - r * w) * z))).map (fun p => (p, Acc.load)) ++
    (piecesOf 0 (o.addr 0) (e * z)).map (fun p => (p, Acc.both))

/-- Checks at the start (R284); for CLAIM, CBDEF, CBADV and CPYX all that they do. DESIGN CHOICE (log entry 100): CPYG takes xi whole, so that a
set bit above its local address faults, and its destination is checked over all n rows, requested or not (R274). -/
def State.copyCheck (s : State) (c k : Nat) (o : EngOp) : Got Unit :=
  match o.ins with
  | .cpy .. => match cpyShape (o.slot 2) (o.slot 4) with
    | none => .fault s 0x13 0 0
    | some (rb, rows, _, ds) => s.checkWord c (o.slot 3) (rows * rb) false
        (s.destRuns c k true ((List.range rows).map (fun (r : Nat) => (r, (o.addr 0 : Nat) + r * ds, rb))) (.ok s ()))
  | .cpyr .. => match cpyrShape (o.slot 2), s.cpyrCells c (o.slot 0) with
    | some _, none => .fault s 0x13 (o.slot 0) 0
    | some (n, off), some (node, cells) => s.checkWord c (o.slot 3) n false (s.offsetCheck c off n (if node = 0 then cells else []))
    | none, _ => .fault s 0x13 0 0
  | .cpym .. => match cpyrShape (o.slot 2), cpymRect (o.slot 0) with
    | some (n, off), some _ => s.checkWord c (o.slot 3) n true (s.offsetCheck c off n (s.cpymCells c (o.slot 0)))
    | _, _ => .fault s 0x13 0 0
  | .cpyg .. => match cpygShape (o.slot 4) with
    | none => .fault s 0x13 0 0
    | some (rb, n) =>
      let l := (o.slot 2).toNat
      s.checkWord c (o.slot 3) (n * rb) false
        (if l % 4 ≠ 0 || l < (s.core c).xoTop || l + 4 * n > (s.cell c).fpCap then .fault s 0x13 (o.slot 2) 0
        else (s.destRuns c k true ((List.range n).map (fun (r : Nat) => (r, ((o.addr 0 + r * rb : Nat) : Int), rb))) (.ok s ())).bind
          (fun s1 _ => .ok (s1.updFlight c k (fun f => if !f.dropped then f else
            { f with resume := 1, looked := true, notDone := Config.droppedMask (2 * s.tick) &&& BitVec.ofNat 64 (2 ^ n - 1)
                     bad := Config.droppedMask (2 * s.tick + 1) &&& BitVec.ofNat 64 (2 ^ n - 1) })) ()))
  | .cpyc _ t op _ _ _ _ =>
    if t = .f32 && op = .add && (s.ctx c).det ≥ 1 then .fault s 0x18 0 0
    else match cpycShape (o.slot 2) with
      | none => .fault s 0x13 0 0
      | some (e, w) =>
        let z := e * RapTy.bytes t
        let d := o.addr 0
        s.checkWord c (o.slot 3) z false
          (if o.addr 1 % RapTy.align t ≠ 0 || o.addr 1 + z > 2 ^ 52 then .fault s 0x13 (BitVec.ofNat 64 (o.addr 1)) 0
          else if d % RapTy.align t ≠ 0 then .fault s 0x13 (BitVec.ofNat 64 d) 0
          else s.destRuns c k false [(0, (d : Int), z)]
            ((s.locateEach c (s.copyEng c k) (cpycPieces o t e w)).bind (fun s1 ls =>
              match (ls.drop (ls.length - (piecesOf 0 d z).length)).map (fun p => p.2.scratchCell c) |>.eraseDups with
              | [some _] => .ok s1 ()
              | _ => .fault s1 0x13 (BitVec.ofNat 64 d) 0)))
  | .claim _ _ _ _ _ n key =>
    if !key && (s.ctx c).det ≥ 2 then .fault s 0x18 0 0
    else
      let q := o.addr 1
      s.checkWord c (o.slot 3) 0 false
        (if q % 64 ≠ 0 || q < 0x100000 then .fault s 0x13 (BitVec.ofNat 64 q) 0
        else s.claimDest c k (o.addr 2) ((s.locate c (s.copyEng c k) .both (piecesOf 0 q 64)).bind (fun s1 ls => match ls with
          | [(_, l)] => s1.makeClaim c k l.place (n.toNat + 1) key q (o.addr 2)
          | _ => .ok s1 ())))
  | .cbdef _ b .. =>
    let base := fieldNat (o.slot 1) 0 19
    let g := o.slot 2
    let slots := fieldNat g 0 8 + 1
    let unit := (fieldNat g 16 10 + 1) * 64
    let ok := base % 64 = 0 && fieldNat g 8 8 = 0 && fieldNat g 26 6 = 0 && fieldNat g 41 7 = 0 && fieldNat g 49 15 = 0 &&
      (if bitAt g 48 then base + slots * unit ≤ 524288
      else (s.core c).xoTop ≤ base && base + slots * unit ≤ (s.cell c).fpCap)
    if !ok then .fault s 0x13 0 0
    else if (s.destOf c (o.slot 3)).isNone then .fault s 0x13 (o.slot 3) 0
    else
      let h : Handle := ⟨true, bitAt g 48, g.extractLsb' 32 9, 0, g.extractLsb' 0 8, g.extractLsb' 16 10,
        (o.slot 1).truncate 19, o.slot 3⟩
      .ok (s.updCore c (fun x => { x with hnd := x.hnd.set b.toNat h })) ()
  | .cbadv _ _ b n =>
    let h := (s.core c).hnd[b.toNat]
    if !h.valid then .fault s 0x13 0 0
    else
      let i := (h.index.toNat + n.toNat) % (h.nslot.toNat + 1)
      let xd : Word := BitVec.ofNat 64 (h.base.toNat + i * ((h.sunit.toNat + 1) * 64))
      let s1 := (s.updCore c (fun x => { x with hnd := x.hnd.set b.toNat { h with index := BitVec.ofNat 8 i } })).updFlight c k
        (fun f => { f with xd := xd })
      if h.producer || n = 0 then .ok s1 ()
      else match s1.destOf c h.peer with
        | none => .ok s1 ()
        | some (node, cells) =>
          .ok (s1.sendAt c o.ord .cell node (s1.recipients c node cells) (.msg h.pentry.toNat n.toNat [])) ()
  | .cpyx _ toks =>
    let named := fun (f : Flight) => match tokOf f.op.ins with
      | some t => bitAt toks t.toNat
      | none => false
    let gone := ((s.cop c).flight.take k).filter named
    let s1 := s.updCop c (fun e => { e with flight := (e.flight.take k).filter (fun f => !named f) ++ e.flight.drop k })
    .ok (gone.foldl (fun st f => st.completeTok c (tokOf f.op.ins) f.op.gen false true) s1) ()
  | _ => .ok s ()

/-- Marks an operation as past its checks. -/
def Flight.begun (f : Flight) : Flight := { f with op := { f.op with started := true } }

/-- A claim is made once earlier copies have performed the local bytes that it touches (R263). -/
def engineClaims : Instr → Bool
  | .claim .. => true
  | _ => false

/-- Runs the checks of operation k where they have not passed. A CPYX leaves fewer operations before its own. -/
def State.copyBegin (s : State) (c k : Nat) : State :=
  match (s.cop c).flight[k]? with
  | none => s
  | some f =>
    if f.op.started || f.stopped || (engineClaims f.op.ins && s.rowBlocked c k 0 f) then s
    else match s.copyCheck c k f.op with
      | .ok s1 _ => s1.updCop c (fun e =>
          { e with flight := modNth e.flight (k - ((s.cop c).flight.length - e.flight.length)) Flight.begun })
      | .wait s1 => s1
      | .fault s1 cause addr idx => s1.copyFault c k cause addr (BitVec.ofNat 64 idx)

/-! ## Moving rows -/

/-- The scope of a place's home and the cell (R92, R103). -/
def homeScope (c : Nat) : Place → Scope
  | .own _ => .cell
  | .bell _ => .cell
  | .scratch t _ => scopeOf c t 0
  | .mem pa => if hostBase ≤ pa then .system else if foreignTo c pa then .device else .die
  | .remote _ => .pod

/-- The smallest scope of the homes of some places. -/
def reachOf (c : Nat) (ls : List (Piece × Loc)) : Scope := ls.foldl (fun r p => wider r (homeScope c p.2.place)) .cell

/-- A row from one run of addresses to another (R271); the scope that it has reached. -/
def State.copyRun (s : State) (c eng r : Nat) (src dst : Int) (n : Nat) : Got Scope :=
  if !runOk 1 src n then .fault s 0x13 (BitVec.ofInt 64 src) r
  else if !runOk 1 dst n then .fault s 0x13 (BitVec.ofInt 64 dst) r
  else
    let from_ := piecesOf r src.toNat n
    let to_ := piecesOf r dst.toNat n
    (s.locateEach c eng (from_.map (fun p => (p, Acc.load)) ++ to_.map (fun p => (p, Acc.store)))).bind (fun s1 ls =>
      match s1.readPieces c eng (ls.take from_.length) with
      | (s2, _, some p) => .fault s2 0x14 (BitVec.ofNat 64 p.va) r
      | (s2, rs, none) =>
        let to_ := ls.drop from_.length
        .ok (s2.writeRow c eng 8 (cutBytes to_ (rowBytes rs r)) (rs.any (·.poison))) (reachOf c to_))

/-- Whether another device takes a row for some of its cells (R69, R410), asked before the source's poison is looked at (R284). -/
def State.askCells (s : State) (c eng node off : Nat) (cells : List Nat) : Got Unit :=
  match if node = 0 then none else cells.head? with
  | none => .ok s ()
  | some t => match s.stairGo c eng (node * 2 ^ 43 + spBase t + off) with
    | (none, s1) => .wait s1
    | (some true, s1) => .ok s1 ()
    | (some false, s1) => .fault s1 0x13 (BitVec.ofNat 64 off) 0

/-- Writes a row into another cell's scratchpad by number (R272, R71, R149): dropped where the cell has retired or holds no launch.
The answer names the cell that took it. DEDUCED: a row of CPYR or CPYM is one store of its port, so one arrival in the trace ring whatever its
length (R113; log entry 26). -/
def State.putCell (s : State) (c eng node t off : Nat) (bytes : List Byte) (tag : Bool) : Got (Option Nat) :=
  if node ≠ 0 then
    let pa := node * 2 ^ 43 + spBase t + off
    match s.stairGo c eng pa with
    | (none, s1) => .wait s1
    | (some true, s1) => .ok ((s1.supersede c ((s1.ctx c).ordOf eng) pa bytes.length).storePa c false pa bytes tag) (some t)
    | (some false, s1) => .fault s1 0x13 (BitVec.ofNat 64 off) 0
  else
    let key := (s.ctx c).launch.map (·.key)
    let t' := s.forward key t
    let cl := s.cell t'
    if s.dropsCopy c t' then .ok (s.countDrop t') none
    else if off + bytes.length > cl.fpCap || off < cl.ctx.core.xoTop then .fault s 0x13 (BitVec.ofNat 64 off) 0
    else if t' = c then .ok (s.writeRow c eng 8 [(.own off, bytes)] tag) (some c)
    else .ok (s.writeRow c eng 8 [(.scratch t' off, bytes)] tag) (some t')

/-- Writes a row to several cells; some of them may drop it. -/
def State.putCells (s : State) (c eng node off : Nat) (bytes : List Byte) (tag : Bool) : List Nat → Got (List Nat)
  | [] => .ok s []
  | t :: ts => (s.putCell c eng node t off bytes tag).bind (fun s1 d =>
      (s1.putCells c eng node off bytes tag ts).bind (fun s2 ds => .ok s2 (d.toList ++ ds)))

/-- Notes that a row of operation k has moved, and the scope that it has reached. -/
def State.rowDone (s : State) (c k bytes : Nat) (reach : Scope) : State :=
  s.updFlight c k (fun f => { f with resume := f.resume + 1, moved := f.moved + bytes, reach := wider f.reach reach })

/-- A row of CPYR and CPYM: its source, the cells it goes to, and those that took it. -/
def State.cpyrRow (s : State) (c k : Nat) (src n off node : Nat) (cells : List Nat) (idx : Nat) : Got Unit :=
  let eng := s.copyEng c k
  if !runOk 1 src n then .fault s 0x13 (BitVec.ofNat 64 src) idx
  else (s.locate c eng .load (piecesOf idx src n)).bind (fun s0 ls => (s0.askCells c eng node off cells).bind (fun s1 _ =>
    match s1.readPieces c eng ls with
    | (s2, _, some p) => .fault s2 0x14 (BitVec.ofNat 64 p.va) p.idx
    | (s2, rs, none) => (s2.putCells c eng node off (rowBytes rs idx) (rs.any (·.poison)) cells).bind (fun s3 ts =>
      .ok ((s3.rowDone c k n (ts.foldl (fun r t => wider r (scopeOf c t node)) .cell)).updFlight c k (fun f =>
        { f with served := f.served ++ ts, dropped := f.dropped || ts.length < cells.length })) ())))

/-- Reads the elements of located pieces that a read-modify-write is about to change, each racing one as it was or as it is (R108). -/
def State.readElements (s : State) (c eng : Nat) : List (Piece × Loc) → List Byte × State
  | [] => ([], s)
  | (p, l) :: t =>
    let pa := l.place.pa c
    let (b, s1) := s.mixRead c eng pa (overlay (s.pendingStores c) pa (s.read pa p.n))
    let (r, s2) := s1.readElements c eng t
    (b ++ r, s2)

/-- Writes a combined piece, elements of w bytes, at its bank: the line's poison bit keeps its old value or takes the row's tag (R275). -/
def State.combinePiece (s0 : State) (c eng w : Nat) (p : Place) (bytes0 : List Byte) (tag : Bool) : State :=
  let pa := p.pa c
  let t := tag || s0.poisoned (pa / 64)
  let (bytes, s1) := s0.mixUpdate c eng pa bytes0
  let s := s1.shade c eng w [(p, bytes)]
  let cut := s.cutPending c ((s.ctx c).ordOf eng) pa bytes.length
  match p with
  | .own off => s.ownWrite c off bytes t
  | .scratch q off => (cut.storePa c false pa bytes t).logArrival q c true off
  | _ => cut.storePa c false pa bytes t

/-- A row of CPYC (R275). -/
def State.cpycRow (s : State) (c k r : Nat) (t : RapTy) (op : RapOp) (src dst n : Nat) : Got Unit :=
  let z := RapTy.bytes t
  let eng := s.copyEng c k
  (s.loadPieces c eng (piecesOf r src (n * z))).bind (fun s1 rs =>
    (s1.locate c eng .both (piecesOf r dst (n * z))).bind (fun s1 ls =>
      let s2 := ls.foldl (fun st p => st.touch c p.2.place) s1
      let (old, sr) := s2.readElements c eng ls
      let (new, left) := combineRow t op old (rowBytes rs r) n
      let tag := rs.any (·.poison)
      let s3 := (cutBytes ls new).foldl (fun st p => st.combinePiece c eng (min 8 z) p.1 p.2 tag) sr
      let s4 := left.foldl (fun st i =>
        match (ls.find? (fun p => p.1.va ≤ dst + i * z && dst + i * z < p.1.va + p.1.n)) with
        | some (p, l) => match l.place with
          | .own off => st.bankPacket c 0x0a (off + (dst + i * z - p.va)) c
          | .scratch q off => st.bankPacket q 0x0a (off + (dst + i * z - p.va)) c
          | _ => st
        | none => st) s3
      .ok (s4.rowDone c k (n * z) (reachOf c ls)) ()))

/-! ## The row gather (R274, R86) -/

/-- State of a row of pieces: the first fault, else whether all hit, else the granules to walk. -/
def State.rowLook (s : State) (c j : Nat) (va : Int) (n : Nat) : Except (Nat × Word) (List Nat) :=
  if !runOk 1 va n then .error (0x13, BitVec.ofInt 64 va)
  else
    let ps := (piecesOf j va.toNat n).map (fun p => (p, s.laneState c p.va))
    match ps.findSome? (fun p => match p.2 with
      | .bad cause => some (cause, BitVec.ofNat 64 p.1.va)
      | _ => none) with
    | some e => .error e
    | none => .ok (ps.filterMap (fun p => match p.2 with
      | .notDone g => some g
      | _ => none)).eraseDups

/-- Adds a faulting row to a flight. -/
def Flight.addBad (f : Flight) (j cause : Nat) (addr : Word) : Flight :=
  { f with bad := setBitAt f.bad j true, hits := setBitAt f.hits j false
           strict := match f.strict with
             | some (i, x) => if i ≤ j then some (i, x) else some (j, cause, addr)
             | none => some (j, cause, addr) }

/-- The one lookup of every requested row; walks start, and the pins that it finds are noted to end with the gather (R87). -/
def State.cpygLook (s : State) (c k : Nat) (o : EngOp) (rb n : Nat) : State :=
  let s0 := (s.touchBanks c (o.slot 2).toNat (4 * n)).updFlight c k (fun f =>
    { f with notDone := 0, bad := 0, hits := 0, strict := none })
  let rows := s0.cpygRows c o rb n
  let looks := rows.map (fun r => (r.1, s0.rowLook c r.1 r.2 rb))
  let s1 := looks.foldl (fun st r => match r.2 with
    | .error (cause, a) => st.updFlight c k (fun f => f.addBad r.1 cause a)
    | .ok [] => st.updFlight c k (fun f => { f with hits := setBitAt f.hits r.1 true })
    | .ok gs => (gs.foldl (fun st g => st.startWalk c g true) st).updFlight c k (fun f =>
        { f with notDone := setBitAt f.notDone r.1 true })) s0
  let vas := ((rows.filter (fun r => runOk 1 r.2 rb)).map (fun r => (piecesOf r.1 r.2.toNat rb).map (·.va))).flatten
  s1.updFlight c k (fun f => { f with looked := true, moved := 0, pinned := vas.filter (s0.cell c).pinned })

/-- Moves one found row; a poisoned line on a page with pa = 0 makes it a faulting row, which goes to the fault mask and without .strict raises
no fault (R274, R285). -/
def State.cpygMove (s : State) (c k : Nat) (src : List (Piece × Loc)) (dst : List (Piece × Loc)) (j rb : Nat) : State :=
  match s.readPieces c (s.copyEng c k) (src.filter (fun p => p.1.idx = j)) with
  | (s1, _, some p) => s1.updFlight c k (fun f => f.addBad j 0x14 (BitVec.ofNat 64 p.va))
  | (s1, rs, none) =>
    (s1.writeRow c (s1.copyEng c k) 8 (cutBytes (dst.filter (fun p => p.1.idx = j)) (rowBytes rs j)) (rs.any (·.poison))).updFlight c k
      (fun f => { f with moved := f.moved + rb, reach := wider f.reach (reachOf c (dst.filter (fun p => p.1.idx = j))) })

/-- All of a CPYG: destination, lookup, the found rows, the masks. DEDUCED: a destination that cannot be translated raises the access fault, the
only one that R284 gives a CPYG's destination (log entry 91). -/
def State.cpygRun (s : State) (c k : Nat) (o : EngOp) (xi : XReg) (strict : Bool) (rb n : Nat) : Got Unit :=
  let want := (List.range n).filter (bitAt (o.slot 5))
  (s.locate c (s.copyEng c k) .store ((want.map (fun j => piecesOf j (o.addr 0 + j * rb) rb)).flatten)).asAccess.bind (fun s0 dst =>
    let looked := (((s0.cop c).flight[k]?).map (·.looked)).getD false
    let s1 := if looked then s0 else s0.cpygLook c k o rb n
    let hits := (((s1.cop c).flight[k]?).map (·.hits)).getD 0
    let rows := (s1.cpygRows c o rb n).filter (fun r => bitAt hits r.1)
    match s1.locate c (s.copyEng c k) .load ((rows.map (fun r => piecesOf r.1 r.2.toNat rb)).flatten) with
    | .wait s2 => .wait s2
    | .fault s2 cause addr idx => .wait (s2.updFlight c k (fun f => f.addBad idx cause addr))
    | .ok s2 src =>
      let s3 := rows.foldl (fun st r => st.cpygMove c k src dst r.1 rb) s2
      match (s3.cop c).flight[k]? with
      | none => .ok s3 ()
      | some f => match strict, f.strict with
        | true, some (j, cause, addr) =>
          .fault (((s3.writeX c (xi + 2) f.notDone).writeX c (xi + 3) f.bad).updFlight c k (fun f =>
            { f with looked := false })) cause addr j
        | _, _ => .ok (s3.rowDone c k 0 .cell) ())

/-- Moves row r of operation k. -/
def State.moveRow (s : State) (c k r : Nat) (f : Flight) : Got Unit :=
  let o := f.op
  match o.ins with
  | .cpy .. | .claim .. =>
    let (a, b, n) := f.row r
    (s.copyRun c (s.copyEng c k) r a b n).bind (fun s1 reach => .ok (s1.rowDone c k n reach) ())
  | .cpyr .. => match cpyrShape (o.slot 2), s.cpyrCells c (o.slot 0) with
    | some (n, off), some (node, cells) => s.cpyrRow c k (o.addr 1) n off node cells 0
    | _, _ => .ok s ()
  | .cpym .. => match cpyrShape (o.slot 2) with
    | some (n, off) => s.cpyrRow c k (o.addr 1) n off 0 ((s.cpymCells c (o.slot 0))[r]?).toList r
    | none => .ok s ()
  | .cpyc _ t op _ _ _ _ => match cpycShape (o.slot 2) with
    | some (e, w) =>
      let z := w * RapTy.bytes t
      s.cpycRow c k r t op (o.addr 1 + r * z) (o.addr 0 + r * z) (min w (e - r * w))
    | none => .ok s ()
  | .cpyg _ _ _ xi _ strict => match cpygShape (o.slot 4) with
    | some (rb, n) => s.cpygRun c k o xi strict rb n
    | none => .ok s ()
  | _ => .ok s ()

/-- Moves up to n further rows of operation k. -/
def State.moveRows (s : State) (c k : Nat) : Nat → State
  | 0 => s
  | n + 1 => match (s.cop c).flight[k]? with
    | none => s
    | some f =>
      if !f.op.started || f.stopped || f.resume ≥ s.rowsOf c f || s.rowBlocked c k f.resume f then s
      else match s.moveRow c k f.resume f with
        | .ok s1 _ => (s1.stairDone c f.op.copyEng).moveRows c k n
        | .wait s1 => s1
        | .fault s1 cause addr idx => s1.copyFault c k cause addr (BitVec.ofNat 64 idx)

/-! ## Start and completion -/

/-- The copy engine starts its head operation (R262). -/
def State.copyStart (s : State) (c : Nat) : State :=
  match (s.cop c).queue with
  | [] => s
  | o :: _ =>
    if (s.cop c).fault.isSome || !s.mayStart c o || (s.cop c).flight.length ≥ 16 then s
    else
      let s1 := s.updCop c (fun e => { e with queue := e.queue.drop 1, flight := e.flight ++ [Flight.new o] })
      let s2 := s1.copyBegin c (s.cop c).flight.length
      s2.moveRows c ((s2.cop c).flight.length - 1) (Config.copyRows s.tick)

/-- x registers an operation writes when it completes (R270). -/
def Flight.writes (f : Flight) : List (Nat × Word) :=
  match f.op.ins with
  | .cpyg _ _ _ xi _ _ => [((xi + 2).toNat, f.notDone), ((xi + 3).toNat, f.bad)]
  | .claim _ xd _ _ _ _ _ => [(xd.toNat, f.xd)]
  | .cbadv _ xd _ _ => [(xd.toNat, f.xd)]
  | _ => []

/-- The completion of an operation that moved bytes (R267, R273). -/
def State.deliverFlight (s : State) (c : Nat) (f : Flight) : State :=
  match f.op.ins with
  | .cpy .. | .cpyr .. | .cpyc .. | .cpyg .. => if f.dropped then s else s.deliverWord c f f.moved
  | .claim .. => s.deliverWord c f f.moved
  | .cpym .. => match cpyrShape (f.op.slot 2) with
    | some (n, _) => s.deliverServed c f n
    | none => s
  | _ => s

/-- An operation that has moved all its rows completes (R264): token, x registers, then its completion. The pins that a CPYG found end
(R87). -/
def State.copyFinish (s : State) (c k : Nat) (f : Flight) : State :=
  let s1 := ((s.updCop c (fun e => { e with flight := e.flight.eraseIdx k })).stairDone c f.op.copyEng).applyWrites c f.writes
  let s2 := if f.pinned = [] then s1 else s1.unpin c f.pinned
  (s2.completeTok c (tokOf f.op.ins) f.op.gen f.dropped false).deliverFlight c f

/-- Operation k goes on to its end, as far as walks and faults allow. -/
def State.copyComplete (s : State) (c k : Nat) : State :=
  match (s.cop c).flight[k]? with
  | none => s
  | some f0 =>
    if f0.stopped || s.isFrozen c || (s.cell c).moving.isSome then s
    else
      let s1 := s.copyBegin c k
      match (s1.cop c).flight[k]? with
      | none => s1
      | some f1 =>
        let s2 := s1.moveRows c k (s1.rowsOf c f1)
        match (s2.cop c).flight[k]? with
        | none => s2
        | some f => if f.op.started && !f.stopped && f.resume ≥ s2.rowsOf c f then s2.copyFinish c k f else s2

def execCopyOpStart (c : Nat) (s : State) : Out := .next (s.copyStart c)
def execCopyOpComplete (c k : Nat) (s : State) : Out := .next (s.copyComplete c k)

end Sys2Proof.Machine
end

