-- ==== Sys2Proof/Machine/Compositor.lean ====
section
/-! DEFINITION. Text to tokens and back (R388 to R390), the stop matcher (R391, R392), and the Frisket's automata (R393 to R395). -/

namespace Sys2Proof

/-! ## Tables -/

/-- Whether no element occurs twice. -/
def dupFree {α : Type} [DecidableEq α] : List α → Bool
  | [] => true
  | a :: t => !t.contains a && dupFree t

/-- Fields of a split entry: class and alone bit (R388). -/
def CompTables.classOf (t : CompTables) (b : Nat) : Nat := fieldNat (t.split.getD b 0) 0 8
def CompTables.alone (t : CompTables) (b : Nat) : Bool := bitAt (t.split.getD b 0) 8

/-- Offset and length of a token's bytes in the byte pool (R388). -/
def tokOff (w : Word) : Nat := fieldNat w 0 32
def tokLen (w : Word) : Nat := fieldNat w 32 16

/-- The layout of R388 for a vocabulary of V tokens. -/
def CompTables.ok (t : CompTables) (V : Nat) : Bool :=
  t.split.length = 256 && t.split.all (fun e => fieldNat e 9 7 = 0) &&
  t.byteTok.length = 256 && t.byteTok.all (fun k => k.toNat < V) &&
  t.merges.length ≤ 262144 && t.merges.all (fun m => m.1.toNat < V && m.2.1.toNat < V && m.2.2.toNat < V) &&
  dupFree (t.merges.map (fun m => (m.1, m.2.1))) &&
  V ≤ 262144 && t.tokBytes.length = V &&
  t.tokBytes.all (fun w => fieldNat w 48 16 = 0 && tokOff w + tokLen w ≤ t.pool.length)

/-! ## TOKZ and DETOK -/

/-- A boundary falls between two bytes (R389). -/
def CompTables.cut (t : CompTables) (a b : Nat) : Bool := t.classOf a ≠ t.classOf b || t.alone a || t.alone b

/-- The pieces of a byte string. -/
def CompTables.pieces (t : CompTables) : List Nat → List (List Nat)
  | [] => []
  | a :: r => match t.pieces r with
    | [] => [[a]]
    | [] :: ps => [a] :: ps
    | (b :: p) :: ps => if t.cut a b then [a] :: (b :: p) :: ps else (a :: b :: p) :: ps

/-- Rank of a pair. -/
def CompTables.rank (t : CompTables) (a b : Nat) : Option Nat := t.merges.findIdx? (fun m => m.1.toNat = a && m.2.1.toNat = b)

/-- The least rank of adjacent tokens. -/
def CompTables.least (t : CompTables) : List Nat → Option Nat
  | a :: b :: r => match t.rank a b, t.least (b :: r) with
    | some x, some y => some (min x y)
    | some x, none => some x
    | none, y => y
  | _ => none

/-- Merges the leftmost pair of a rank. -/
def CompTables.mergeAt (t : CompTables) (r : Nat) : List Nat → List Nat
  | a :: b :: l => if t.rank a b = some r then (t.merges.getD r (0, 0, 0)).2.2.toNat :: l else a :: t.mergeAt r (b :: l)
  | l => l

/-- The merge loop: each round shortens the piece by one token. -/
def CompTables.merge (t : CompTables) : Nat → List Nat → List Nat
  | 0, p => p
  | n + 1, p => match t.least p with
    | none => p
    | some r => t.merge n (t.mergeAt r p)

/-- TOKZ (R389). -/
def CompTables.tokz (t : CompTables) (bytes : List Nat) : List Nat :=
  ((t.pieces bytes).map (fun p => t.merge p.length (p.map (fun b => (t.byteTok.getD b 0).toNat)))).flatten

/-- The bytes of a token. -/
def CompTables.bytesOf (t : CompTables) (tok : Nat) : List Nat :=
  let w := t.tokBytes.getD tok 0
  ((t.pool.drop (tokOff w)).take (tokLen w)).map BitVec.toNat

/-- DETOK (R390). -/
def CompTables.detok (t : CompTables) (toks : List Nat) : List Nat := (toks.map t.bytesOf).flatten

end Sys2Proof

namespace Sys2Proof.Machine

/-! ## Stop strings -/

/-- The matched count of stop string i in prog.stop (R320). -/
def stopCount (v : Word) (i : Nat) : Nat := fieldNat v (8 * i) 8

def packCounts (l : List Nat) : Word := BitVec.ofNat 64 (leNat (l.map (BitVec.ofNat 8)))

/-- Whether `p` is a suffix of `l`. -/
def isSuffix (p l : List Nat) : Bool := p.length ≤ l.length && l.drop (l.length - p.length) = p

/-- The count of a stop string after a byte (R391). -/
def nextCount (s : List Nat) (c x : Nat) : Nat :=
  ((List.range (s.length + 1)).reverse.find? (fun j => isSuffix (s.take j) (s.take c ++ [x]))).getD 0

/-- Where the matcher stands: counts, bytes it has let go, and the string that has completed. -/
structure Matcher where
  counts : List Nat
  out    : List Nat
  hit    : Option Nat
  deriving DecidableEq, Repr

/-- The bytes held back: the longest matched prefix. -/
def heldBytes (stops : List (List Nat)) (counts : List Nat) : List Nat :=
  ((stops.zip counts).map (fun p => p.1.take p.2)).foldl (fun a b => if b.length > a.length then b else a) []

/-- One byte (R391, R392). -/
def Matcher.byte (stops : List (List Nat)) (incl : Bool) (m : Matcher) (x : Nat) : Matcher :=
  if m.hit.isSome then m
  else
    let stream := heldBytes stops m.counts ++ [x]
    let counts := (stops.zip m.counts).map (fun p => nextCount p.1 p.2 x)
    match (stops.zip counts).findIdx? (fun p => p.2 = p.1.length && p.1 ≠ []) with
    | some i =>
      let n := (stops.getD i []).length
      ⟨counts, m.out ++ stream.take (stream.length - n) ++ (if incl then stops.getD i [] else []), some i⟩
    | none => ⟨counts, m.out ++ stream.take (stream.length - (heldBytes stops counts).length), none⟩

/-- The bytes of one token. -/
def Matcher.feed (stops : List (List Nat)) (incl : Bool) (counts : List Nat) (bytes : List Nat) : Matcher :=
  bytes.foldl (Matcher.byte stops incl) ⟨counts, [], none⟩

/-! ## The Frisket -/

/-- A transition-table entry (R393): next state, action, symbol. -/
def Automaton.entry (a : Automaton) (st tok : Nat) : Nat × Nat × Nat :=
  let e : BitVec 32 := a.trans.getD (st * a.classes + a.cls.getD tok 0) 0
  (fieldNat e 0 12, fieldNat e 12 2, fieldNat e 14 8)

/-- The limits of R393. -/
def Automaton.ok (a : Automaton) : Bool :=
  1 ≤ a.states && a.states ≤ 4096 && 1 ≤ a.classes && a.classes ≤ 256 && a.cls.all (· < a.classes) &&
  a.trans.all (fun e => fieldNat e 22 10 = 0 && fieldNat e 0 12 < a.states)

/-- The Frisket fields of a context (R320): state, depth, stack. -/
structure Fri where
  st    : BitVec 12
  depth : BitVec 4
  stack : Word
  deriving DecidableEq, Repr

/-- Symbol at entry i of a stack. -/
def Fri.sym (f : Fri) (i : Nat) : Nat := fieldNat f.stack (8 * i) 8

/-- Whether a token is allowed (R394). -/
def Automaton.allows (a : Automaton) (V : Nat) (f : Fri) (t : Nat) : Bool :=
  let (_, act, sym) := a.entry f.st.toNat t
  t < min V a.vocab && (act = 0 || act = 1 || (act = 2 && f.depth ≠ 0 && f.sym (f.depth.toNat - 1) = sym))

/-- Stack with entry i replaced. -/
def setSym (v : Word) (i s : Nat) : Word :=
  BitVec.ofNat 64 (v.toNat - fieldNat v (8 * i) 8 * 2 ^ (8 * i) + s % 256 * 2 ^ (8 * i))

/-- A committed token moves the Frisket (R394); none where it would push onto a full stack. -/
def Automaton.move (a : Automaton) (f : Fri) (t : Nat) : Option Fri :=
  let (next, act, sym) := a.entry f.st.toNat t
  let st := BitVec.ofNat 12 next
  let n := f.depth.toNat
  if act = 1 then (if n ≥ 8 then none else some ⟨st, f.depth + 1, setSym f.stack n sym⟩)
  else if act = 2 then some ⟨st, f.depth - (if n = 0 then 0 else 1), if n = 0 then f.stack else setSym f.stack (n - 1) 0⟩
  else some ⟨st, f.depth, f.stack⟩

/-- Along a path to a tree node a push that would overflow is skipped (R395). -/
def Automaton.moveSoft (a : Automaton) (f : Fri) (t : Nat) : Fri :=
  match a.move f t with
  | some g => g
  | none => ⟨BitVec.ofNat 12 (a.entry f.st.toNat t).1, f.depth, f.stack⟩

/-- Tokens below V that are allowed, in order (R395). -/
def Automaton.allowed (a : Automaton) (V : Nat) (f : Fri) : List Nat := (List.range V).filter (a.allows V f)

/-- The mask of `pitch` bytes (R395). -/
def maskBytes (ok : Nat → Bool) (V pitch : Nat) : List Byte :=
  (List.range pitch).map (fun k => BitVec.ofNat 8 ((List.range 8).foldl (fun n i =>
    if 8 * k + i < V && ok (8 * k + i) then n + 2 ^ i else n) 0))

/-- The key of a mask chunk (R396). -/
def Fri.top (f : Fri) : Option Nat := if f.depth = 0 then none else some (f.sym (f.depth.toNat - 1))

end Sys2Proof.Machine
end

