-- ==== Sys2Proof/Machine/SysMem.lean ====
section
/-! DEFINITION. Reads and writes of memory by units that are no cell: the launch unit, the Imposer and its helpers (R79, R80, R88, R89).
They translate under an ASID by the walk of R80. -/

namespace Sys2Proof.Machine

/-- The pieces of a run with their physical addresses; the first failure in address order. -/
def State.sysPieces (s : State) (die asid : Nat) (a : Acc) : List Piece → Except (SysErr × Nat) (List (Piece × Nat))
  | [] => .ok []
  | p :: t => match s.sysPlace die asid p.va a with
    | .error e => .error (e, p.va)
    | .ok pa => match s.sysPieces die asid a t with
      | .error e => .error e
      | .ok l => .ok ((p, pa) :: l)

/-- The reads of a piece's walk, and of the piece itself where it is one, reach their ports and banks (R80, R89). -/
def State.sysTouch (s : State) (die asid : Nat) (read : Bool) (p : Piece × Nat) : State :=
  let s1 := s.walkTouch die asid p.1.va
  if !read then s1
  else match regionOf p.2 with
    | .hbm => s1.touchHbm p.2
    | .scratch c off => s1.touchScratch c off
    | .mmio | .host | .unmapped => s1

/-! ## Requests to other devices (R410) -/

/-- A request is for a piece of a die's ASID. -/
def SysReq.is (r : SysReq) (die asid : Nat) (p : Piece × Nat) : Bool := r.die = die && r.asid = asid && r.va = p.1.va

/-- The answers to the pieces at another device: where some have none, the first address that fails. One without an answer 16,777,216 cycles
after its issue has failed; until then it is out, and its unit waits (State.whole). -/
def State.sysAnswers (s : State) (die asid : Nat) (ps : List (Piece × Nat)) : Option Nat × State :=
  let far := ps.filter (fun p => !s.isHere p.2)
  if far = [] then (none, s)
  else
    let lost := far.filter (fun p => Config.routeLost s.tick p.1.va)
    let since := fun p => ((s.sysReqs.find? (fun r => r.is die asid p)).map (·.since)).getD s.now
    let rest := s.sysReqs.filter (fun r => !far.any (r.is die asid))
    match lost.find? (fun p => since p + 16777216 ≤ s.now) with
    | some p => (some p.1.va, { s with sysReqs := rest })
    | none => (lost.head?.map (·.1.va), { s with sysReqs := rest ++ lost.map (fun p => ⟨die, asid, p.1.va, since p, s.tick⟩) })

/-- A move of a unit that is whole in one step. While a request of it has no answer the unit waits: the move has no effect but that the
requests are out. -/
def State.whole (s : State) (f : State → State) : State :=
  let s1 := f s
  if s1.sysReqs.any (fun r => r.asked = s.tick && !s.sysReqs.contains r) then { s with sysReqs := s1.sysReqs } else s1

/-! ## Reads and writes -/

/-- Reads `n` bytes with some right: the bytes, or the failure with its address; a poisoned line fails. -/
def State.sysReadAs (s : State) (a : Acc) (die asid va n : Nat) : Except (SysErr × Nat) (List Byte) × State :=
  match s.sysPieces die asid a (piecesOf 0 va n) with
  | .error e => (.error e, s.walkTouch die asid e.2)
  | .ok ps => match s.sysAnswers die asid ps with
    | (some va, s0) => (.error (.access, va), s0)
    | (none, s0) =>
      let s1 := ps.foldl (fun st p => st.sysTouch die asid true p) s0
      match ps.find? (fun p => s1.poisoned (p.2 / 64)) with
      | some p => (.error (.poison, p.1.va), s1)
      | none => (.ok (ps.map (fun p => s1.read p.2 p.1.n)).flatten, s1)

def State.sysRead (s : State) (die asid va n : Nat) : Except (SysErr × Nat) (List Byte) × State := s.sysReadAs .load die asid va n

/-- A piece is written at its home; one to a scratchpad arrives at its port as from no cell of this device (R113, R114). -/
def State.sysStore (s : State) (pa : Nat) (bytes : List Byte) : State :=
  let s1 := s.storeHome 0xfff false pa bytes false
  match regionOf pa with
  | .scratch c off => s1.logArrival c 0xfff false off
  | _ => s1

/-- Writes bytes; nothing is written where a piece fails. -/
def State.sysWrite (s : State) (die asid va : Nat) (bytes : List Byte) : Option (SysErr × Nat) × State :=
  match s.sysPieces die asid .store (piecesOf 0 va bytes.length) with
  | .error e => (some e, s.walkTouch die asid e.2)
  | .ok ps => match s.sysAnswers die asid ps with
    | (some va, s0) => (some (.access, va), s0)
    | (none, s0) => (none, (ps.foldl (fun (r : State × List Byte) p => (r.1.sysStore p.2 (r.2.take p.1.n), r.2.drop p.1.n))
        (ps.foldl (fun st p => st.sysTouch die asid false p) s0, bytes)).1)

/-- Little-endian field of a byte list. -/
def fieldLe (b : List Byte) (off n : Nat) : Nat := leNat ((b.drop off).take n)

end Sys2Proof.Machine
end

