-- ==== Sys2Proof/Machine/Imposer.lean ====
section
/-! DEFINITION. What the Imposer's meanings share: programs and their registers (R317), stops and event records (R348), statuses (R322,
R355), accesses to the process's memory (R352), galley pages (R324, R325), contexts (R320, R327, R356 to R358), landing slots (R326),
and the end of a long instruction (R336, R337, R365). -/

namespace Sys2Proof.Machine

/-! ## Programs and contexts by number -/

def State.prog (s : State) (p : Nat) : Prog := Tab.get Prog.empty s.imp.progs p
def State.updProg (s : State) (p : Nat) (f : Prog → Prog) : State :=
  s.updImp (fun i => { i with progs := Tab.upd Prog.empty i.progs p f })
def State.cx (s : State) (id : Nat) : Context := Tab.get Context.blank s.imp.ctxs id
def State.updCx (s : State) (id : Nat) (f : Context → Context) : State :=
  s.updImp (fun i => { i with ctxs := Tab.upd Context.blank i.ctxs id f })

def Prog.readN (g : Prog) (r : NReg) : Word := g.n[r.toNat]
def Prog.writeN (g : Prog) (r : NReg) (v : Word) : Prog := { g with n := g.n.set r.toNat v }
def State.readN (s : State) (p : Nat) (r : NReg) : Word := (s.prog p).readN r
def State.writeN (s : State) (p : Nat) (r : NReg) (v : Word) : State := s.updProg p (·.writeN r v)
def State.writeS (s : State) (p : Nat) (r : SReg) (v : Str) : State := s.updProg p (fun g => { g with s := g.s.set r.toNat v })
def State.writeQ (s : State) (p : Nat) (r : QReg) (v : Score) : State := s.updProg p (fun g => { g with q := g.q.set r.toNat v })
def State.writeC (s : State) (p : Nat) (r : CReg) (v : Option Nat) : State := s.updProg p (fun g => { g with c := g.c.set r.toNat v })
def Prog.str (g : Prog) (r : SReg) : Str := g.s[r.toNat]
def Prog.ctx (g : Prog) (r : CReg) : Option Nat := g.c[r.toNat]
def Prog.score (g : Prog) (r : QReg) : Score := g.q[r.toNat]

/-- An instruction that transfers no control retires (R345). -/
def State.pNext (s : State) (p : Nat) : State := s.updProg p (fun g => { g with pc := g.pc + 8 })

/-- A branch target (R346). -/
def pcOff (pc : Word) (off : BitVec 32) : Word := pc + 8 * off.signExtend 64

/-! ## Stops -/

/-- Program status of a stop's cause (R348, R349). -/
def stopStatus (cause : Nat) : BitVec 8 :=
  if cause ≤ 2 then 0x20 else if cause ≤ 8 then 0x23 else if cause ≤ 0xa then 0x21 else if cause = 0xb then 0x22 else 0

/-- The event record of R348. -/
def eventRecord (p cause code : Nat) (pc addr : Word) : List Byte :=
  leBytes 2 p ++ leBytes 1 (stopStatus cause).toNat ++ leBytes 1 cause ++ leBytes 4 code ++ leBytes 8 pc.toNat ++
    leBytes 8 addr.toNat ++ leBytes 8 0

/-- TAKING A STOP: the program stops with all its state, its status set and an event record written (R348). -/
def State.stopProg (s : State) (p cause code : Nat) (addr : Word) : State :=
  let pc := (s.prog p).pc
  (s.updProg p (fun g => { g with run := .stopped, status := stopStatus cause })).updImp (fun i =>
    { i with events := i.events ++ [eventRecord p cause code pc addr] })

/-- Writes a status to a context and to the program (R355). -/
def State.setStat (s : State) (p id : Nat) (code : BitVec 8) : State :=
  (s.updCx id (fun x => { x with status := code })).updProg p (fun g => { g with status := code })

/-- Writes the program's status where no context is left to take it. -/
def State.progStat (s : State) (p : Nat) (code : BitVec 8) : State := s.updProg p (fun g => { g with status := code })

/-- The context a register names; where it names none the program stops (R355). -/
def State.withCtx (s : State) (p : Nat) (c : CReg) (go : State → Nat → State) : State :=
  match (s.prog p).ctx c with
  | some id => go s id
  | none => s.stopProg p 0x04 0 0

/-! ## The process's memory -/

/-- Cause of a failed data access (R348, R352). -/
def SysErr.pCause : SysErr → Nat
  | .poison => 0x08
  | _ => 0x07

/-- A read under the program's ASID; a failure stops the program (R352). -/
def State.pRead (s : State) (p va n : Nat) (go : State → List Byte → State) : State :=
  match s.sysRead 0 (s.prog p).asid va n with
  | (.ok b, s1) => go s1 b
  | (.error (e, a), s1) => s1.stopProg p e.pCause 0 (BitVec.ofNat 64 a)

/-- A write under the program's ASID. -/
def State.pWrite (s : State) (p va : Nat) (bytes : List Byte) (go : State → State) : State :=
  match s.sysWrite 0 (s.prog p).asid va bytes with
  | (none, s1) => go s1
  | (some (e, a), s1) => s1.stopProg p e.pCause 0 (BitVec.ofNat 64 a)

/-- Programs that wait in WAITC. -/
def State.waiters (s : State) : List Nat := s.imp.progs.filterMap (fun p => match p.2.run with
  | .waiting .. => some p.1
  | _ => none)

/-- Every waiting WAITC is to read again (R373): the re-reads join the agenda. -/
def State.pokeWaits (s : State) : State := { s with agenda := s.agenda ++ s.waiters.map (fun p => .event (.waitcReread p)) }

/-! ## Bindings -/

/-- A registered binding that has not been withdrawn (R356, R377). -/
def State.binding (s : State) (b : Nat) : Option Binding :=
  match Tab.find s.imp.bindings b with
  | some x => if x.withdrawn then none else some x
  | none => none

def State.tpp (s : State) (id : Nat) : Nat := match Tab.find s.imp.bindings (s.cx id).binding with
  | some b => b.reg.tpp
  | none => 0

def State.vocab (s : State) (b : Nat) : Nat := match Tab.find s.imp.bindings b with
  | some x => x.reg.vocab
  | none => 0

def State.tablesOf (s : State) (id : Nat) : Option CompTables := (s.binding (s.cx id).binding).bind (·.tables)

/-! ## Galley pages -/

/-- What asking for galley pages gives: pages, none left, or a wait for the Attic (R335, R342). -/
inductive PageRes where
  | ok (s : State)
  | dry (s : State)
  | wait (s : State)

/-- As `viaAttic`, for an answer that may be to wait (R411). -/
def State.askAttic (s : State) (on : Bool) (bit unit asid addr : Nat) (go : State → PageRes) : PageRes :=
  match s.serviceOf bit 0 unit asid addr with
  | some r => if r.done then go { s with svc := s.svc.filter (fun x => x.sq ≠ r.sq) } else .wait s
  | none => if on then .wait (s.askAnew bit 0 unit asid addr) else go s

/-- Bytes of a galley page (R324). -/
def galleyBytes : Nat := 2097152

def Imposer.share (i : Imposer) (pg : Nat) : Nat := Tab.get 0 i.shares pg

/-- A chain gives a page up; at count 0 it returns to the pool (R325). -/
def Imposer.dropPage (i : Imposer) (pg : Nat) : Imposer :=
  if i.share pg ≤ 1 then { i with shares := Tab.drop i.shares pg, free := i.free ++ [pg] }
  else { i with shares := Tab.set i.shares pg (i.share pg - 1) }

/-- Pages that plans reserve for the contexts of some kind (R319). -/
def Imposer.reserved (i : Imposer) (p : Nat → Bool) : List Nat :=
  (i.plans.map (fun (q : Nat × Plan) => ((q.2.reserve.filter (fun r => p r.1)).map (·.2)).flatten)).flatten

/-- A fresh page for a context, with share count 1: one that a plan reserves for it, else one that none reserves, else any, since a plan
changes no result (R319). -/
def Imposer.takePage (i : Imposer) (id : Nat) : Option (Nat × Imposer) :=
  let mine := i.reserved (· = id)
  let all := i.reserved (fun _ => true)
  match ((i.free.find? mine.contains).or (i.free.find? (fun pg => !all.contains pg))).or i.free.head? with
  | none => none
  | some pg => some (pg, { i with free := i.free.erase pg, shares := Tab.set i.shares pg 1 })

/-- A page's bytes and poison go to another page. -/
def State.copyPage (s : State) (src dst : Nat) : State :=
  let s0 := s.touchRun src galleyBytes
  let s1 := s0.storePa 0xfff false dst (s0.read src galleyBytes) false
  (List.range (galleyBytes / 64)).foldl (fun st i => st.setPoison (dst / 64 + i) (s0.poisoned (src / 64 + i))) s1

/-- Extends a chain to n pages. -/
def State.growChain (s : State) (id : Nat) : Nat → Option State
  | 0 => some s
  | n + 1 => match s.growChain id n with
    | none => none
    | some s1 =>
      if n < (s1.cx id).pages.length then some s1
      else match s1.imp.takePage id with
        | none => none
        | some (pg, i) => some ({ s1 with imp := i }.updCx id (fun x => { x with pages := x.pages ++ [pg] }))

/-- Copies shared pages of a chain before KV is written into them (R325). -/
def State.ownPages (s : State) (id : Nat) : List Nat → Option State
  | [] => some s
  | k :: t => match (s.cx id).pages[k]? with
    | none => s.ownPages id t
    | some pg =>
      if s.imp.share pg ≤ 1 then s.ownPages id t
      else match s.imp.takePage id with
        | none => none
        | some (q, i) =>
          ((({ s with imp := i.dropPage pg }).copyPage pg q).updCx id (fun x => { x with pages := x.pages.set k q })).ownPages id t

/-- Pages for `upto` tokens, writable from the first unwritten position on; none where the pool cannot give them (R324, R325). -/
def State.ensurePages (s : State) (id upto : Nat) : Option State :=
  let tpp := s.tpp id
  let n := ceilDiv upto tpp
  match s.growChain id n with
  | none => none
  | some s1 => s1.ownPages id ((List.range n).drop ((s.cx id).written / max 1 tpp))

/-- A chain gives up the pages beyond its first n. -/
def State.cutChain (s : State) (id n : Nat) : State :=
  let x := s.cx id
  { s with imp := (x.pages.drop n).foldl Imposer.dropPage s.imp }.updCx id (fun x => { x with pages := x.pages.take n })

/-- The chain lists ⌈len ÷ tpp⌉ pages (R324). -/
def State.fitChain (s : State) (id : Nat) : State := s.cutChain id (ceilDiv (s.cx id).tokens.length (s.tpp id))

/-- A chain's pages once a verified tree has committed a path (R341; log entry 62): behind those of the first n tokens come the pages that hold
the KV of the path's nodes, in its order; further ones are taken from what is left. -/
def relink (tpp n : Nat) (path pages : List Nat) : List Nat :=
  let k := ceilDiv n tpp
  let spec := pages.drop k
  let moved := ((path.filterMap (fun j => pages[(n + j) / tpp]?)).eraseDups).filter spec.contains
  pages.take k ++ moved ++ spec.filter (fun pg => !moved.contains pg)

/-- Pages of a chain that only it lists go; shared ones stay (R342). -/
def State.dropUnshared (s : State) (id : Nat) : State :=
  let x := s.cx id
  let own := x.pages.filter (fun pg => s.imp.share pg ≤ 1)
  { s with imp := own.foldl Imposer.dropPage s.imp }.updCx id (fun x => { x with pages := x.pages.filter (fun pg => !own.contains pg) })

/-! ## Contexts -/

/-- Live contexts a device holds at most (R327). -/
def maxContexts : Nat := 1050624

/-- Entries of the Cellar (R326). -/
def maxCellar : Nat := 1048576

/-- The Cellar holds no more entries: every live context without a slot has one (R326). -/
def State.cellarFull (s : State) : Bool := (s.imp.ctxs.filter (fun q => q.2.slot.isNone)).length ≥ maxCellar

/-- A new context, which holds no slot, or none where it would exceed R327. -/
def State.newContext (s : State) (x : Context) : Option (Nat × State) :=
  if s.imp.ctxs.length ≥ maxContexts || s.cellarFull then none
  else
    let id := s.imp.nextCtx
    some (id, s.updImp (fun i => { i with ctxs := Tab.set i.ctxs id x, nextCtx := id + 1 }))

/-- A context's pages go and it is no more. -/
def State.freeOne (s : State) (id : Nat) : State :=
  (s.cutChain id 0).updImp (fun i => { i with ctxs := Tab.drop i.ctxs id })

/-- What has been planned or asked of the Attic for a context is discarded: fetches and page reservations (R358, R319). -/
def State.dropPlanned (s : State) (id : Nat) : State :=
  { s with svc := s.svc.filter (fun r => !((r.func = 1 || r.func = 2) && r.addr = id)) }.updImp (fun i =>
    { i with plans := i.plans.map (fun (q : Nat × Plan) => (q.1, { q.2 with reserve := q.2.reserve.filter (fun r => r.1 ≠ id) })) })

/-- A context is freed, with the forks of a CHOOSE in progress (R358, R371). -/
def State.freeContext (s : State) (id : Nat) : State :=
  let x := s.cx id
  ((x.forkBest.toList ++ x.forkCur.toList).foldl (fun st f => st.freeOne f) (s.dropPlanned id)).freeOne id

/-- CFREE of a register (R358): it holds none afterwards. -/
def State.freeReg (s : State) (p : Nat) (c : CReg) : State :=
  match (s.prog p).ctx c with
  | some id => (s.freeContext id).writeC p c none
  | none => s

/-- The pages a fork lists (R325): shared ones rise by 1, a page at 65,535 is copied; none where the pool has no page for a copy. -/
def State.sharePages (s : State) : List Nat → Option (List Nat × State)
  | [] => some ([], s)
  | pg :: t =>
    if s.imp.share pg < 65535 then
      match (s.updImp (fun i => { i with shares := Tab.set i.shares pg (i.share pg + 1) })).sharePages t with
      | none => none
      | some (l, s1) => some (pg :: l, s1)
    else match s.imp.takePage s.imp.nextCtx with
      | none => none
      | some (q, i) => match ({ s with imp := i }.copyPage pg q).sharePages t with
        | none => none
        | some (l, s1) => some (q :: l, s1)

/-- Whether a fork of a context copies a page instead of sharing it (R325). -/
def State.copiesPage (s : State) (id : Nat) : Bool := (s.cx id).pages.any (fun pg => s.imp.share pg ≥ 65535)

/-- A fork (R357): token string, binding, gen, Frisket fields, draw and the mark for re-append; its own seq. None where R327 or the pool
forbids it. -/
def State.forkContext (s : State) (id : Nat) (seqn : Word) : Option (Nat × State) :=
  let x := s.cx id
  match s.sharePages x.pages with
  | none => none
  | some (pages, s1) => s1.newContext { Context.blank with
      owner := x.owner, tokens := x.tokens, written := x.written, binding := x.binding, gen := x.gen, fAuto := x.fAuto
      fState := x.fState, fDepth := x.fDepth, fStack := x.fStack, seqn := seqn, draw := x.draw, pages := pages
      reappend := x.reappend }

/-! ## The long instruction in progress -/

/-- The long instruction a program is in (R318). -/
def Prog.ins (g : Prog) : Option Instr := match g.run with
  | .long i => some i
  | _ => none

/-- The context register of a long instruction. -/
def longReg : Instr → Option CReg
  | .append _ c _ => some c
  | .genu _ c _ => some c
  | .score _ _ c _ => some c
  | .choose _ _ c _ _ _ => some c
  | _ => none

/-- Opcodes of the long instructions (R346). -/
def longOpcode : Instr → Nat
  | .append .. => 0x28
  | .genu .. => 0x29
  | .score .. => 0x2a
  | .choose .. => 0x2b
  | _ => 0

/-- The context of the long instruction a program is in. -/
def Prog.longCtx (g : Prog) : Option Nat := (g.ins.bind longReg).bind g.ctx

/-- Whether a long instruction is in progress on a context. -/
def State.inProgress (s : State) (id : Nat) : Bool := (s.prog (s.cx id).owner).longCtx = some id

/-! ## Landing slots -/

/-- The slots in use. -/
def State.slotsUsed (s : State) : List Nat := s.imp.ctxs.filterMap (fun p => p.2.slot)

/-- A free slot; which one, Config says (log entry 15). -/
def State.freeSlot (s : State) : Option Nat :=
  let used := s.slotsUsed
  let free := (List.range 2048).filter (fun k => !used.contains k)
  free[Config.victim s.tick % max 1 free.length]?

/-- A context's slot is parked (R326): a long instruction in progress on it is interrupted (R334). -/
def State.park (s : State) (id : Nat) : State :=
  let busy := s.inProgress id
  (s.updCx id (fun x => { x with slot := none })).updProg (s.cx id).owner (fun g => if busy then { g with intr := true } else g)

/-- Orders parking candidates: class, then the step the slot was last used in. -/
def parkBefore (a b : Nat × Nat × Nat) : Bool := a.1 < b.1 || (a.1 = b.1 && a.2.1 < b.2.1)

def firstPark (l : List (Nat × Nat × Nat)) : Option Nat :=
  (l.foldl (fun r a => match r with
    | none => some a
    | some b => if parkBefore a b then some a else some b) (none : Option (Nat × Nat × Nat))).map (·.2.2)

/-- Contexts with slots, as class, last use and number. -/
def State.parkable (s : State) (ok : Nat → Bool) : List (Nat × Nat × Nat) :=
  s.imp.ctxs.filterMap (fun p => if p.2.slot.isSome && ok p.1 then some ((s.prog p.2.owner).cls, p.2.used, p.1) else none)

/-- The slot to park for a program of class `cls` (R326): an idle one, lowest class and longest unused; else one of a lower class. -/
def State.victimSlot (s : State) (cls : Nat) : Option Nat :=
  match firstPark (s.parkable (fun id => !s.inProgress id)) with
  | some id => some id
  | none => firstPark (s.parkable (fun id => (s.prog (s.cx id).owner).cls < cls))

/-- The Dumbwaiter lands a context, between steps only (R11, R326); the state is unchanged where no slot can be had. A fetch that is only
planned (R319) parks no slot. -/
def State.landFor (s : State) (planned : Bool) (p id : Nat) : State :=
  if (s.cx id).slot.isSome || s.imp.step.isSome then s
  else s.viaAttic (bitAt s.imp.modes 2) 2 0 (p % 65536) (s.prog p).asid id (fun s =>
    let give := fun (s : State) => match s.freeSlot with
      | some k => s.updCx id (fun x => { x with slot := some k, used := s.imp.stepNo.toNat })
      | none => s
    if s.freeSlot.isSome then give s
    else if planned then s
    else match s.victimSlot (s.prog p).cls with
      | some v => give (s.park v)
      | none => s)

/-- The fetch for a long instruction (R326). -/
def State.land (s : State) (p id : Nat) : State := s.landFor false p id

/-! ## The end of a long instruction -/

/-- Frees the forks of a CHOOSE. -/
def State.dropForks (s : State) (id : Nat) : State :=
  let x := s.cx id
  ((x.forkBest.toList ++ x.forkCur.toList).foldl (fun st f => st.freeOne f) s).updCx id (fun x =>
    { x with forkBest := none, forkCur := none })

/-- What ends with an instruction: prog.op, a record that is still valid, what it fed, its tree and its forks; the last token's KV counts as unwritten (R328, R365). -/
def State.endProgress (s : State) (id : Nat) : State :=
  ((s.dropForks id).updCx id (fun x =>
    { x with progOp := 0, feed := [], gblk := none, tree := [], level := 0, treeDone := false, draft := [], accepted := none
             progAccept := setBitAt x.progAccept 63 false, written := min x.written (x.tokens.length - 1) })).fitChain id

/-- Statuses of R336: the traps that a mask may enable. -/
def isTrap (code : Nat) : Bool := 0x10 ≤ code && code ≤ 0x15

/-- RETIREMENT of a long instruction with a status (R336, R337, R365): a trap that the mask holds stops the program behind it. -/
def State.retireLong (s : State) (p id code : Nat) : State :=
  let s1 := ((s.endProgress id).setStat p id (BitVec.ofNat 8 code)).pNext p
  if isTrap code && bitAt (s.prog p).mask (code - 0x10) then (s1.stopProg p 0x0a code 0).notice (.trap p)
  else s1.updProg p (fun g => { g with run := .ready, intr := false })

/-- A process kill at a token boundary (R377). -/
def State.killAtBoundary (s : State) : State :=
  s.imp.progs.foldl (fun st g =>
    if g.2.killed && g.2.run ≠ .ended then
      (st.stopProg g.1 0x0b 0 0).updProg g.1 (fun g => { g with killed := false })
    else st) s

/-- A binding withdrawal at a token boundary: long instructions in progress on it end with BINDING (R377). -/
def State.withdraw (s : State) (b : Nat) : State :=
  let s1 := s.updImp (fun i => { i with
    bindings := i.bindings.map (fun (q : Nat × Binding) => (q.1, if q.1 = b then { q.2 with withdrawn := true } else q.2)) })
  s1.imp.progs.foldl (fun st q => match q.2.longCtx with
    | some id => if (st.cx id).binding = b then st.retireLong q.1 id 0x15 else st
    | none => st) s1

/-- What is decided between stage 7 and the next stage 1 (R11, R377). -/
def State.boundaryActs (s : State) : State :=
  let ws := s.imp.withdrawn
  (ws.foldl (fun st b => st.withdraw b) (s.updImp (fun i => { i with withdrawn := [] }))).killAtBoundary

end Sys2Proof.Machine
end

