-- ==== Sys2Proof/Machine/Crium.lean ====
section
/-! DEFINITION. The short Crium instructions (R353 to R364, R372 to R376) and the stops of fetch and decode (R345, R347). -/

namespace Sys2Proof.Machine

/-! ## Integers and control (R353, R354) -/

/-- A function of registers into n[a]. -/
def State.nOp (s : State) (a : NReg) (v : Word) : Out := .next ((s.writeN s.actProg a v).pNext s.actProg)

def execNmovi (hi : Bool) (a : NReg) (imm : BitVec 32) (s : State) : Out :=
  s.nOp a (if hi then imm.zeroExtend 64 <<< 32 ||| ((s.readN s.actProg a).extractLsb' 0 32).zeroExtend 64 else imm.signExtend 64)
def execNadd (a b c : NReg) (s : State) : Out := s.nOp a (s.readN s.actProg b + s.readN s.actProg c)
def execNaddi (a b : NReg) (imm : BitVec 32) (s : State) : Out := s.nOp a (s.readN s.actProg b + imm.signExtend 64)
def execNsub (a b c : NReg) (s : State) : Out := s.nOp a (s.readN s.actProg b - s.readN s.actProg c)
def execNmul (a b c : NReg) (s : State) : Out := s.nOp a (s.readN s.actProg b * s.readN s.actProg c)
def execNslt (uns : Bool) (a b c : NReg) (s : State) : Out :=
  let x := s.readN s.actProg b
  let y := s.readN s.actProg c
  s.nOp a (if (if uns then x.ult y else x.slt y) then 1 else 0)

/-- Conditions of BR and WAITC (R346). -/
def BrCond.holds : BrCond → Word → Word → Bool
  | .eq, x, y => x = y
  | .ne, x, y => x ≠ y
  | .lt, x, y => x.slt y
  | .ge, x, y => !x.slt y
  | .ltn, x, y => x.ult y
  | .gen, x, y => !x.ult y

def State.pJump (s : State) (off : BitVec 32) : State := s.updProg s.actProg (fun g => { g with pc := pcOff g.pc off })

def execBr (cond : BrCond) (a b : NReg) (off : BitVec 32) (s : State) : Out :=
  .next (if BrCond.holds cond (s.readN s.actProg a) (s.readN s.actProg b) then s.pJump off else s.pNext s.actProg)
def execJmp (off : BitVec 32) (s : State) : Out := .next (s.pJump off)
def execCall (a : NReg) (off : BitVec 32) (s : State) : Out :=
  .next ((s.pJump off).writeN s.actProg a ((s.prog s.actProg).pc + 8))
def execRet (b : NReg) (s : State) : Out :=
  let v := s.readN s.actProg b
  .next (if v.toNat % 8 ≠ 0 then s.stopProg s.actProg 0x03 0 0 else s.updProg s.actProg (fun g => { g with pc := v }))

/-! ## Contexts (R355 to R359) -/

/-- CNEW (R356). -/
def State.cnew (s : State) (p : Nat) (c : CReg) (seqn : Word) (model : Nat) : State :=
  let s1 := s.freeReg p c
  match s1.binding model with
  | none => s1.progStat p 0x15
  | some _ => match s1.newContext { Context.blank with owner := p, binding := model, seqn := seqn } with
    | none => s1.progStat p 0x14
    | some (id, s2) => (s2.writeC p c (some id)).setStat p id 0

def execCnew (c : CReg) (seqn : NReg) (model : BitVec 16) (s : State) : Out :=
  .next ((s.cnew s.actProg c (s.readN s.actProg seqn) model.toNat).pNext s.actProg)

/-- CFORK (R357), from a context that is there. -/
def State.cfork (s : State) (p : Nat) (c : CReg) (id : Nat) (seqn : Word) : State :=
  let s1 := s.freeReg p c
  match s1.forkContext id seqn with
  | none => s1.progStat p 0x14
  | some (f, s2) => (s2.writeC p c (some f)).setStat p f 0

/-- CFORK; a page that it must copy waits for the Attic in Attic-assisted galley mode (R411). -/
def execCfork (c src : CReg) (seqn : NReg) (s : State) : Out :=
  let p := s.actProg
  .next (if c = src then s.stopProg p 0x03 0 0
    else s.withCtx p src (fun s id =>
      s.viaAttic (bitAt s.imp.modes 1 && (s.freeReg p c).copiesPage id) 1 0 (p % 65536) (s.prog p).asid id (fun s =>
        (s.cfork p c id (s.readN p seqn)).pNext p)))

def State.recurrent (s : State) (id : Nat) : Bool := match Tab.find s.imp.bindings (s.cx id).binding with
  | some b => b.reg.recurrent
  | none => false

/-- CTRIM (R358). -/
def State.ctrim (s : State) (id n : Nat) : State :=
  if n ≥ (s.cx id).tokens.length then s
  else
    let rec? := s.recurrent id
    ((s.updCx id (fun x => { x with
      tokens := x.tokens.take n, written := if rec? then 0 else min x.written (n - 1)
      reappend := x.reappend || rec? })).fitChain id)

def execCtrim (c : CReg) (len : NReg) (s : State) : Out :=
  let p := s.actProg
  .next (s.withCtx p c (fun s id => (s.ctrim id (s.readN p len).toNat).pNext p))

def execCfree (c : CReg) (s : State) : Out := .next ((s.freeReg s.actProg c).pNext s.actProg)

def execClen (dst : NReg) (c : CReg) (s : State) : Out :=
  let p := s.actProg
  .next (s.withCtx p c (fun s id => (s.writeN p dst (BitVec.ofNat 64 (s.cx id).tokens.length)).pNext p))

/-- A field by its selector (R320). -/
def Context.field (x : Context) (sel : Nat) : Word :=
  if sel = 0 then BitVec.ofNat 64 x.tokens.length else if sel = 1 then BitVec.ofNat 64 x.binding
  else if sel = 2 then x.gen else if sel = 3 then x.fAuto.zeroExtend 64 else if sel = 4 then x.fState.zeroExtend 64
  else if sel = 5 then x.fDepth.zeroExtend 64 else if sel = 6 then x.fStack else if sel = 7 then x.seqn
  else if sel = 8 then x.draw else if sel = 9 then x.progOp.zeroExtend 64 else if sel = 10 then x.progDone.zeroExtend 64
  else if sel = 11 then x.progStop else if sel = 12 then x.progAccept else if sel = 13 then x.status.zeroExtend 64
  else if sel = 14 then BitVec.ofNat 64 (x.slot.getD 0xffff) else if sel = 15 then BitVec.ofNat 64 x.pages.length else 0

def execCget (dst : NReg) (c : CReg) (sel : BitVec 6) (s : State) : Out :=
  let p := s.actProg
  .next (s.withCtx p c (fun s id => (s.writeN p dst ((s.cx id).field sel.toNat)).pNext p))

/-- CBIND (R359). -/
def State.cbind (s : State) (p id model : Nat) : State :=
  if model = (s.cx id).binding then s.setStat p id 0
  else match s.binding model with
    | none => s.setStat p id 0x15
    | some b =>
      if (s.cx id).tokens.any (fun t => t ≥ b.reg.vocab) then s.setStat p id 0x15
      else ((s.cutChain id 0).updCx id (fun x => { x with binding := model, written := 0, reappend := true })).setStat p id 0

def execCbind (c : CReg) (model : BitVec 16) (s : State) : Out :=
  let p := s.actProg
  .next (s.withCtx p c (fun s id => (s.cbind p id model.toNat).pNext p))

/-! ## Strings and text (R360 to R362) -/

/-- Elements a string may hold (R317). -/
def maxStr : Nat := 1048576

/-- Token ids in bytes, and bytes of token ids (.n32). -/
def idsOf : Nat → List Byte → List Nat
  | 0, _ => []
  | n + 1, b => leNat (b.take 4) :: idsOf n (b.drop 4)
def idBytes (l : List Nat) : List Byte := (l.map (leBytes 4)).flatten

def strOf (ids : Bool) (b : List Byte) : Str := if ids then ⟨true, idsOf (b.length / 4) b⟩ else ⟨false, b.map BitVec.toNat⟩

/-- The string object of a string (R37, R360). -/
def Str.object (x : Str) : List Byte :=
  let d := if x.toks then idBytes x.data else x.data.map (BitVec.ofNat 8)
  let o := leBytes 4 d.length ++ d
  o ++ List.replicate (roundUp o.length 8 - o.length) 0

def execSld (ids : Bool) (dst : SReg) (addr : NReg) (s : State) : Out :=
  let p := s.actProg
  let a := (s.readN p addr).toNat
  .next (if a % 8 ≠ 0 then s.stopProg p 0x03 0 0
    else s.whole (fun s => s.pRead p a 4 (fun s h =>
      let n := leNat h
      if (ids && n % 4 ≠ 0) || (if ids then n / 4 else n) > maxStr then s.stopProg p 0x05 0 0
      else s.pRead p (a + 4) n (fun s b => (s.writeS p dst (strOf ids b)).pNext p))))

def execSst (src : SReg) (addr : NReg) (s : State) : Out :=
  let p := s.actProg
  let a := (s.readN p addr).toNat
  .next (if a % 8 ≠ 0 then s.stopProg p 0x03 0 0
    else s.whole (fun s => s.pWrite p a ((s.prog p).str src).object (fun s => (s.pNext p).pokeWaits)))

def execScat (dst x y : SReg) (s : State) : Out :=
  let p := s.actProg
  let u := (s.prog p).str x
  let v := (s.prog p).str y
  .next (if u.toks ≠ v.toks || u.data.length + v.data.length > maxStr then s.stopProg p 0x05 0 0
    else (s.writeS p dst ⟨u.toks, u.data ++ v.data⟩).pNext p)

def execSsub (dst src : SReg) (off : NReg) (len : BitVec 32) (s : State) : Out :=
  let p := s.actProg
  let u := (s.prog p).str src
  .next ((s.writeS p dst ⟨u.toks, (u.data.drop (s.readN p off).toNat).take len.toNat⟩).pNext p)

def execSlen (dst : NReg) (src : SReg) (s : State) : Out :=
  let p := s.actProg
  s.nOp dst (BitVec.ofNat 64 ((s.prog p).str src).data.length)

/-- An instruction on text with the tables of a context's binding (R362): without tables it retires with BINDING; in Attic-assisted
mode it waits for the service. -/
def State.withTables (s : State) (p id : Nat) (go : State → CompTables → State) : State :=
  match s.tablesOf id with
  | none => (s.setStat p id 0x15).pNext p
  | some t => s.viaAttic (bitAt s.imp.modes 3) 3 0 (p % 65536) (s.prog p).asid id (fun s => go s t)

def execTokz (dst src : SReg) (c : CReg) (s : State) : Out :=
  let p := s.actProg
  .next (s.withCtx p c (fun s id => s.withTables p id (fun s t =>
    let u := (s.prog p).str src
    let out := t.tokz u.data
    if u.toks || out.length > maxStr then s.stopProg p 0x05 0 0
    else (s.writeS p dst ⟨true, out⟩).pNext p)))

def execDetok (dst src : SReg) (c : CReg) (s : State) : Out :=
  let p := s.actProg
  .next (s.withCtx p c (fun s id => s.withTables p id (fun s t =>
    let u := (s.prog p).str src
    if !u.toks then s.stopProg p 0x05 0 0
    else if u.data.any (fun k => k ≥ s.vocab (s.cx id).binding) then s.stopProg p 0x03 0 0
    else
      let out := t.detok u.data
      if out.length > maxStr then s.stopProg p 0x05 0 0 else (s.writeS p dst ⟨false, out⟩).pNext p)))

/-! ## Generation parameters and constraints (R363, R364) -/

def execSetgen (c : CReg) (addr : NReg) (s : State) : Out :=
  let p := s.actProg
  let a := s.readN p addr
  .next (s.withCtx p c (fun s id =>
    if a.toNat % 64 ≠ 0 || a.toNat ≥ 2 ^ 52 then s.stopProg p 0x03 0 0
    else (s.updCx id (fun x => { x with gen := a })).pNext p))

/-- A stack with the entries at and above a depth zero. -/
def lowSyms (v : Word) (depth : Nat) : Word := BitVec.ofNat 64 (v.toNat % 2 ^ (8 * depth))

/-- Whether SETFR accepts its operands (R364). -/
def State.frOk (s : State) (auto : BitVec 16) (st : BitVec 12) (depth : BitVec 4) (v : Word) : Bool :=
  if auto = 0xffff then st = 0 && depth = 0 && v = 0
  else match Tab.find s.imp.autos auto.toNat with
    | some a => st.toNat < a.states
    | none => false

def execSetfr (c : CReg) (stack : NReg) (auto : BitVec 16) (st : BitVec 12) (depth : BitVec 4) (s : State) : Out :=
  let p := s.actProg
  let v := s.readN p stack
  .next (s.withCtx p c (fun s id =>
    if !s.frOk auto st depth v then s.stopProg p 0x03 0 0
    else (s.updCx id (fun x => { x with
      fAuto := auto, fState := st, fDepth := depth, fStack := lowSyms v depth.toNat })).pNext p))

/-! ## Scores (R372) -/

/-- QCMP's result. -/
def Score.cmp (x y : Score) : Word :=
  if x.poison || y.poison || x.xa.value.isNan || y.xa.value.isNan then 2
  else
    let o := Fl.cmp false x.xa.value y.xa.value
    if o > 0 then 1 else if o = 0 then 0 else BitVec.allOnes 64

def execQcmp (dst : NReg) (x y : QReg) (s : State) : Out :=
  s.nOp dst (((s.prog s.actProg).score x).cmp ((s.prog s.actProg).score y))

/-- The drained bits as an n register takes them. -/
def drainWord (t : DrainTy) (bits : Nat) : Word := if t = .s32 then BitVec.ofInt 64 (sextNat 32 bits) else BitVec.ofNat 64 bits

def execQrnd (t : DrainTy) (r : Rnd) (dst : NReg) (src : QReg) (s : State) : Out :=
  s.nOp dst (drainWord t (((s.prog s.actProg).score src).xa.drain t r).1)

/-! ## Synchronisation and system instructions (R373 to R376) -/

/-- One read of a WAITC (R373): n[dst] takes the value; where the condition holds the instruction retires. -/
def State.waitRead (s : State) (p : Nat) (dst : NReg) (addr val : Word) (cond : BrCond) : State :=
  s.whole (fun s => s.pRead p addr.toNat 8 (fun s b =>
    let v := BitVec.ofNat 64 (leNat b)
    let s1 := s.writeN p dst v
    if BrCond.holds cond v val then (s1.updProg p (fun g => { g with run := .ready })).pNext p
    else s1.updProg p (fun g => { g with run := .waiting dst addr val cond })))

def execWaitc (cond : BrCond) (dst addr val : NReg) (s : State) : Out :=
  let p := s.actProg
  let a := s.readN p addr
  .next (if a.toNat % 8 ≠ 0 then s.stopProg p 0x03 0 0 else s.waitRead p dst a (s.readN p val) cond)

/-- A repeated read (R373). -/
def State.reread (s : State) (p : Nat) : State :=
  match (s.prog p).run with
  | .waiting dst addr val cond => s.waitRead p dst addr val cond
  | _ => s

def execWaitcReread (p : Nat) (s : State) : Out := .next (s.reread p)
/-- System software rings a program's doorbell (R373). -/
def execProgramDoorbell (p : Nat) (s : State) : Out := .next (s.reread p)

/-- Programs of a class, in ring order (R332). -/
def Imposer.ringOf (i : Imposer) (k : Nat) : List Nat := (i.progs.filter (fun p => p.2.cls = k)).map (·.1)

/-- The place behind a program in its class's ring. -/
def nextIn (l : List Nat) (p : Nat) : Nat := match l.find? (fun q => p < q) with
  | some q => q
  | none => l.headD p

/-- The program at a class's ring position: the first at or after it. -/
def Imposer.ringAt (i : Imposer) (k : Nat) : Option Nat :=
  let l := i.ringOf k
  match l.find? (fun q => i.ring.toList.getD k 0 ≤ q) with
  | some q => some q
  | none => l.head?

/-- The ring position of a class moves to the next program, whose turn begins (R332). -/
def State.advanceRing (s : State) (k : Nat) : State :=
  match s.imp.ringAt k with
  | none => s
  | some p =>
    let q := nextIn (s.imp.ringOf k) p
    (s.updImp (fun i => { i with ring := i.ring.set! k q })).updProg q (fun g => { g with turnNew := true })

/-- YIELD (R374). -/
def execYield (s : State) : Out :=
  let p := s.actProg
  let k := (s.prog p).cls
  let s1 := (s.updProg p (fun g => { g with deficit := 0 })).pNext p
  .next (if s.imp.ringAt k = some p then s1.advanceRing k else s1)

/-- STAT (R375). -/
def execStat (clr : Bool) (dst : NReg) (s : State) : Out :=
  let p := s.actProg
  let v := (s.prog p).status
  .next (((s.writeN p dst (v.zeroExtend 64)).updProg p (fun g => { g with status := if clr then 0 else g.status })).pNext p)

/-- ENDA (R376): every context is freed, the event record written, the program ended. -/
def execEnda (code : BitVec 32) (s : State) : Out :=
  let p := s.actProg
  let s1 := (List.range 16).foldl (fun st r => st.freeReg p (BitVec.ofNat 4 r)) s
  let pc := (s.prog p).pc
  .next ((s1.updProg p (fun g => { g with run := .ended })).updImp (fun i =>
    { i with events := i.events ++ [eventRecord p 0x0c code.toNat pc 0] }))

def execTrapa (code : BitVec 32) (s : State) : Out := .next (s.stopProg s.actProg 0x09 code.toNat 0)

/-- A word that breaks the map (R347). -/
def execUnassignedOpcode (field : Bool) (s : State) : Out := .next (s.stopProg s.actProg (if field then 0x02 else 0x01) 0 0)
/-- A fetch outside the image or at a misaligned offset (R345). -/
def execAgentFetchFault (s : State) : Out := .next (s.stopProg s.actProg 0x06 0 (s.prog s.actProg).pc)

end Sys2Proof.Machine
end

