-- ==== Sys2Proof/Machine/Crypto.lean ====
section
/-! DEFINITION. SHA-384 and ECDSA on curve P-384, by which boot images and attestation reports are signed (R407, R408), as FIPS 180-4
and FIPS 186-5 define them. -/

namespace Sys2Proof

/-- A big-endian number, the byte order of the signature standard (R407). -/
def beNat (b : List Byte) : Nat := b.foldl (fun n x => 256 * n + x.toNat) 0

/-- n bytes of a number, most significant first. -/
def beBytes (n v : Nat) : List Byte := ((List.range n).map (fun i => BitVec.ofNat 8 (v / 256 ^ i))).reverse

/-- A byte string cut or filled with zeros to a length. -/
def fixLen (n : Nat) (b : List Byte) : List Byte := (b ++ List.replicate (n - b.length) 0).take n

/-! ## SHA-384 -/

/-- The largest number below 2^n whose k-th power is at most v, bit by bit from the top. -/
def rootBits (k v : Nat) : Nat → Nat → Nat
  | 0, r => r
  | n + 1, r => rootBits k v n (if (r + 2 ^ n) ^ k ≤ v then r + 2 ^ n else r)

/-- The first n primes: FIPS 180-4 takes its constants from them. -/
def primes (n : Nat) : List Nat :=
  ((List.range 410).filter (fun p => 2 ≤ p && (List.range 21).all (fun d => d < 2 || d == p || p % d ≠ 0))).take n

/-- The first 64 bits of the fraction of the k-th root of p (the whole part, below 2^5, falls off). -/
def rootFraction (k p : Nat) : Word := BitVec.ofNat 64 (rootBits k (p * 2 ^ (64 * k)) 69 0)

/-- The eighty round constants: from the cube roots of the first eighty primes. -/
def roundConstants : List Word := (primes 80).map (rootFraction 3)

/-- A hash in progress as two histories, latest word first: FIPS 180-4's a, b, c, d are the latest four words of one and e, f, g, h of
the other. -/
structure Sha where
  upper : List Word
  lower : List Word
  deriving DecidableEq, Repr

/-- The start of SHA-384: from the square roots of the ninth to the sixteenth prime. -/
def Sha.start : Sha :=
  let h := ((primes 16).drop 8).map (rootFraction 2)
  ⟨h.take 4, h.drop 4⟩

/-- The exclusive or of a word's rotations. -/
def spin (ns : List Nat) (x : Word) : Word := ns.foldl (fun y n => y ^^^ x.rotateRight n) 0

/-- A block's words with n more scheduled ones, latest first: each comes from those 2, 7, 15 and 16 places back. -/
def stretch : Nat → List Word → List Word
  | 0, ws => ws
  | n + 1, ws =>
    let near := ws.getD 1 0
    let far := ws.getD 14 0
    stretch n ((ws.getD 15 0 + ws.getD 6 0 + (spin [1, 8] far ^^^ far >>> 7) + (spin [19, 61] near ^^^ near >>> 6)) :: ws)

/-- One round: the sum of the oldest lower word with the choice of the newer ones and the round's word goes into both histories. -/
def Sha.round (x : Sha) (kw : Word) : Sha :=
  match x.upper, x.lower with
  | [a, b, c, d], [e, f, g, h] =>
    let t := spin [14, 18, 41] e + (g ^^^ (e &&& (f ^^^ g))) + h + kw
    ⟨[spin [28, 34, 39] a + ((a &&& b) ||| (c &&& (a ||| b))) + t, a, b, c], [d + t, e, f, g]⟩
  | _, _ => x

/-- One block of 128 bytes. -/
def Sha.block (x : Sha) (b : List Byte) : Sha :=
  let m := (List.range 16).map (fun i => BitVec.ofNat 64 (beNat ((b.drop (8 * i)).take 8)))
  let y := (List.zipWith (fun k w => k + w) roundConstants (stretch 64 m.reverse).reverse).foldl Sha.round x
  ⟨List.zipWith (fun u v => u + v) x.upper y.upper, List.zipWith (fun u v => u + v) x.lower y.lower⟩

/-- The next n blocks of a message. -/
def Sha.absorb (x : Sha) (b : List Byte) : Nat → Sha
  | 0 => x
  | n + 1 => (x.block (b.take 128)).absorb (b.drop 128) n

/-- The SHA-384 digest of a message, 48 bytes: the message, a one bit, zeros, and its length in bits as the last 16 bytes of a block. -/
def sha384 (m : List Byte) : List Byte :=
  let whole := m ++ 0x80 :: List.replicate ((239 - m.length % 128) % 128) 0 ++ beBytes 16 (8 * m.length)
  let r := Sha.start.absorb whole (whole.length / 128)
  ((r.upper ++ r.lower).take 6).flatMap (fun w => beBytes 8 w.toNat)

/-! ## ECDSA on P-384 -/

/-- The field, the curve's second coefficient, its order and its base point. -/
def p384 : Nat := 2 ^ 384 - 2 ^ 128 - 2 ^ 96 + 2 ^ 32 - 1
def p384B : Nat := 0xb3312fa7e23ee7e4988e056be3f82d19181d9c6efe8141120314088f5013875ac656398d8a2ed19d2a85c8edd3ec2aef
def p384N : Nat := 0xffffffffffffffffffffffffffffffffffffffffffffffffc7634d81f4372ddf581a0db248b0a77aecec196accc52973
def p384G : Nat × Nat :=
  (0xaa87ca22be8b05378eb1c71ef320ad746e1d3b628ba79b9859f741e082542a385502f25dbf55296c3a545e3872760ab7,
   0x3617de4a96262c6f5d9e98bf9292dc29f8f41dbd289a147ce9da3113b5f0b8c00a60b1ce1d7e819d7a431d7c90ea0e5f)

/-- b to the power e modulo m, over the low n bits of e. -/
def powMod (m : Nat) : Nat → Nat → Nat → Nat
  | 0, _, _ => 1 % m
  | n + 1, b, e =>
    let r := powMod m n (b * b % m) (e / 2)
    if e % 2 = 1 then r * b % m else r

/-- The inverse modulo a prime of 384 bits. -/
def invMod (m a : Nat) : Nat := powMod m 384 (a % m) (m - 2)

def subMod (m a b : Nat) : Nat := (a + (m - b % m)) % m

/-- The sum of two points; none is the point at infinity. -/
def ecAdd : Option (Nat × Nat) → Option (Nat × Nat) → Option (Nat × Nat)
  | none, q => q
  | p, none => p
  | some (x1, y1), some (x2, y2) =>
    if x1 = x2 && (y1 + y2) % p384 = 0 then none
    else
      let l := if x1 = x2 then (3 * x1 * x1 + (p384 - 3)) * invMod p384 (2 * y1) % p384
        else subMod p384 y2 y1 * invMod p384 (subMod p384 x2 x1) % p384
      let x3 := subMod p384 (l * l) (x1 + x2)
      some (x3, subMod p384 (l * subMod p384 x1 x3) y1)

/-- A multiple of a point, over the low n bits of the factor. -/
def ecMul : Nat → Nat → Option (Nat × Nat) → Option (Nat × Nat)
  | 0, _, _ => none
  | n + 1, k, p =>
    let r := ecMul n (k / 2) (ecAdd p p)
    if k % 2 = 1 then ecAdd p r else r

/-- A public key is a point of the curve. -/
def onCurve (q : Nat × Nat) : Bool :=
  q.1 < p384 && q.2 < p384 && q.2 * q.2 % p384 = (q.1 * q.1 * q.1 + (p384 - 3) * q.1 + p384B) % p384

/-- Whether r then s, 48 bytes each, sign a message under a public key (R407). -/
def ecdsaOk (key : Nat × Nat) (msg sig : List Byte) : Bool :=
  let r := beNat (sig.take 48)
  let s := beNat ((sig.drop 48).take 48)
  let w := invMod p384N s
  onCurve key && 1 ≤ r && r < p384N && 1 ≤ s && s < p384N &&
  (match ecAdd (ecMul 384 (beNat (sha384 msg) * w % p384N) (some p384G)) (ecMul 384 (r * w % p384N) (some key)) with
    | some (x, _) => x % p384N = r
    | none => false)

/-- The signature of a message under a private key, with a per-message secret number. -/
def ecdsaSign (key secret : Nat) (msg : List Byte) : List Byte :=
  match ecMul 384 (secret % p384N) (some p384G) with
  | none => List.replicate 96 0
  | some (x, _) =>
    let r := x % p384N
    beBytes 48 r ++ beBytes 48 (invMod p384N secret * (beNat (sha384 msg) + r * key) % p384N)

end Sys2Proof
end

