-- ==== Sys2Proof/Machine/Fetch.lean ====
section
/-! DEFINITION. Which unit moves next, and how a cell and an agent program fetch and decode (R158, R178 to R183, R343 to R347). -/

namespace Sys2Proof.Machine

/-- The unit that moves and the state in which it moves: the agenda without its head, one step and its cycles later (log
entries 2 and 3). -/
def State.nextUnit (s : State) : Act × State :=
  let s1 := { s with agenda := s.agenda.drop 1, tick := s.tick + 1, now := s.now + Config.stepCycles s.tick }
  (s.agenda.headD (Config.nextAct s.tick), s1)

/-- Word of code at a scratchpad offset of a cell. -/
def State.codeWord (s : State) (c off : Nat) : BitVec 32 := BitVec.ofNat 32 (s.readNat (spBase c + off) 4)

/-- What a decoder's answer runs as on a cell (R178, R179). -/
def damvonOf : DecodeResult → Instr
  | .ok i => i
  | .pointer => .illegalInstruction true
  | .illegal | .unassigned | .field => .illegalInstruction false

/-- What a decoder's answer runs as in an agent program (R347). -/
def criumOf : DecodeResult → Instr
  | .ok i => i
  | .field => .unassignedOpcode true
  | .illegal | .pointer | .unassigned => .unassignedOpcode false

/-- The instruction at a cell's pc: the fetch fault (R182), the fault of a loop body that ends inside a double word (R183), or
what its words decode to. -/
def State.fetchAt (s : State) (c : Nat) : Instr :=
  let k := s.core c
  let pc := k.pc.toNat
  if k.xoTop ≤ pc || pc > 0x7fffc then .fetchFault
  else
    let w0 := s.codeWord c pc
    if isDouble w0 then
      if k.xoTop ≤ pc + 4 then .fetchFault
      else if k.loops.any (fun l => l.stop.toNat = pc + 4) then .illegalInstruction false
      else damvonOf (decodeDamvon (s.ctx c).vregs w0 (s.codeWord c (pc + 4)))
    else damvonOf (decodeDamvon (s.ctx c).vregs w0 0)

/-- The reads of a fetch reach the bank (R89): one line, for a double word that straddles two both; a word that raises the fetch fault is not
read (R182). -/
def State.touchFetch (s : State) (c : Nat) : State :=
  let k := s.core c
  let pc := k.pc.toNat
  if k.xoTop ≤ pc || pc > 0x7fffc then s
  else
    let s1 := s.touchScratch c pc
    if isDouble (s.codeWord c pc) && pc + 4 < min k.xoTop 0x80000 then s1.touchScratch c (pc + 4) else s1

/-- A cell that runs an activation fetches (R199, R133), once the boot lets it run (R407). -/
def State.fetchCell (s : State) (c : Nat) : Option Instr :=
  if (s.core c).run = .running && (s.cell c).moving.isNone && s.awake then some (s.fetchAt c) else none

/-- A program that may issue fetches (R345). -/
def State.fetchProg (s : State) (p : Nat) : Option Instr :=
  match Tab.find s.imp.progs p with
  | none => none
  | some g =>
    if g.run ≠ .ready || !s.awake then none
    else if g.pc.toNat % 8 ≠ 0 then some .agentFetchFault
    else match g.image[g.pc.toNat / 8]? with
      | none => some .agentFetchFault
      | some w => some (criumOf (decodeCrium w))

/-- Instructions that write a register that plans read: a c or an s register. -/
def writesPlanned : Instr → Bool
  | .cnew .. | .cfork .. | .cfree .. | .sld .. | .scat .. | .ssub .. | .tokz .. | .detok .. | .genu .. => true
  | _ => false

/-- A program issues an instruction: where it writes a register that plans read, the plans are discarded (R319). -/
def State.issuing (s : State) (p : Nat) (i : Instr) : State := if writesPlanned i then s.dropPlans p else s

/-- Whether an instruction is an event that the agenda may name: a step of the rest of the device. Instructions with an
encoding, and the faults of decode and fetch, come about only at a fetch. -/
def isEvent : Instr → Bool
  | .vectorOpStart _ | .vectorOpComplete _ | .matrixOpStart _ | .matrixOpComplete _ | .copyOpStart _ | .copyOpComplete ..
  | .delivery _ | .arrival _ | .landing _ | .activationStart _ | .runQueuePromotion .. | .hangFault _ | .storePerform _
  | .remoteStoreArrival _ | .rapApply _ | .rapSequenceTimeout .. | .remoteRequest _ | .stairRequestTimeout _
  | .pageWalkComplete .. | .pinExpiry .. | .invalidationStart .. | .invalidationDone .. | .mergeWindowExpiry ..
  | .bankHoldExpiry .. | .rowRefresh .. | .statsClear _ | .traceClear _ | .faultPacket _ | .bankPacket _ | .resume _
  | .resumeWithSkip _ | .killActivation _ | .killJob _ | .migrateAndResume .. | .migrationHandover _
  | .proofDigestCompare _ | .processKill _ | .retireScratchpadBank .. | .retireVectorBank .. | .retireAccumulatorTile ..
  | .evacuationComplete _ | .inFieldTestFail _ | .impressionTrigger | .launchSubmit .. | .lqEntsWrite ..
  | .queueErrorClear .. | .descriptorRead .. | .launchPlacement .. | .districtWakeComplete _ | .districtGate _
  | .launchComplete .. | .cancelLaunch .. | .cancelGraph .. | .cancelJob _ | .waitcReread _ | .programDoorbell _
  | .programLoad .. | .programResume .. | .longInstructionReissue _ | .bindingWithdrawal _ | .compositorTablesRegister ..
  | .automatonRegister .. | .stepForm | .frisketMasks | .stepGraphPlace | .samplerReply .. | .samplingTimeout _
  | .stepCommit | .serviceDone _ | .fmCtlWrite _ | .coldReset | .bootStageVerify _ | .attestationRequest _
  | .droopDetect _ | .droopRecovery _ | .powerCapStretch | .registerWrite .. | .hostPortAttach _ | .powerWithinCap
  | .modelBindingRegister .. | .samplerTemplateRegister _ | .galleyPoolGrant _ | .liveMigration ..
  | .dieCacheSliceRetirement .. => true
  | _ => false

/-! ## Placing one instruction -/

/-- Whether bits of an instruction are read as a Crium word (log entry 10). -/
def wordIsCrium (nbits w : Nat) : Bool :=
  32 < nbits && (match decodeDamvon 32 (BitVec.ofNat 32 w) (BitVec.ofNat 32 (w / 2 ^ 32)) with
    | .ok _ => !isDouble (BitVec.ofNat 32 w)
    | _ => true)

/-- An activation of no launch (log entry 19). -/
def Activation.bare : Activation :=
  ⟨⟨0, 0, Vector.replicate 4 0, 0, false, false, false, 0, none⟩, 0, 0, true, 0, false, none⟩

/-- A device past its boot, and a cell 0 that runs, with the bytes at its pc below its execute-only boundary. -/
def State.placeDamvon (s : State) (bytes : List Byte) : State :=
  let pc := (s.core 0).pc.toNat
  let s1 := { s with agenda := [.cell 0], bsDone := setBitAt s.bsDone 3 true, faultPin := false, mem := memWrite s.mem (spBase 0 + pc) bytes }
  s1.updCore 0 (fun k => { k with run := .running, act := some (k.act.getD Activation.bare), xoTop := max k.xoTop (pc + 8) })

/-- A device past its boot, and a program 0 that may issue, with the word at its pc. -/
def State.placeCrium (s : State) (w : Word) : State :=
  let g := (Tab.find s.imp.progs 0).getD Prog.empty
  let n := g.pc.toNat / 8
  let img := (g.image.take n) ++ List.replicate (n - g.image.length) 0 ++ w :: g.image.drop (n + 1)
  { s with agenda := [.prog 0], bsDone := setBitAt s.bsDone 3 true, faultPin := false, imp := { s.imp with progs := Tab.set s.imp.progs 0 { g with image := img, run := .ready } } }

end Sys2Proof.Machine
end

