-- ==== Sys2Proof/Machine/Launch.lean ====
section
/-! DEFINITION. The launch unit: queues (R116), descriptors (R117 to R119, R125), graphs (R120), placement (R126), power gating (R127),
completion (R121, R131) and cancel (R130). -/

namespace Sys2Proof.Machine

/-! ## Queues -/

def lqIndex (asid q : Nat) : Nat := 64 * asid + q
def State.lq (s : State) (i : Nat) : LQ := Tab.get LQ.reset s.queues i
def State.updLq (s : State) (i : Nat) (f : LQ → LQ) : State := { s with queues := Tab.upd LQ.reset s.queues i f }

/-- Fields of lq.cfg (R116). -/
def LQ.asid (l : LQ) : Nat := fieldNat l.cfg 16 16
def LQ.diePref (l : LQ) : Nat := fieldNat l.cfg 12 2
def LQ.en (l : LQ) : Bool := bitAt l.cfg 11
def LQ.prio (l : LQ) : Nat := fieldNat l.cfg 0 3
/-- The priority at which a queue runs: queue 0 of ASID 0 is the Imposer's and runs at 7. -/
def LQ.level (l : LQ) (i : Nat) : Nat := if i = 0 then 7 else l.prio
/-- busy of lq.stat: a launch of the queue is in flight. -/
def State.lqBusy (s : State) (i : Nat) : Bool := s.launches.any (fun l => l.lq = i && l.stage ≠ .ended)

/-- A write of lq.tail (R116): it names the end of the submitted run, and never takes submissions back. -/
def LQ.submit (l : LQ) (v : Nat) : LQ :=
  let t := v % l.ents
  let run := fun (x : Nat) => (x + l.ents - l.head) % l.ents
  if run t < run l.tail then l else { l with tail := t }

/-- A write of lq.ents (R116). -/
def LQ.resize (l : LQ) (v : Nat) : LQ :=
  if l.en || l.head ≠ l.tail then l
  else { l with ents := if (List.range 13).any (fun k => v = 2 ^ (k + 4)) then v else 16, head := 0, tail := 0 }

def execLaunchSubmit (asid q : Nat) (v : Word) (s : State) : Out :=
  .next (s.updLq (lqIndex asid q) (fun l => l.submit v.toNat))
def execLqEntsWrite (asid q : Nat) (v : Word) (s : State) : Out :=
  .next (s.updLq (lqIndex asid q) (fun l => l.resize v.toNat))
/-- Reading goes on behind the rejected descriptor (R116). -/
def execQueueErrorClear (asid q : Nat) (s : State) : Out :=
  .next (s.updLq (lqIndex asid q) (fun l => { l with err := false }))

/-! ## Descriptors -/

/-- The fields of a descriptor (R117). -/
def Desc.ofBytes (b : List Byte) : Desc :=
  let f := fieldLe b
  let fl := f 15 1
  { code := f 0 8, codelen := f 8 4, nbind := f 12 2, prio := f 14 1, det := fl % 4, proof := fl / 4 % 2, glast := fl / 8 % 2,
    fb := fl / 16 % 2, bindtab := f 16 8, cols := f 24 1, rows := f 25 1, cols2 := f 26 1, rows2 := f 27 1, m := f 28 4,
    n := f 32 4, k := f 36 4, tm := f 40 2, tn := f 42 2, tk := f 44 2, vregs := f 46 2, footprint := f 48 4, dep := f 52 4,
    watchdog := f 56 8, succ := f 64 8, nsucc := f 72 2, gidx := f 74 2, footprint2 := f 76 4,
    args := [BitVec.ofNat 64 (f 80 8), BitVec.ofNat 64 (f 88 8), BitVec.ofNat 64 (f 96 8), BitVec.ofNat 64 (f 104 8)],
    notify := f 112 8, tm2 := f 120 2, tn2 := f 122 2, tk2 := f 124 2, vregs2 := f 126 2 }

def inRange (lo hi v : Nat) : Bool := lo ≤ v && v ≤ hi

/-- The limits of R117 and R125. -/
def Desc.ok (d : Desc) (flags : Nat) : Bool :=
  d.code % 4 = 0 && d.codelen % 4 = 0 && inRange 4 d.footprint d.codelen && inRange 1 512 d.nbind && d.prio ≤ 7 &&
  flags / 32 = 0 && d.bindtab % 8 = 0 && inRange 1 48 d.cols && inRange 1 32 d.rows && d.m ≥ 1 && d.n ≥ 1 && d.k ≥ 1 &&
  d.tm ≥ 1 && d.tn ≥ 1 && d.tk ≥ 1 && inRange 1 32 d.vregs && d.footprint % 64 = 0 && inRange 64 524288 d.footprint &&
  d.dep ≤ 1023 && d.succ % 2 = 0 && d.nsucc ≤ 255 && d.gidx ≤ 1023 && d.notify % 8 = 0 &&
  (if d.fb = 1 then
    inRange 1 48 d.cols2 && inRange 1 32 d.rows2 && d.footprint2 % 64 = 0 && inRange (max 64 d.codelen) d.footprint d.footprint2 &&
    d.tm2 ≥ 1 && d.tn2 ≥ 1 && d.tk2 ≥ 1 && inRange 1 d.vregs d.vregs2
  else
    d.cols2 = 0 && d.rows2 = 0 && d.footprint2 = 0 && d.tm2 = 0 && d.tn2 = 0 && d.tk2 = 0 && d.vregs2 = 0)

/-- A binding-table entry (R117). -/
def Bind.ofBytes (b : List Byte) : Bind :=
  let f := fieldLe b
  ⟨f 0 4, f 4 2, f 6 1, f 7 1 % 2 = 1, f 7 1 / 2 % 2 = 1, sextNat 32 (f 8 4), f 12 4⟩

def Bind.ok (b : Bind) (codelen ctl : Nat) : Bool :=
  b.handler % 4 = 0 && b.handler < codelen && b.entry ≤ 511 && b.prio ≤ 3 && ctl / 4 = 0 && (!b.barrier || b.entry ≤ 255) &&
  1 ≤ b.reload && b.reload ≤ 2 ^ 31 - 1

/-- Cuts a byte list into records. -/
def records (n : Nat) : Nat → List Byte → List (List Byte)
  | 0, _ => []
  | k + 1, b => b.take n :: records n k (b.drop n)

/-- Whether a region holds the grid of its declaration (R123). -/
def Desc.fits (d : Desc) (v : Division) : Bool :=
  ceilDiv d.n v.tn * ceilDiv d.k v.tk ≤ v.cols && ceilDiv d.m v.tm ≤ v.rows

def Desc.footprintOf (d : Desc) (fb : Bool) : Nat := if fb then d.footprint2 else d.footprint
def Desc.vregsOf (d : Desc) (fb : Bool) : Nat := if fb then d.vregs2 else d.vregs

/-- A cell's capacity and health against a declaration (R126, R155). -/
def State.holds (s : State) (c footprint vregs : Nat) : Bool :=
  let cl := s.cell c
  cl.fpCap ≥ footprint && cl.fpVcap ≥ vregs && !(s.dist (distOfCell c)).retired

def cellsOfDie (d : Nat) : List Nat := (List.range 1536).map (fun i => d * 1536 + i)

/-- Dies that a queue's preference allows (R116). -/
def LQ.dies (l : LQ) : List Nat := if l.diePref = 1 then [0] else if l.diePref = 2 then [1] else [0, 1]

/-- A die has enough qualifying cells, free or not (R119). -/
def State.dieHolds (s : State) (d : Nat) (de : Desc) (fb : Bool) : Bool :=
  ((cellsOfDie d).filter (fun c => s.holds c (de.footprintOf fb) (de.vregsOf fb))).length ≥
    (de.startedCells (de.division fb)).length

/-- The first test a declaration fails: region 0x05, then capacity 0x03 (R119). -/
def State.declFails (s : State) (l : LQ) (d : Desc) (fb : Bool) : Option Nat :=
  if !d.fits (d.division fb) then some 0x05
  else if l.dies.any (fun k => s.dieHolds k d fb) then none else some 0x03

/-- The division in use, or the cause of rejection (R125). -/
def State.divide (s : State) (l : LQ) (d : Desc) : Except Nat Bool :=
  match s.declFails l d false with
  | none => .ok false
  | some cause =>
    if d.fb ≠ 1 then .error cause
    else match s.declFails l d true with
      | none => .ok true
      | some c2 => .error c2

/-- The tables and the code image of a descriptor, or the cause of rejection (R117, R119). -/
def State.readTables (s : State) (die asid : Nat) (d : Desc) :
    Except Nat (List Bind × List Nat × List Byte) × State :=
  let (r1, s1) := s.sysRead die asid d.bindtab (16 * d.nbind)
  let (r2, s2) := s1.sysRead die asid d.succ (2 * d.nsucc)
  let (r3, s3) := s2.sysReadAs .fetch die asid d.code d.codelen
  match r1, r2, r3 with
  | .ok bt, .ok su, .ok code =>
    let recs := records 16 d.nbind bt
    let binds := recs.map Bind.ofBytes
    let ok := recs.all (fun r => (Bind.ofBytes r).ok d.codelen (fieldLe r 7 1)) &&
      decide ((binds.map (·.entry)).eraseDups.length = binds.length)
    if ok then (.ok (binds, (records 2 d.nsucc su).map leNat, code), s3) else (.error 0x01, s3)
  | _, _, _ => (.error 0x04, s3)

/-- A descriptor read into a launch (R117 to R119, R125). -/
def State.readDesc (s : State) (l : LQ) (die : Nat) :
    Except Nat (Bool × List Bind × List Nat × List Byte) × Option Desc × State :=
  match s.sysRead die l.asid (l.base.toNat + 128 * l.head) 128 with
  | (.error _, s1) => (.error 0x04, none, s1)
  | (.ok b, s1) =>
    let d := Desc.ofBytes b
    if !d.ok (fieldLe b 15 1) then (.error 0x01, some d, s1)
    else match s1.readTables die l.asid d with
      | (.error c, s2) => (.error c, some d, s2)
      | (.ok (binds, succs, code), s2) => match s2.divide l d with
        | .error c => (.error c, some d, s2)
        | .ok fb => (.ok (fb, binds, succs, code), some d, s2)

def Desc.blank : Desc := Desc.ofBytes []

/-- The launch of a read descriptor with its effective settings and the dies of its queue, as they are now (R116, R118). -/
def LQ.launch (l : LQ) (i : Nat) (d : Desc) (fb : Bool) (binds : List Bind) (succs : List Nat) (code : List Byte) : Launch :=
  { key := ⟨l.asid, i % 64, l.count % 2 ^ 32⟩, lq := i, desc := d, fb := fb, prio := min d.prio (l.level i),
    det := max d.det (fieldNat l.cfg 8 2), proof := d.proof = 1 || bitAt l.cfg 10, binds := binds, succs := succs, code := code,
    num := l.count, graph := l.gstart, dies := l.dies, dep := d.dep, stage := .collected, status := .pending, stray := 0, place := [], place2 := [],
    sleepy := [], retired := [] }

/-! ## Cancel (R130) -/

/-- A launch is no longer pending: its cells drop what is queued and retire at the end of what runs, idle ones at once. -/
def State.cancelCell (s : State) (k : LKey) (c : Nat) : State :=
  match (s.ctx c).launch with
  | none => s
  | some l =>
    if l.key ≠ k then s
    else
      let s1 := s.updCtx c (fun x => { x with
        launch := some { l with cancelled := true }, rq := Vector.replicate 4 [], later := [],
        bell := x.bell.map (fun p => (p.1, { p.2 with deferred := 0 })) })
      if (s1.core c).act.isNone && (s1.cell c).moving.isNone then s1.retireCell c else s1

def State.cancelOne (s : State) (k : LKey) : State :=
  match s.launchOf k with
  | none => s
  | some l =>
    if l.status ≠ .pending || l.stage = .ended then s
    else
      let s1 := s.updLaunch k (fun la => { la with status := .cancelled, sleepy := [] })
      (l.place ++ l.place2).foldl (fun st c => st.cancelCell k c) s1

def State.cancelWhere (s : State) (p : Launch → Bool) : State :=
  ((s.launches.filter p).map (·.key)).foldl State.cancelOne s

/-- A launch of a queue by sequence number. -/
def State.launchAt (s : State) (i seq : Nat) : Option Launch := s.launches.find? (fun l => l.lq = i && l.key.seq = seq)

/-- A launch of a queue is cancelled. -/
def State.cancelLaunch (s : State) (i seq : Nat) : State := s.cancelWhere (fun l => l.lq = i && l.key.seq = seq)

def execCancelLaunch (asid q seq : Nat) (s : State) : Out := .next (s.cancelLaunch (lqIndex asid q) seq)
/-- Its graph: members read already, and those that are read later (R130). -/
def State.cancelGraph (s : State) (l : Launch) : State :=
  let s1 := s.cancelWhere (fun m => m.lq = l.lq && m.graph = l.graph)
  if (s.lq l.lq).gstart = l.graph then s1.updLq l.lq (fun q => { q with gcut := true }) else s1

/-- The graph of a launch that has not completed. -/
def State.cancelGraphAt (s : State) (i seq : Nat) : State :=
  match s.launchAt i seq with
  | none => s
  | some l => if l.stage = .ended then s else s.cancelGraph l

def execCancelGraph (asid q seq : Nat) (s : State) : Out := .next (s.cancelGraphAt (lqIndex asid q) seq)

/-- A job cancel: every launch of the job, and reading stops (R130). -/
def State.cancelJob (s : State) (asid : Nat) : State :=
  ({ s with queues := s.queues.map (fun (p : Nat × LQ) =>
      (p.1, if p.1 / 64 = asid then { p.2 with cfg := setBitAt p.2.cfg 11 false } else p.2)) }).cancelWhere
    (fun l => l.lq / 64 = asid)

def execCancelJob (asid : Nat) (s : State) : Out := .next (s.cancelJob asid)

/-- A write of lq.cancel (R130). -/
def State.writeCancel (s : State) (asid q : Nat) (v : Word) : State :=
  let kind := fieldNat v 62 2
  let seq := fieldNat v 0 32
  if kind = 1 then s.cancelLaunch (lqIndex asid q) seq
  else if kind = 2 then s.cancelGraphAt (lqIndex asid q) seq
  else if kind = 3 then s.cancelJob asid else s

/-! ## Reading a descriptor, graphs (R119, R120) -/

/-- Whether a graph keeps R120. DESIGN CHOICE: a successor that is no launch of the graph breaks it too (log entry 78). -/
def graphOk (ls : List Launch) : Bool :=
  ls.length ≤ 1024 && allFrom (fun i (l : Launch) => l.desc.gidx = i) 0 ls &&
  ls.all (fun l => l.succs.all (fun g => g > l.desc.gidx && g < ls.length)) &&
  ls.all (fun l => l.desc.dep = (ls.map (fun m => (m.succs.filter (· = l.desc.gidx)).length)).sum)

def State.graphOf (s : State) (i g : Nat) : List Launch := s.launches.filter (fun l => l.lq = i && l.graph = g)

/-- A graph that has been read whole becomes eligible, or is rejected. -/
def State.closeGraph (s : State) (i g idx : Nat) : State :=
  if graphOk (s.graphOf i g) then
    { s with launches := s.launches.map (fun l => 
      if l.lq = i && l.graph = g && l.stage = .collected then { l with stage := .waiting } else l) }
  else
    { (s.updLq i (fun l => { l with err := true, errdesc := idx, cause := 0x02 })) with
      launches := s.launches.map (fun l =>
        if l.lq = i && l.graph = g && l.status = .pending then { l with status := .rejected } else l) }

/-- A launch joins the list; one that ended 2^32 descriptors ago leaves its number to it (R124). -/
def State.addLaunch (s : State) (l : Launch) : State :=
  { s with launches := s.launches.filter (fun m => !(m.lq = l.lq && m.key.seq = l.key.seq && m.stage = .ended)) ++ [l] }

/-- A launch of the graph that is over without having completed names the member as its successor (R130). -/
def orphaned (ms : List Launch) (gidx : Nat) : Bool :=
  ms.any (fun m => (m.status = .cancelled || m.status = .rejected) && m.succs.contains gidx)

/-- The die whose asid.base the launch unit translates under for a queue (R116). DESIGN CHOICE: die 1 where the queue prefers it, as lq.cfg
now says, else die 0 (log entry 88). -/
def LQ.tableDie (l : LQ) : Nat := if l.diePref = 2 then 1 else 0

/-- The launch unit reads the head descriptor of an enabled queue (R116 to R120). DESIGN CHOICE: a descriptor that cannot be read ends
its graph (log entry 78); a graph that was cancelled, or had a member rejected, before its last descriptor is read is not checked any more, and
its further members are cancelled (R120, R130; log entry 95). -/
def State.readHead (s : State) (i : Nat) : State :=
  let l := s.lq i
  if !l.en || l.err || l.head = l.tail then s
  else
    let die := l.tableDie
    let members := s.graphOf i l.gstart
    let (r, d, s1) := s.readDesc l die
    let last : Bool := match d with
      | some d => decide (d.glast = 1)
      | none => true
    let s2 := s1.updLq i (fun q => { q with
      head := (q.head + 1) % q.ents, count := q.count + 1, gstart := if last then q.count + 1 else q.gstart,
      gcut := q.gcut && !last })
    match r with
    | .error cause =>
      let s3 := s2.addLaunch { l.launch i (d.getD Desc.blank) false [] [] [] with status := .rejected }
      let s4 := s3.updLq i (fun q => { q with err := true, errdesc := l.head, cause := cause })
      s4.cancelWhere (fun m => m.lq = i && m.graph = l.gstart)
    | .ok (fb, binds, succs, code) =>
      let la := l.launch i (d.getD Desc.blank) fb binds succs code
      let s3 := s2.addLaunch la
      if l.gcut || members.any (fun m => m.status = .rejected) then s3.cancelOne la.key
      else
        let s4 := if last then s3.closeGraph i l.gstart l.head else s3
        if orphaned members la.desc.gidx then s4.cancelOne la.key else s4

def execDescriptorRead (asid q : Nat) (s : State) : Out := .next (s.whole (fun s => s.readHead (lqIndex asid q)))

/-! ## Placement (R126, R127, R143) -/

/-- Whether a launch is released: its counter is zero and the earlier graphs of its queue are complete (R120). -/
def State.released (s : State) (l : Launch) : Bool :=
  l.stage = .waiting && l.status = .pending && l.dep = 0 &&
  s.launches.all (fun m => m.lq ≠ l.lq || m.num ≥ l.graph || m.stage = .ended)

/-- A launch that the distributor considers before another (R126): higher priority, or earlier in the same queue at the same
one. DESIGN CHOICE: the rule bars lower priorities alone from passing a launch that waits; a queue's own order at one priority is kept
too (log entry 88). -/
def Launch.before (m l : Launch) : Bool := m.prio > l.prio || (m.prio = l.prio && m.lq = l.lq && m.num < l.num)

/-- A cell is free and qualifies for a launch. -/
def State.fitsCell (s : State) (l : Launch) (c : Nat) : Bool :=
  s.isFree c && (s.cell c).moving.isNone && s.holds c (l.desc.footprintOf l.fb) (l.desc.vregsOf l.fb)

/-- Free cells of a district that qualify. -/
def State.freeIn (s : State) (d : Nat) (l : Launch) : List Nat := (cellsOfDist d).filter (s.fitsCell l)

/-- How many districts of a list of capacities, largest first, hold `need` cells. -/
def coverCount : List Nat → Nat → Option Nat
  | _, 0 => some 0
  | [], _ + 1 => none
  | c :: t, n + 1 => (coverCount t (n + 1 - c)).map (· + 1)

/-- Numbers from the greatest down. -/
def insertDown (a : Nat) : List Nat → List Nat
  | [] => [a]
  | b :: t => if b < a then a :: b :: t else b :: insertDown a t
def sortDown (l : List Nat) : List Nat := l.foldr insertDown []

/-- The least cost of covering `need` with districts given as capacity and gating. -/
def leastCost (wake : Nat) (ds : List (Nat × Bool)) (need : Nat) : Option Nat :=
  let srt := fun (b : Bool) => sortDown ((ds.filter (fun d => d.2 = b && d.1 > 0)).map (·.1))
  let us := srt false
  let gs := srt true
  ((List.range (gs.length + 1)).filterMap (fun b =>
    (coverCount us (need - (gs.take b).sum)).map (fun a => a + b * (1 + wake)))).min?

/-- Districts of a least-cost placement, lowest numbers first. -/
def pickDistricts (wake : Nat) : List (Nat × Nat × Bool) → Nat → List Nat
  | [], _ => []
  | (d, cap, gated) :: t, need =>
    if need = 0 then []
    else
      let rest := t.map (fun x => (x.2.1, x.2.2))
      let cost := 1 + (if gated then wake else 0)
      let use := if cap = 0 then none else (leastCost wake rest (need - cap)).map (· + cost)
      match use, leastCost wake rest need with
      | some a, some b => if a ≤ b then d :: pickDistricts wake t (need - cap) else pickDistricts wake t need
      | some _, none => d :: pickDistricts wake t (need - cap)
      | none, _ => pickDistricts wake t need

/-- A district's free cells that qualify, and whether it counts as gated. DESIGN CHOICE: one that is still waking does (log entry 88). -/
def State.capOf (s : State) (l : Launch) (d : Nat) : Nat × Nat × Bool :=
  (d, (s.freeIn d l).length, (s.dist d).gated || (s.dist d).waking.isSome)

def distsOfDie (d : Nat) : List Nat := (List.range 24).map (fun i => d * 24 + i)

/-- The least-cost placement on a die: its cost and its cells in started order, none where too few are free. Within the chosen
districts the lowest cell numbers are taken (R126; log entry 33). -/
def State.placeOn (s : State) (l : Launch) (die need : Nat) : Option (Nat × List Nat) :=
  let caps := (distsOfDie die).map (s.capOf l)
  match leastCost s.ppWake.toNat (caps.map (fun x => (x.2.1, x.2.2))) need with
  | none => none
  | some cost =>
    let picked := pickDistricts s.ppWake.toNat caps need
    some (cost, ((cellsOfDie die).filter (fun c => picked.contains (distOfCell c) && s.fitsCell l c)).take need)

/-- Dies a launch may go to, where no launch considered before it is still waiting for cells (R126). DESIGN CHOICE: the Imposer leaves
the die of a step graph to queue 0's preference and the least cost (log entry 78). -/
def State.openDies (s : State) (l : Launch) : List Nat :=
  (l.dies.filter (fun d => s.dieHolds d l.desc l.fb)).filter (fun d =>
    !s.launches.any (fun m => s.released m && m.before l && m.dies.contains d && s.dieHolds d m.desc m.fb))

/-- Manhattan distance of two cells of one die (R12). -/
def manhattan (a b : Nat) : Nat :=
  (cxOf a - cxOf b) + (cxOf b - cxOf a) + (cyOf a - cyOf b) + (cyOf b - cyOf a)

/-- Partners for placed cells (R143): for each the lowest free cell of its die at distance two or more. -/
def pairUp (free : List Nat) : List Nat → Option (List Nat)
  | [] => some []
  | c :: t => match free.find? (fun p => dieOfCell p = dieOfCell c && manhattan p c ≥ 2) with
    | none => none
    | some p => (pairUp (free.filter (· ≠ p)) t).map (fun r => p :: r)

/-- The second cells of a proof launch. -/
def State.partners (s : State) (l : Launch) (place : List Nat) : Option (List Nat) :=
  if !l.proof then some []
  else
    let free := (place.map dieOfCell).eraseDups.flatMap (fun d => ((distsOfDie d).map (fun x => s.freeIn x l)).flatten)
    pairUp (free.filter (fun c => !place.contains c)) place

/-- The least-cost placement on a die with its second cells (R126, R143): cost, first and second cells. -/
def State.pairedOn (s : State) (l : Launch) (die : Nat) : Option (Nat × List Nat × List Nat) :=
  (s.placeOn l die (l.desc.startedCells (l.desc.division l.fb)).length).bind (fun p => (s.partners l p.2).map (fun q => (p.1, p.2, q)))

/-- First and second cells of a launch that can be placed now: on the die of least cost of those that can take it, die 0 on a tie. -/
def State.placement (s : State) (l : Launch) : Option (List Nat × List Nat) :=
  match (s.openDies l).filterMap (s.pairedOn l) with
  | [] => none
  | [a] => some a.2
  | a :: b :: _ => some (if b.1 < a.1 then b.2 else a.2)

/-- How many queues have their turn before a queue (R126): they follow the one served last at its priority, in order of number (log
entry 77). -/
def State.turnOf (s : State) (prio i : Nat) : Nat := (i + 2 ^ 22 - 1 - Tab.get (2 ^ 22 - 1) s.turns prio) % 2 ^ 22

/-- A launch of another queue of the same priority has its turn first and can be placed. -/
def State.waitsTurn (s : State) (l : Launch) : Bool :=
  s.launches.any (fun m => m.prio = l.prio && m.lq ≠ l.lq && s.released m && s.turnOf l.prio m.lq < s.turnOf l.prio l.lq &&
    (s.placement m).isSome)

/-- The bellboard of a launch start (R192). -/
def Launch.bellboard (l : Launch) : Tab Entry :=
  l.binds.foldl (fun t b => Tab.set t b.entry { Entry.reset with
    handler := b.handler, bound := !b.barrier, prio := BitVec.ofNat 2 b.prio, enable := b.enable, barrier := b.barrier,
    count := b.count, reload := b.reload }) []

/-- What a started cell holds of its launch (R123, R124). -/
def Launch.lctx (l : Launch) (number i j : Nat) (partner : Option Nat) (first : Bool) : LCtx :=
  let v := l.desc.division l.fb
  let (om, on, ok, em, en, ek) := l.desc.tile v i j
  { key := l.key, fb := l.fb, det := l.det, proof := l.proof, footprint := l.desc.footprintOf l.fb, vregs := l.desc.vregsOf l.fb,
    watchdog := if l.desc.watchdog = 0 then 2 ^ 32 else l.desc.watchdog, cx := i, cy := j, nx := v.cols, ny := v.rows,
    offM := om, offN := on, offK := ok, extM := em, extN := en, extK := ek,
    live := (l.desc.startedCells v).length, number := number, begun := 0, cancelled := false, cut := false, partner := partner, first := first }

/-- The waiting packets of every bank of a cell are looked at again (R111). -/
def State.drainAll (s : State) (t : Nat) : State := (List.range 16).foldl (fun st b => st.drainRaps t b 64) s

/-- A cell takes a launch: fresh registers (R185), bellboard, code image and boundary (R189), and expected sequences of 0 (R111). -/
def State.loadCell (s : State) (l : Launch) (c number i j : Nat) (partner : Option Nat) (first : Bool) : State :=
  let s1 := s.updCtx c (fun x => { Ctx.reset with
    core := { Core.reset with xoTop := roundUp l.desc.codelen 64 }, bell := l.bellboard, rapWait := x.rapWait,
    launch := some (l.lctx number i j partner first) })
  (s1.storePa 0xfff false (spBase c) l.code false).drainAll c

/-- The start message (R192, R105): a delivery to entry 0 with the args words. -/
def State.startMessage (s : State) (l : Launch) (c : Nat) : State :=
  match (s.ctx c).launch with
  | some x => if x.key = l.key && !x.cancelled then s.bellEvent c 0 true true (fun e => e.deliver 1 l.desc.args) else s
  | none => s

/-- Districts that wake for some cells (R127). -/
def State.wakeFor (s : State) (cells : List Nat) : State :=
  ((cells.map distOfCell).eraseDups).foldl (fun st d => st.updDist d (fun x =>
    if x.gated && x.waking.isNone then { x with waking := some s.now } else x)) s

/-- A released launch is placed (R126, R143), once the boot has let cells leave reset (R407): its cells are loaded, and started where their districts are awake. -/
def State.placeLaunch (s : State) (k : LKey) : State :=
  match s.launchOf k with
  | none => s
  | some l =>
    if !s.awake || !s.released l || s.waitsTurn l then s
    else match s.placement l with
      | none => s
      | some (p1, p2) =>
          let tiles := l.desc.startedCells (l.desc.division l.fb)
          let one := fun (first : Bool) (mine other : List Nat) (st : State) =>
            ((mine.zip tiles).zipIdx).foldl (fun st x =>
              st.loadCell l x.1.1 x.2 x.1.2.1 x.1.2.2 other[x.2]? first) st
          let s1 := { one false p2 p1 (one true p1 p2 s) with turns := Tab.set s.turns l.prio l.lq }
          let asleep := (p1 ++ p2).filter (fun c => (s.dist (distOfCell c)).gated)
          let s2 := s1.updLaunch k (fun la => { la with stage := .placed, place := p1, place2 := p2, sleepy := asleep })
          let s3 := s2.wakeFor asleep
          ((p1 ++ p2).filter (fun c => !asleep.contains c)).foldl (fun st c => st.startMessage l c) s3

def execLaunchPlacement (asid q seq : Nat) (s : State) : Out :=
  .next (match s.launchAt (lqIndex asid q) seq with
    | some l => s.placeLaunch l.key
    | none => s)

/-- A district has woken 2,100 cycles after its wake began (R127). -/
def State.wakeDone (s : State) (d : Nat) : State :=
  match (s.dist d).waking with
  | none => s
  | some t =>
    if s.now < t + 2100 then s
    else
      let s1 := s.updDist d (fun x => { x with gated := false, waking := none, freeSince := s.now })
      s1.launches.foldl (fun st l =>
        let up := l.sleepy.filter (fun c => distOfCell c = d)
        up.foldl (fun st c => st.startMessage l c)
          (st.updLaunch l.key (fun la => { la with sleepy := la.sleepy.filter (fun c => distOfCell c ≠ d) }))) s1

def execDistrictWakeComplete (district : Nat) (s : State) : Out := .next (s.wakeDone district)

/-- The Hall core, unless it has frozen, gates its district when its cells have been free for pp.ctl.idle cycles (R127). -/
def State.gateDist (s : State) (d : Nat) : State :=
  let x := s.dist d
  if s.ppGate && !s.isFrozen (hallOf d) && !x.gated && x.waking.isNone && (cellsOfDist d).all s.isFree && s.now ≥ x.freeSince + s.ppIdle.toNat then
    s.updDist d (fun x => { x with gated := true })
  else s

def execDistrictGate (district : Nat) (s : State) : Out := .next (s.gateDist district)

/-! ## Completion (R121, R131) -/

def statusCode : LStatus → Nat
  | .pending | .done => 1
  | .cancelled => 2
  | .rejected => 3

/-- Everything a launch's cells sent has performed (R105, R122). -/
def State.launchQuiet (s : State) (k : LKey) : Bool :=
  !s.net.any (fun p => p.launch = some k) && !s.cells.any (fun p => p.2.ctx.rapWait.any (fun w => w.pkt.launch = some k))

/-- A launch's counter has reached zero (R121): all its cells have retired and their effects have performed; a launch that never
was placed completes where it was cancelled or rejected. -/
def State.mayComplete (s : State) (l : Launch) : Bool :=
  l.stage ≠ .ended && s.launchQuiet l.key &&
  (if l.stage = .placed then l.retired.length = (l.place ++ l.place2).length else l.status ≠ .pending)

/-- The completion word at notify (R121). DEDUCED: its store meets a poison fault where the line it goes to is poisoned (log entry
79). -/
def State.notify (s : State) (l : Launch) : State :=
  if l.desc.notify = 0 || l.desc.notify % 8 ≠ 0 then s
  else
    let die := (s.lq l.lq).tableDie
    let bad := match s.sysPlace die l.key.asid l.desc.notify .store with
      | .ok pa => s.poisoned (pa / 64)
      | .error _ => false
    let (e, s1) := if bad then (some (.poison, l.desc.notify), s)
      else s.sysWrite die l.key.asid l.desc.notify (leBytes 8 (statusCode l.status + l.key.seq * 2 ^ 32))
    if e.isSome then s1.updLq l.lq (fun q => { q with nfault := true }) else s1

/-- Successors lose a dependence, or are cancelled with their predecessor (R120, R130). -/
def State.freeSuccessors (s : State) (l : Launch) : State :=
  l.succs.foldl (fun st g =>
    match st.launches.find? (fun m => m.lq = l.lq && m.graph = l.graph && m.desc.gidx = g) with
    | none => st
    | some m =>
      if l.status = .cancelled || l.status = .rejected then st.cancelOne m.key
      else st.updLaunch m.key (fun x => { x with dep := x.dep - 1 })) s

def State.completeLaunch (s : State) (k : LKey) : State :=
  match s.launchOf k with
  | none => s
  | some l =>
    if !s.mayComplete l then s
    else
      let l1 := { l with stage := .ended, status := if l.status = .pending then .done else l.status }
      let s1 := s.updLaunch k (fun la => { la with stage := l1.stage, status := l1.status })
      (s1.notify l1).freeSuccessors l1

def execLaunchComplete (asid q seq : Nat) (s : State) : Out :=
  .next (match s.launchAt (lqIndex asid q) seq with
    | some l => s.whole (fun s => s.completeLaunch l.key)
    | none => s)

end Sys2Proof.Machine
end

