-- ==== Sys2Proof/Machine/Migrate.lean ====
section
/-! DEFINITION. Moving a cell's context to another cell (R148, R149). -/

namespace Sys2Proof.Machine

/-- Removes a cell's packet from its Hall core's queue. -/
def State.takePacket (s : State) (c : Nat) : State :=
  s.updDist (distOfCell c) (fun d => { d with queue := d.queue.filter (fun p => p.cell ≠ c) })

/-- Whether the context of c may go to d (R148, R149). -/
def State.mayMigrate (s : State) (c d : Nat) : Bool :=
  match (s.ctx c).launch with
  | none => false
  | some l =>
    let cl := s.cell c
    c ≠ d && d < 3072 && dieOfCell c = dieOfCell d && s.isFree d && (s.cell d).moving.isNone && cl.moving.isNone &&
    s.holds d l.footprint l.vregs &&
    (cl.fwd.length < 16 || cl.fwd.any (fun f => f.key = l.key))

/-- A migration starts; the destination is reserved, and its district wakes where it is gated (R127). -/
def State.startMove (s : State) (c d : Nat) : State :=
  if s.mayMigrate c d then
    ((s.updCell c (fun cl => { cl with moving := some (d, s.now) })).updCell d (fun cl => { cl with taken := true })).wakeFor [d]
  else s

/-- An address in a cell's scratchpad window as it is in another's. -/
def movedPa (c d pa : Nat) : Nat := if spBase c ≤ pa && pa < spBase c + 0x80000 then pa - spBase c + spBase d else pa

/-- What a body to a cell's scratchpad is at another's. -/
def PBody.moved (c d : Nat) : PBody → PBody
  | .store pa va b => .store (movedPa c d pa) va b
  | .rap ty op q pa va v => .rap ty op q (movedPa c d pa) va v
  | b => b

/-- A launch's packet once a context of it has moved: sent from its new cell, and bound for it. -/
def Packet.moved (p : Packet) (key : LKey) (c d : Nat) : Packet :=
  if p.launch ≠ some key then p
  else
    let p1 := if p.src = c then { p with src := d } else p
    if p.node = 0 && p.dst = c then { p1 with dst := d, body := p1.body.moved c d } else p1

/-- What a cell of the launch has buffered and held for the moved context's scratchpad goes to its new cell (R149). -/
def Outgoing.moved (o : Outgoing) (key : LKey) (c d : Nat) : Outgoing :=
  { o with
    sb := o.sb.map (fun (e : SbEntry) => if e.own then e else { e with addr := movedPa c d e.addr })
    held := o.held.map (fun (h : Held) => { h with pkt := h.pkt.moved key c d })
    shadow := o.shadow.map (fun (h : Shadow) => { h with pa := movedPa c d h.pa }) }

/-- Scratchpad bytes and poison bits of a footprint move. -/
def State.moveScratch (s : State) (c d n : Nat) : State :=
  let s0 := s.touchBanks c 0 n
  let s1 := { s0 with mem := memWrite s0.mem (spBase d) (s0.read (spBase c) n) }
  (List.range (n / 64)).foldl (fun st i => st.setPoison (spBase d / 64 + i) (s0.poisoned (spBase c / 64 + i))) s1

/-- A frozen context's packet is sent again from its new cell. -/
def Core.renumber (k : Core) (d : Nat) : Core :=
  match k.run with
  | .frozen p _ t => { k with run := .frozen { p with cell := d } false t }
  | _ => k

/-- THE HANDOVER of a context (R149): everything R148 lists goes over, the trace ring's registers among it, the new cell's data cache holds
nothing that the context has not acquired (R115), where the new cell has retired from the launch before its tables name that retired cell by a number
of its own (R122), packets that wait at its banks find the context's sequences (R111), the vacated cell takes a forwarding entry, entries that name
the old cell are rewritten, what the context has sent keeps its order under its new number, and what its launch has sent to it, or still
buffers, goes to the new cell (R94, R97, R115). -/
def State.moveContext (s : State) (c d : Nat) : State :=
  match (s.ctx c).launch with
  | none => s
  | some l =>
    let key := l.key
    let x := s.ctx c
    let re := fun (p : Packet) => p.moved key c d
    let ren := fun (n : Nat) => if n = c then d else n
    let gone := fun (n : Nat) => if n = d then goneCell d else n
    let s1 := ((s.takePacket c).dropCompare c).moveScratch c d l.footprint
    let x1 := { x with core := x.core.renumber d,
                       rapWait := x.rapWait ++ (s.ctx d).rapWait
                       out := { x.out with shadow := [] } }
    let s2 := s1.updCell d (fun cl => { cl with ctx := x1, taken := false, trace := (s.cell c).trace, dcache := [] })
    let s3 := s2.updCell c (fun cl => { cl with
      ctx := Ctx.reset, trace := Trace.reset, moving := none, walked := [], fwd := cl.fwd.filter (fun (f : Fwd) => f.key ≠ key) })
    let s4 := { s3 with
      cells := s3.cells.map (fun (p : Nat × Cell) => (p.1, { p.2 with
        fwd := p.2.fwd.map (fun (f : Fwd) => if f.key = key && f.dst = c then { f with dst := d } else f)
        ctx := { p.2.ctx with
          rapWait := p.2.ctx.rapWait.map (fun (w : RapWait) => { w with pkt := re w.pkt })
          out := if p.2.ctx.launch.map (fun (l : LCtx) => l.key) = some key then p.2.ctx.out.moved key c d else p.2.ctx.out } }))
      net := s3.net.map re
      stair := s3.stair.map (fun (r : StairReq) => { r with cell := ren r.cell })
      launches := s3.launches.map (fun (m : Launch) => if m.key ≠ key then m else
        { m with place := m.place.map (ren ∘ gone), place2 := m.place2.map (ren ∘ gone), sleepy := m.sleepy.map ren,
                 retired := m.retired.map gone }) }
    let s5 := (s4.updCell c (fun cl => { cl with fwd := cl.fwd ++ [Fwd.mk key d] })).drainAll d
    let s6 := match s.partner c with
      | some q => s5.updCtx q (fun y => { y with launch := y.launch.map (fun m => { m with partner := some d }) })
      | none => s5
    if (cellsOfDist (distOfCell c)).all (fun t => (s6.ctx t).launch.isNone) then
      s6.updDist (distOfCell c) (fun y => { y with freeSince := s.now })
    else s6

/-- A context that has moved before its start message takes it once its cell's district is awake (R127, R192). -/
def State.startLate (s : State) (c : Nat) : State :=
  s.launches.foldl (fun st l => if !l.sleepy.contains c then st else
    (st.updLaunch l.key (fun la => { la with sleepy := la.sleepy.filter (· ≠ c) })).startMessage l c) s

/-- The least time of a migration (R148). -/
def LCtx.moveTime (l : LCtx) : Nat := l.footprint / 64 + 512

/-- MIGRATION_HANDOVER, once the destination's district is awake. A context whose launch was cancelled on the way retires where nothing runs. -/
def State.handover (s : State) (c : Nat) : State :=
  match (s.cell c).moving, (s.ctx c).launch with
  | some (d, t), some l =>
    if s.now < t + l.moveTime || (s.dist (distOfCell d)).gated then s
    else
      let s1 := (s.moveContext c d).startLate d
      if l.cancelled && (s1.core d).act.isNone then s1.retireCell d else s1
  | _, _ => s

def execMigrationHandover (c : Nat) (s : State) : Out := .next (s.handover c)

/-- The Attic migrates a context (R148). -/
def execLiveMigration (c dst : Nat) (s : State) : Out := .next (s.startMove c dst)

end Sys2Proof.Machine
end

