-- ==== Sys2Proof/Machine/Hall.lean ====
section
/-! DEFINITION. The Hall cores: packets and default decisions (R134, R138), the actions of dw.ctl (R137, R141, R142, R150), proof pairs
(R143, R144), and process kill. -/

namespace Sys2Proof.Machine

/-! ## Decisions (R138) -/

/-- A free cell of the die that could take a context. -/
def State.refuge (s : State) (c : Nat) : Option Nat := (cellsOfDie (dieOfCell c)).find? (fun d => s.mayMigrate c d)

/-- The matrix operation at the head of a cell's queue, where it loads a B panel or refills a tile. -/
def Ctx.operandFault (x : Ctx) : Bool := match x.mat.queue with
  | o :: _ => (match o.ins with
    | .mldb .. | .mfil .. => true
    | _ => false)
  | [] => false

/-- The action a Hall core decides on for a packet: 0 none, else the value of dw.ctl.act (R137, R138, R143, R144). TRAP and BKPT leave the cell
frozen, with a notice to the Attic, until system software acts on it (R138, R285). -/
def State.hallDecision (s : State) (p : FaultPkt) : Nat :=
  match Tab.find (s.dist (distOfCell p.cell)).policy p.cause with
  | some a => a
  | none =>
    if p.proof then (if p.cause = 0x1b then 4 else 3)
    else if p.cause = 0x04 || p.cause = 0x05 then 0
    else if p.cause = 0x09 then (if (s.refuge p.cell).isSome then 5 else 4)
    else if p.cause = 0x14 && p.eng = 2 && (s.ctx p.cell).operandFault then (if p.nonretry then 4 else 3)
    else 4

/-- The event that carries an action out. -/
def State.actionOf (s : State) (c a : Nat) : Option Act :=
  if a = 1 then some (.event (.resume c)) else if a = 2 then some (.event (.resumeWithSkip c))
  else if a = 3 then some (.event (.killActivation c)) else if a = 4 then some (.event (.killJob c))
  else if a = 5 then (s.refuge c).map (fun d => .event (.migrateAndResume c d)) else none

/-- Whether the Attic is told (R138). -/
def notifies (p : FaultPkt) (a : Nat) : Bool := !(p.cause = 0x09 || (p.cause = 0x14 && p.eng = 2 && a = 3))

/-- A frozen cell's packet reaches its Hall core, which decides (R134, R138); it waits while the queue is full, and while the Hall core
itself has frozen. The action's write joins the agenda. A Hall core's own fault is the Attic's to deal with. -/
def State.faultPacket (s : State) (c : Nat) : State :=
  match (s.core c).run with
  | .frozen p false since =>
    let d := distOfCell c
    if isHall c then (s.updCore c (fun k => { k with run := .frozen p true since })).notice (.fault p)
    else if (s.dist d).queue.length ≥ 64 || s.isFrozen (hallOf d) || !s.awake then s
    else
      let a := s.hallDecision p
      let s1 := (s.updCore c (fun k => { k with run := .frozen p true since })).updDist d (fun x => { x with queue := x.queue ++ [p] })
      let s2 := if notifies p a then s1.notice (.fault p) else s1
      match s2.actionOf c a with
      | some x => { s2 with agenda := s2.agenda ++ [x] }
      | none => s2
  | _ => s

def execFaultPacket (c : Nat) (s : State) : Out := .next (s.faultPacket c)

/-- A packet of a cell that is not frozen (R134, R147, R66): the Attic is told, no cell is acted on. -/
def State.bankArrives (s : State) (c : Nat) : State :=
  match (s.cell c).bankPk with
  | [] => s
  | p :: rest =>
    if (s.dist (distOfCell c)).queue.length ≥ 64 || s.isFrozen (hallOf (distOfCell c)) || !s.awake then s
    else (s.updCell c (fun cl => { cl with bankPk := rest })).notice (.fault p)

def execBankPacket (c : Nat) (s : State) : Out := .next (s.bankArrives c)

/-! ## Actions (R137) -/

/-- An action acts on a frozen cell only. -/
def State.onFrozen (s : State) (c : Nat) (go : State → State) : State :=
  if s.isFrozen c then go (s.takePacket c) else s

def execResume (c : Nat) (s : State) : Out := .next (s.onFrozen c (fun s => s.resumeCell c))

/-- Discards a faulting copy (R265, R137): its token completes and its completion, if any, is delivered. -/
def State.skipCopy (s : State) (c : Nat) : State :=
  match (s.cop c).flight.findIdx? (·.faulted) with
  | none => s
  | some k => match (s.cop c).flight[k]? with
    | none => s
    | some f =>
      let s1 := ((s.updCop c (fun e => { e with flight := e.flight.eraseIdx k })).stairDone c f.op.copyEng).completeTok c
        (tokOf f.op.ins) f.op.gen false false
      let w := f.op.slot 3
      let n := if wordAct w = 1 && !wordByBytes w then max 1 f.moved else f.moved
      match f.op.ins with
      | .cpy .. | .cpyg .. | .cpyr .. | .cpyc .. | .claim .. => if s.wordOk c w n false then s1.deliverWord c f n else s1
      | .cpym .. => if s.wordOk c w n true then s1.deliverServed c f (max 1 (((cpyrShape (f.op.slot 2)).map (·.1)).getD 1)) else s1
      | _ => s1

/-- Discards what faulted: the engine's head operation, or the scalar instruction at the pc (R137). DESIGN CHOICE: after a fetch fault its
length is that of the bytes that stand at the pc (R158; log entry 89). -/
def State.skipFault (s : State) (c eng : Nat) : State :=
  if eng = 1 then
    match (s.vec c).queue with
    | [] => s
    | o :: _ => (s.updVec c (fun e => { e with queue := e.queue.drop 1 })).completeTok c (tokOf o.ins) o.gen false false
  else if eng = 2 then
    match (s.ctx c).mat.queue with
    | [] => s
    | o :: _ => (s.updMat c (fun e => { e with queue := e.queue.drop 1 })).completeTok c (tokOf o.ins) o.gen false false
  else if eng = 3 then s.skipCopy c
  else s.advance c (if isDouble (BitVec.ofNat 32 (s.readNat (spBase c + s.pc c) 4)) then 8 else 4)

def State.skipResume (s : State) (c : Nat) : State :=
  match (s.core c).run with
  | .frozen p _ _ => (s.skipFault c p.eng).resumeCell c
  | _ => s

def execResumeWithSkip (c : Nat) (s : State) : Out := .next (s.onFrozen c (·.skipResume c))

/-! ## Kill job, process kill (R150) -/

/-- A frozen cell released with kill job: its held items are dropped and it retires; what a non-retriable activation had in its store
buffer still performs. -/
def State.releaseKill (s : State) (c : Nat) : State :=
  let s0 := if (s.ctx c).retriable then s else (s.flushStores c).release c
  let s1 := (s0.dropEngines c).updCtx c (fun x => { x with
    core := { x.core with run := .idle, act := none, loops := [] },
    out := { x.out with sb := [], held := [], firings := [], journal := [], record := [], start := none, ended := none } })
  (s1.takePacket c).retireCell c

/-- The cells of a job are cut: what runs in them drops its held items at its END (R150). -/
def State.cutJob (s : State) (asid : Nat) : State :=
  { s with cells := s.cells.map (fun p => (p.1, p.2.updCtx (fun x => { x with
      launch := x.launch.map (fun l => if l.key.asid = asid then { l with cut := true } else l) }))) }

/-- Every launch of a job is cancelled, its running activations are cut and its frozen cells are released (R130, R150). -/
def State.killJobOf (s : State) (asid : Nat) : State :=
  let s1 := (s.cancelJob asid).cutJob asid
  ((s1.cells.filter (fun p => s1.isFrozen p.1 && p.2.ctx.launch.any (fun l => l.key.asid = asid))).map (·.1)).foldl
    State.releaseKill s1

def State.killJob (s : State) (c : Nat) : State :=
  match (s.ctx c).launch with
  | none => s.releaseKill c
  | some l => s.killJobOf l.key.asid

def execKillJob (c : Nat) (s : State) : Out := .next (s.onFrozen c (fun s => s.killJob c))

/-- System software kills a process (R150): queues unmapped, so that only the count of their descriptors stays (R124) and a new graph begins
there, launches cancelled, frozen cells released, programs stopped at their next
token boundary; no answer to its requests is waited for. -/
def State.killProcess (s : State) (asid : Nat) : State :=
  let s1 := s.killJobOf asid
  let s2 := { s1 with
    sysReqs := s1.sysReqs.filter (fun r => r.asid ≠ asid)
    queues := s1.queues.map (fun (p : Nat × LQ) => (p.1, if p.1 / 64 = asid then { LQ.reset with count := p.2.count, gstart := p.2.count } else p.2))
    imp := { s1.imp with progs := s1.imp.progs.map (fun (p : Nat × Prog) =>
      (p.1, if p.2.asid = asid then { p.2 with killed := true } else p.2)) } }
  if s2.imp.step.isNone then s2.killAtBoundary else s2

def execProcessKill (asid : Nat) (s : State) : Out := .next (s.killProcess asid)

/-! ## Kill activation, proof pairs (R141 to R144) -/

/-- Failures so far of the trigger that a cell runs (R144). -/
def Ctx.missesNow (x : Ctx) : Nat := Tab.get 0 x.out.misses x.core.idAct.toNat

/-- Kills the activation of a cell of a proof pair; a frozen one remembers a failed operand (R147). -/
def State.killOne (s : State) (c : Nat) : State :=
  let ida := (s.core c).idAct.toNat
  (((s.rememberFailed c).takePacket c).updOut c (fun o => { o with misses := Tab.upd 0 o.misses ida (· + 1) })).killRetriable c

/-- Cells of some list for the contexts of two cells: free ones at distance two or more (R143). -/
def State.pairAmong (s : State) (a b : Nat) (cells : List Nat) : Option (Nat × Nat) :=
  let xs := cells.filter (fun d => s.mayMigrate a d)
  let ys := cells.filter (fun d => s.mayMigrate b d)
  xs.findSome? (fun x => (ys.find? (fun y => manhattan x y ≥ 2)).map (fun y => (x, y)))

/-- Whether a cell's district is gated. -/
def State.asleep (s : State) (c : Nat) : Bool := (s.dist (distOfCell c)).gated

/-- A fresh pair for the contexts of two cells: of awake districts of the die where there is one, else of any (R143). -/
def State.freshPair (s : State) (a b : Nat) : Option (Nat × Nat) :=
  let all := cellsOfDie (dieOfCell a)
  (s.pairAmong a b (all.filter (fun d => !s.asleep d))).or (s.pairAmong a b all)

/-- Two contexts go to their fresh pair: at once, or once the districts have woken (R127). -/
def State.movePair (s : State) (c q x y : Nat) : State :=
  if s.asleep x || s.asleep y then (s.startMove c x).startMove q y else (s.moveContext c x).moveContext q y

/-- Both activations of a pair are killed and their trigger goes to a fresh pair where one is free (R143); after the third failure for
one trigger the job is killed and both cells are reported (R144). -/
def State.killPair (s : State) (c q : Nat) : State :=
  let n := max (s.ctx c).missesNow (s.ctx q).missesNow + 1
  let asid := (s.ctx c).asid
  let s1 := (s.killOne c).killOne q
  if n ≥ 3 then (s1.killJobOf asid).notice (.proofCells c q)
  else match s1.freshPair c q with
    | some (x, y) => s1.movePair c q x y
    | none => s1

/-- Kill activation (R137): both of a proof pair while it holds the launch, else by R141 or R142. -/
def State.hallKill (s : State) (c : Nat) : State :=
  match s.partner c with
  | some q => if (s.ctx c).retriable then s.killPair c q else s.killActivation c
  | none => s.killActivation c

def execKillActivation (c : Nat) (s : State) : Out := .next (s.onFrozen c (fun s => s.hallKill c))

/-- The digests of a pair are compared (R143): equal, one copy of the items goes out; different, both are killed. In Attic-assisted mode one
record asks for it (R411): it names the pair's first cell and the activation's id.act. -/
def State.comparePair (s : State) (c : Nat) : State :=
  match (s.ctx c).launch with
  | none => s
  | some l => match s.partner c, (s.ctx c).out.ended with
    | some q, some (false, a) => match (s.ctx q).out.ended with
      | some (false, b) =>
        let h := if l.first then c else q
        s.viaAttic ((s.ctx c).out.assisted || (s.ctx q).out.assisted) 6 (dieOfCell h) h (s.ctx h).asid ((s.core h).idAct.toNat % 2 ^ 48) (fun s =>
          if a = b then
            (s.updOut c (fun o => { o with ended := some (true, a), held := if l.first then o.held else [] })).updOut q (fun o =>
              { o with ended := some (true, b), held := if l.first then [] else o.held })
          else s.killPair c q)
      | _ => s
    | _, _ => s

def execProofDigestCompare (c : Nat) (s : State) : Out := .next (s.comparePair c)

/-! ## Migrate and resume (R137, R138), and the action field -/

/-- Whether a cell has frozen with the over-capacity fault. -/
def Core.overCap (k : Core) : Bool := match k.run with
  | .frozen p _ _ => p.cause = 0x09
  | _ => false

/-- Migrate and resume. For an over-capacity fault another free cell serves where the chosen one has been taken, and the job is killed where
there is none (R138). -/
def State.migrateResume (s : State) (c dst : Nat) : State :=
  if !s.isFrozen c then s
  else
    let go := fun (d : Nat) => ((s.takePacket c).resumeCell c).startMove c d
    if s.mayMigrate c dst then go dst
    else if !(s.core c).overCap then s
    else match s.refuge c with
      | some d => go d
      | none => (s.takePacket c).killJob c

def execMigrateAndResume (c dst : Nat) (s : State) : Out := .next (s.migrateResume c dst)

/-- The action field of a write to dw.ctl that selects a cell (R137); the Hall core picks the destination of a migration. -/
def State.hallAction (s : State) (c a : Nat) : State :=
  if a = 1 then s.onFrozen c (·.resumeCell c)
  else if a = 2 then s.onFrozen c (·.skipResume c)
  else if a = 3 then s.onFrozen c (·.hallKill c)
  else if a = 4 then s.onFrozen c (·.killJob c)
  else if a = 5 then (match s.refuge c with
    | some d => s.migrateResume c d
    | none => s)
  else s

end Sys2Proof.Machine
end

