-- ==== Sys2Proof/Machine/Translation.lean ====
section
/-! DEFINITION. Page walks that end (R80, R82, R86, R87), pins that expire (R87), and invalidations (R84). -/

namespace Sys2Proof.Machine

/-- Puts a translation into a cache of so many entries; a full one gives up an unpinned entry that Config names (R82, R87). -/
def insertEntry (cap victim : Nat) (l : List TEntry) (e : TEntry) : List TEntry :=
  let l1 := l.filter (fun x => !(x.asid = e.asid && x.vbase = e.vbase && x.size = e.size))
  if l1.length < cap then l1 ++ [e]
  else
    let free := l1.filter (fun x => x.pin.isNone)
    match free[victim % max 1 free.length]? with
    | some v => l1.filter (fun x => x ≠ v) ++ [e]
    | none => l1

/-- Pins a cell holds (R87). -/
def Cell.pinCount (cl : Cell) : Nat := (cl.utlb.filter (fun e => e.pin.isSome)).length + cl.pins.length

/-- The pin that a micro-TLB's entry for a page carries. -/
def Cell.pinOf (cl : Cell) (e : TEntry) : Option Nat :=
  (cl.utlb.find? (fun x => x.asid = e.asid && x.vbase = e.vbase && x.size = e.size)).bind (·.pin)

/-- A waiting cell takes a translation: into its micro-TLB, pinned where a gather asked for it and a pin is left (R87); a pin that
holds the page already stays. -/
def State.installAt (s : State) (c : Nat) (gather : Bool) (e : TEntry) : State :=
  let v := Config.victim s.tick
  let s1 := s.updCell c (fun cl =>
    let pin := (cl.pinOf e).or (if gather && cl.pinCount < 32 then some s.now else none)
    { cl with utlb := insertEntry 64 v cl.utlb { e with pin := pin } })
  s1.updDist (distOfCell c) (fun d => { d with tlb := insertEntry 4096 v d.tlb { e with pin := none } })

/-- A waiting cell takes a failure: as a fault pin where a gather waits, for its access otherwise (R86). -/
def State.failAt (s : State) (c : Nat) (gather : Bool) (asid gran cause : Nat) : State :=
  s.updCell c (fun cl =>
    if gather then (if cl.pinCount < 32 then { cl with pins := cl.pins ++ [⟨asid, gran, cause, s.now⟩] } else cl)
    else { cl with walked := cl.walked ++ [(asid, gran, cause)] })

/-- A running invalidation of the die matches a walk's page or its result (R84). -/
def State.walkHit (s : State) (die : Nat) (w : Walk) (e : Option TEntry) : Bool :=
  (s.die die).inv.toList.any (fun i => i.busy && (i.meets w.asid false (w.gran * 65536) 65536 ||
    (match e with
    | some t => i.meets w.asid (bitAt t.flags 7) t.vbase t.size
    | none => false)))

/-- The result of a walk of a die is installed (R80, R82, R86), or discarded where an invalidation matched it (R84). -/
def State.landWalk (s : State) (die i : Nat) : State :=
  match (s.die die).walks[i]? with
  | none => s
  | some w =>
    let s1 := s.updDie die (fun d => { d with walks := d.walks.eraseIdx i })
    match s.walk die w.asid (w.gran * 65536) with
    | .ok e =>
      if w.discard || s.walkHit die w (some e) then s1
      else
        let s2 := s1.updDie die (fun d => { d with llt := insertEntry 131072 (Config.victim s.tick) d.llt e })
        w.cells.foldl (fun st p => st.installAt p.1 p.2 e) s2
    | .error cause =>
      if w.discard || s.walkHit die w none then s1
      else w.cells.foldl (fun st p => st.failAt p.1 p.2 w.asid w.gran cause) s1

/-- A walk ends, and its walker is free for a miss that waits (R83). -/
def State.finishWalk (s : State) (die i : Nat) : State := (s.landWalk die i).pumpWalks die

/-- A hardware walk ends; a walk that the Attic serves ends when the Attic says so (R85, R411). -/
def execPageWalkComplete (die i : Nat) (s : State) : Out :=
  .next (match (s.die die).walks[i]? with
    | some w => if w.svc.isSome then s else (s.walkTouch die w.asid (w.gran * 65536)).finishWalk die i
    | none => s)

/-- Pin i of a cell, translations first, expires after 65,536 cycles (R87). -/
def Cell.expire (cl : Cell) (now i : Nat) : Cell :=
  let held := cl.utlb.filter (fun e => e.pin.isSome)
  match held[i]? with
  | some e =>
    if e.pin.any (fun t => now < t + 65536) then cl
    else { cl with utlb := cl.utlb.map (fun x => if x = e then { x with pin := none } else x) }
  | none => match cl.pins[i - held.length]? with
    | some p => if now < p.since + 65536 then cl else { cl with pins := cl.pins.eraseIdx (i - held.length) }
    | none => cl

def execPinExpiry (c i : Nat) (s : State) : Out := .next (s.updCell c (fun cl => cl.expire s.now i))

def State.invSlot (s : State) (die slot : Nat) : InvSlot := (s.die die).inv.toList.getD slot InvSlot.reset
def State.updInv (s : State) (die slot : Nat) (f : InvSlot → InvSlot) : State :=
  s.updDie die (fun d => { d with inv := d.inv.set! slot (f (d.inv.toList.getD slot InvSlot.reset)) })

/-- A write to inv.ctl (R84; DESIGN CHOICE for a busy slot, log entry 71): glob, the clearing of done, and go, which a running invalidation ignores. Walks in flight that match
lose their results. -/
def State.invWrite (s : State) (die slot : Nat) (v : Word) : State :=
  let s1 := s.updInv die slot (fun i => { i with glob := bitAt v 1, done := i.done && !bitAt v 3 })
  if !bitAt v 0 || (s.invSlot die slot).busy then s1
  else
    let s2 := s1.updInv die slot (fun i => { i with busy := true })
    let i := s2.invSlot die slot
    s2.updDie die (fun d => { d with walks := d.walks.map (fun w =>
      { w with discard := w.discard || i.meets w.asid false (w.gran * 65536) 65536 }) })

def execInvalidationStart (die slot : Nat) (v : Word) (s : State) : Out := .next (s.invWrite die slot v)

/-- A store or arithmetic packet of a cell of the die, made under an ASID that the slot concerns; a Hall core's has no launch and ASID 0
(log entry 74). -/
def InvSlot.awaits (i : InvSlot) (die : Nat) (p : Packet) : Bool :=
  p.src < 3120 && dieOfCell p.src = die && (i.glob || (p.launch.map (·.asid)).getD 0 = i.asid.toNat % 65536) &&
    (match p.body with
    | .store .. => true
    | .rap .. => true
    | _ => false)

/-- Accesses that may have been translated by what the slot removes and have not performed: in store buffers, held, on their way, or
waiting at a bank (R84). -/
def State.invHeld (s : State) (die : Nat) (i : InvSlot) : Bool :=
  s.net.any (i.awaits die) ||
  s.cells.any (fun p =>
    p.2.ctx.rapWait.any (fun w => i.awaits die w.pkt) ||
    p.2.ctx.out.held.any (fun h => i.awaits die h.pkt) ||
    (dieOfCell p.1 = die && (i.glob || p.2.ctx.asid = i.asid.toNat % 65536) &&
      p.2.ctx.out.sb.any (fun e => 0x100000 ≤ e.va)))

/-- The invalidation completes once no such store is left: matching translations and pins of the die go, done is set (R84). -/
def State.invFinish (s : State) (die slot : Nat) : State :=
  let i := s.invSlot die slot
  if !i.busy || s.invHeld die i then s
  else
    let keep := fun (e : TEntry) => !i.removes e
    let s1 := { s with
      cells := s.cells.map (fun (p : Nat × Cell) => if dieOfCell p.1 ≠ die then p else
        (p.1, { p.2 with utlb := p.2.utlb.filter keep,
                         pins := p.2.pins.filter (fun q => !i.meets q.asid false (q.gran * 65536) 65536) }))
      dists := s.dists.map (fun (p : Nat × District) => if p.1 / 24 ≠ die then p else (p.1, { p.2 with tlb := p.2.tlb.filter keep })) }
    ((s1.updDie die (fun d => { d with llt := d.llt.filter keep })).updInv die slot (fun i =>
      { i with busy := false, done := true })).pumpWalks die

def execInvalidationDone (die slot : Nat) (s : State) : Out := .next (s.invFinish die slot)

end Sys2Proof.Machine
end

