-- ==== Sys2Proof/Machine/Device.lean ====
section
/-! DEFINITION. Boot and attestation (R407, R408), the host port (R409), function modes (R411, R412), droop and power (R413, R414). -/

namespace Sys2Proof.Machine

/-! ## Boot and attestation -/

/-- Cold reset (R6, R407): every part takes its reset value. What the model itself keeps, the agenda and the step number, goes on. -/
def execColdReset (s : State) : Out := .next { State.reset with agenda := s.agenda, tick := s.tick }

/-- Bytes of a signature, r then s (R407); it stands at the end of what it signs. -/
def sigBytes : Nat := 96

/-- Bytes of a public key: its two coordinates. -/
def keyBytes (q : Nat × Nat) : List Byte := beBytes 48 q.1 ++ beBytes 48 q.2

/-- Whether an image is signed for its stage (R407): under the key that the stage before it carries, for stage 1 the one whose digest is
fused; the key of stage 1 stands in flash beside its image. -/
def State.imageSigned (s : State) (stage : Nat) (image : List Byte) : Bool :=
  let key := Config.stageKey stage (if stage = 1 then image else (s.images[stage - 2]?).getD [])
  let n := image.length - sigBytes
  (stage ≠ 1 || decide (sha384 (keyBytes key) = Config.fusedKey)) && ecdsaOk key (image.take n) (image.drop n)

/-- Why an image of a stage is refused (R407), 0 where it is not: unreadable, signature, version. -/
def State.imageCause (s : State) (stage : Nat) (image : List Byte) : Nat :=
  if image.length < sigBytes + 4 then 3
  else if !s.imageSigned stage image then 1
  else if Config.imageVersion image < Config.minVersion stage then 2 else 0

/-- A Hall core runs the verified firmware (R13, R407). DESIGN CHOICE: from the foot of its scratchpad, below its execute-only boundary, as a
retriable activation of no launch, so of ASID 0 and without a watchdog (log entry 74). -/
def State.startHall (s : State) (code : List Byte) (d : Nat) : State :=
  if code = [] then s
  else
    { s with mem := memWrite s.mem (spBase (hallOf d)) code }.updCore (hallOf d) (fun k => { k with
      pc := 0, xoTop := roundUp code.length 64, run := .running, act := some { Activation.bare with began := s.now } })

/-- Stage 3 has been verified: every Hall core starts. -/
def State.startHalls (s : State) (image : List Byte) : State :=
  (List.range 48).foldl (fun st d => st.startHall ((Config.hallCode image).take 0x80000) d) s

/-- The next boot stage starts with its image (R407). A refused image is never run: the cause is recorded and the fault pin asserted. -/
def State.bootNext (s : State) (image : List Byte) : State :=
  let stage := s.bsStage.toNat + 1
  if s.faultPin || stage > 3 then s
  else
    let s1 := { s with bsStage := BitVec.ofNat 4 stage }
    let cause := s.imageCause stage image
    if cause = 0 then
      let s2 := { s1 with bsDone := setBitAt s.bsDone stage true, images := s.images ++ [image] }
      if stage = 3 then s2.startHalls image else s2
    else { s1 with bsCause := BitVec.ofNat 8 cause, faultPin := true }

def execBootStageVerify (image : List Byte) (s : State) : Out := .next (s.bootNext image)

/-- What an attestation report says (R408): the nonce, the digests and versions of stages 0 to 3 as loaded, the serial number. -/
def State.reportBody (s : State) (nonce : List Byte) : List Byte :=
  let imgs := (List.range 4).map (fun k => if k = 0 then Config.bootRom else (s.images[k - 1]?).getD [])
  fixLen 48 nonce ++ (imgs.map sha384).flatten ++ (imgs.map (fun i => leBytes 4 (Config.imageVersion i).toNat)).flatten ++
    leBytes 16 Config.serial.toNat

/-- An attestation report, signed with the device key (R408). -/
def State.report (s : State) (nonce : List Byte) : List Byte :=
  let body := s.reportBody nonce
  body ++ ecdsaSign Config.deviceKey (Config.signSecret s.tick) body

def execAttestationRequest (nonce : List Byte) (s : State) : Out := .next (s.notice (.report (s.report nonce)))

/-! ## The host port -/

/-- The whole 64-byte lines of a bound range: window address, size and host address. DESIGN CHOICE: ranges bind by lines, so that no piece of
an access runs past one (log entry 90). -/
def boundLines (r : Nat × Nat × Nat) : Nat × Nat × Nat :=
  let a := roundUp r.1 64
  (a, (r.1 + r.2.1 - a) / 64 * 64, r.2.2 + (a - r.1))

/-- A host attaches with the bound ranges of its window, or goes (R409). -/
def execHostPortAttach (ranges : Option (List (Nat × Nat × Nat))) (s : State) : Out :=
  .next { s with host := ranges.map (·.map boundLines) }

/-! ## Function modes -/

def execFmCtlWrite (v : Word) (s : State) : Out := .next { s with fmCtl := v.extractLsb' 0 7 }

/-- The walk that the Attic has served ends (R85). DESIGN CHOICE: with what the walk of R80 gives then (log entry 85). -/
def State.walkServed (s : State) (die sq : Nat) : State :=
  match (s.die die).walks.findIdx? (fun w => w.svc = some sq) with
  | some i => s.finishWalk die i
  | none => s

/-- A service record as it stands in the Attic's ring (R411). -/
def Service.bytes (r : Service) : List Byte :=
  leBytes 8 r.sq ++ leBytes 1 r.func ++ leBytes 1 r.die ++ leBytes 2 r.unit ++ leBytes 4 0 ++
    leBytes 8 (r.asid % 2 ^ 16 * 2 ^ 48 + r.addr % 2 ^ 48) ++ leBytes 8 0

/-- The Attic's service ring: the records that it has not answered, oldest first. -/
def State.serviceRing (s : State) : List Byte := ((s.svc.filter (fun r => !r.done)).map Service.bytes).flatten

/-- The Attic writes a record's sequence to svc.done (R411): a walk ends with it, sampling has been answered through the
port (R384, R385) and its step waits no more, any other function goes on when its unit next looks. -/
def State.served (s : State) (sq : Nat) : State :=
  match s.svc.find? (fun r => r.sq = sq) with
  | none => s
  | some r =>
    if r.func = 0 then { s with svc := s.svc.filter (fun x => x.sq ≠ sq) }.walkServed r.die sq
    else if r.func = 5 then { s with svc := s.svc.filter (fun x => x.sq ≠ sq) }
    else { s with svc := s.svc.map (fun x => if x.sq = sq then { x with done := true } else x) }

def execServiceDone (sq : Nat) (s : State) : Out := .next (s.served sq)

/-! ## Droop and power -/

/-- A district's clock is stretched from now on (R413, R414). -/
def District.stretch (d : District) (now : Nat) (already : Bool) : District :=
  if already then d else { d with stretchSince := now }

/-- It is not any more: its stretched cycles count. -/
def District.relax (d : District) (now : Nat) : District := { d with drCnt := satAdd64 d.drCnt (now - d.stretchSince) }

def State.droop (s : State) (d : Nat) : State :=
  s.updDist d (fun x => { x.stretch s.now (x.stretched || s.capStretch) with stretched := true })

def State.recover (s : State) (d : Nat) : State :=
  s.updDist d (fun x =>
    let y := if x.stretched && !s.capStretch then x.relax s.now else x
    { y with stretched := false })

def execDroopDetect (district : Nat) (s : State) : Out := .next (s.droop district)
def execDroopRecovery (district : Nat) (s : State) : Out := .next (s.recover district)

/-- Every district of the device. -/
def State.updDists (s : State) (f : District → District) : State := (List.range 48).foldl (fun st d => st.updDist d f) s

/-- The measured power exceeds the cap (R414): every district is stretched until it is within the cap again. -/
def State.capOn (s : State) : State :=
  if s.capStretch then s
  else { s.updDists (fun x => x.stretch s.now x.stretched) with capStretch := true, pcOver := true }

/-- It is within the cap again. -/
def State.capOff (s : State) : State :=
  if s.capStretch then { s.updDists (fun x => if x.stretched then x else x.relax s.now) with capStretch := false } else s

def execPowerCapStretch (s : State) : Out := .next s.capOn
def execPowerWithinCap (s : State) : Out := .next s.capOff

end Sys2Proof.Machine
end

