-- ==== Sys2Proof/Machine/Hbm.lean ====
section
/-! DEFINITION. Steps of the HBM ports and die caches (R74 to R78). -/

namespace Sys2Proof.Machine

/-- Lines of a 256-byte block. -/
def blockLines (blk : Nat) : List Nat := [4 * blk, 4 * blk + 1, 4 * blk + 2, 4 * blk + 3]

/-- Lines leave a die cache; dirty ones are written back (R74, R78). -/
def State.evictLines (s : State) (die : Nat) (gone : Nat → Bool) : State :=
  ((s.die die).lines.filter (fun p => gone p.1)).foldl (fun st p => st.dropLine die p.1) s

/-- A burst fills the lines of its block (R75). -/
def State.fillBlock (s : State) (die blk : Nat) : State := (blockLines blk).foldl (fun st l => st.cacheLine die l false) s

/-- A read burst brings a block in, and fires an injection that was armed at a line of it meanwhile (R75, R89). -/
def State.burstFill (s : State) (die blk : Nat) : State :=
  let d := s.die die
  (if d.einjArm && d.einjLine.toNat / 256 = blk then s.einjFire die (d.einjLine.toNat / 64) true else s).fillBlock die blk

/-- The place of the oldest request at a port that may have its burst, and the request; `older` stand before the list. -/
def Stack.next? (k : Stack) (older : List PortReq) : List PortReq → Option (Nat × PortReq)
  | [] => none
  | r :: q => if k.mayBurst older r then some (older.length, r) else k.next? (older ++ [r]) q

/-- The requests at a port have their bursts, each bank's in the order they came (R76, R77). A fill may add at most four writes of lines
that leave (R74). -/
def State.servePort (s : State) (k : Nat) : Nat → State
  | 0 => s
  | fuel + 1 =>
    match (s.stack k).next? [] (s.stack k).queue with
    | none => s
    | some (i, r) =>
      let s1 := s.updStack k (fun x => ({ x with queue := x.queue.eraseIdx i }).burst r s.now)
      State.servePort (match r with
        | .read blk _ _ => s1.burstFill (dieOfStack k) blk
        | .write _ => s1) k fuel

def State.pumpPort (s : State) (k : Nat) : State := s.servePort k (5 * (s.stack k).queue.length)

/-- The merge window of request i at a port ends 8 cycles after its first miss (R75): one burst, in its bank's order (R76, R77). -/
def State.windowEnd (s : State) (k i : Nat) : State :=
  match (s.stack k).queue[i]? with
  | some (.read blk t false) =>
    if s.now < t + 8 then s
    else (s.updStack k (fun x => { x with queue := x.queue.set i (.read blk t true) })).pumpPort k
  | _ => s

def execMergeWindowExpiry (stack i : Nat) (s : State) : Out := .next (s.windowEnd stack i)

/-- A bank's hold ends after rm.ctl.backoff cycles (R77). -/
def State.holdEnd (s : State) (k bank : Nat) : State :=
  let x := s.stack k
  match x.holds.find? (fun h => h.1 = bank) with
  | none => s
  | some (_, t) =>
    if s.now < t + x.backoff.toNat then s
    else (s.updStack k (fun x => { x with
      holds := x.holds.filter (fun h => h.1 ≠ bank), bocyc := satAdd64 x.bocyc x.backoff.toNat })).pumpPort k

def execBankHoldExpiry (stack bank : Nat) (s : State) : Out := .next (s.holdEnd stack bank)

/-- A refresh resets a row's count (R77). -/
def execRowRefresh (stack row : Nat) (s : State) : Out := .next (s.updStack stack (fun k => { k with acts := Tab.drop k.acts row }))

/-- ps.clr (R78). -/
def Stack.clear (k : Stack) : Stack := { k with rd := 0, wr := 0, merge := 0, alert := 0, bocyc := 0, ce := 0, ue := 0 }

def execStatsClear (stack : Nat) (s : State) : Out := .next (s.updStack stack Stack.clear)

/-- Writes of lines of a slice that wait at the die's ports. -/
def State.writesWait (s : State) (die slice : Nat) : Bool :=
  s.memStacks.any (fun p => dieOfStack p.1 = die && p.2.queue.any (fun r => match r with
    | .write l => (s.die die).sliceAt (sliceHash l) = slice
    | .read .. => false))

/-- A slice retires (R74): its lines are written back, and once none of these writes waits at a port its entries are rewritten to
live slices. -/
def State.retireSlice (s : State) (die slice : Nat) : State :=
  let s1 := s.evictLines die (fun l => (s.die die).sliceAt (sliceHash l) = slice)
  if s1.writesWait die slice then s1
  else s1.updDie die (fun d =>
    let dead := if d.deadSlices.contains slice then d.deadSlices else d.deadSlices ++ [slice]
    let live := (List.range 48).filter (fun x => !dead.contains x)
    let slices := if live = [] then d.slices else (List.range 256).foldl (fun t h =>
      if d.sliceAt h = slice then Tab.set t h (live.getD ((Config.victim s.tick + h) % live.length) 0) else t) d.slices
    { d with deadSlices := dead, slices := slices })

def execDieCacheSliceRetirement (die slice : Nat) (s : State) : Out := .next (s.retireSlice die slice)

end Sys2Proof.Machine
end

