-- ==== Sys2Proof/Machine/Long.lean ====
section
/-! DEFINITION. The long instructions: issue (R365 to R371), the generation parameter block (R323), what GENU commits and emits (R335,
R368, R369), CHOOSE's candidates (R371), and interrupted instructions issued again (R334). -/

namespace Sys2Proof.Machine

/-! ## The generation parameter block (R323, R338) -/

/-- Nodes of a tree by its branching (R338): the sum of the products up to the first zero. -/
def treeNodes : Nat → List Nat → Nat
  | _, [] => 0
  | _, 0 :: _ => 0
  | w, b :: t => w * b + treeNodes (w * b) t

/-- The branching a tree may have: at most 64 nodes (R338), at most 8 children a node (R380). -/
def branchOk (l : List Nat) : Bool := treeNodes 1 l ≤ 64 && (l.takeWhile (· ≠ 0)).all (· ≤ 8)

/-- A block's fields with its stop-string addresses; none where it breaks the table (R323). -/
def blockOf (b : List Byte) : Option (GenBlk × List Nat) :=
  let f := fieldLe b
  let flags := f 28 1
  let branch := (List.range 8).map (fun i => f (32 + i) 1)
  let addrs := (List.range (f 29 1)).map (fun i => f (64 + 8 * i) 8)
  let spec := flags / 2 % 2 = 1
  if f 8 4 < 0x7f800000 && 1 ≤ f 16 4 && f 16 4 ≤ 65536 && 1 ≤ f 20 4 && flags < 4 && f 29 1 ≤ 8 && f 30 2 = 0 && f 40 24 = 0 &&
      f 128 128 = 0 && addrs.all (fun a => a % 8 = 0) && (!spec || branchOk branch) then
    some ({ seed := BitVec.ofNat 64 (f 0 8), temp := BitVec.ofNat 32 (f 8 4), topk := f 12 4, topp := f 16 4, maxnew := f 20 4
            eos := f 24 4, incStop := flags % 2 = 1, spec := spec, branch := branch, stops := [] }, addrs)
  else none

/-- Reads the stop strings a block names; one of more than 64 bytes breaks the table. -/
def State.readStops (s : State) (p id : Nat) (go : State → List (List Nat) → State) : List Nat → List (List Nat) → State
  | [], acc => go s acc
  | a :: t, acc => s.pRead p a 4 (fun s h =>
      let n := leNat h
      if n > 64 then s.retireLong p id 0x16
      else s.pRead p (a + 4) n (fun s b => s.readStops p id go t (acc ++ [b.map BitVec.toNat])))

/-- Reads and checks the block of a context (R365, step 3): a broken one ends the instruction with PARAM. -/
def State.readBlock (s : State) (p id : Nat) (go : State → Option GenBlk → State) : State :=
  let g := (s.cx id).gen
  if g = 0 then go s none
  else s.pRead p g.toNat 256 (fun s b => match blockOf b with
    | none => s.retireLong p id 0x16
    | some (blk, addrs) => s.readStops p id (fun s stops => go s (some { blk with stops := stops })) addrs [])

/-! ## Pages -/

/-- Whether a chain needs a page for `upto` tokens: a new one, or a copy of a shared one (R325). -/
def State.needsPages (s : State) (id upto : Nat) : Bool :=
  let x := s.cx id
  let n := ceilDiv upto (s.tpp id)
  x.pages.length < n || ((x.pages.take n).drop (x.written / max 1 (s.tpp id))).any (fun pg => s.imp.share pg > 1)

/-- Pages for `upto` tokens, in Attic-assisted galley mode once the Attic has served the request (R411). -/
def State.tryPages (s : State) (p id upto : Nat) : PageRes :=
  if !s.needsPages id upto then .ok s
  else s.askAttic (bitAt s.imp.modes 1) 1 (p % 65536) (s.prog p).asid id (fun s => match s.ensurePages id upto with
    | some s1 => .ok s1
    | none => .dry s)

/-- Contexts that verify a tree with nodes: depth and number of the last node. -/
def State.trees (s : State) (ids : List Nat) : List (Nat × Nat × Nat) :=
  ids.filterMap (fun id =>
    let x := s.cx id
    if x.treeDone then x.tree.getLast?.map (fun n => (n.level, x.tree.length, id)) else none)

/-- The context whose tree loses a node (R342): the deepest level first, the highest number within it. -/
def deepest (l : List (Nat × Nat × Nat)) : Option Nat :=
  (l.foldl (fun r a => match r with
    | none => some a
    | some b => if b.1 < a.1 || (b.1 = a.1 && b.2.1 < a.2.1) then some a else some b) (none : Option (Nat × Nat × Nat))).map (·.2.2)

/-- A tree loses its last node and its chain the page that was for it. -/
def State.shrink (s : State) (id : Nat) : State :=
  let s1 := s.updCx id (fun x => { x with tree := x.tree.dropLast })
  let x := s1.cx id
  s1.cutChain id (max (ceilDiv x.tokens.length (s.tpp id)) (ceilDiv (x.tokens.length + x.tree.length + 1) (s.tpp id)))

/-- How late a program's turn comes in its ring. -/
def State.lateness (s : State) (p : Nat) : Nat :=
  let k := (s.prog p).cls
  let l := s.imp.ringOf k
  let at' := fun q => (l.findIdx? (· = q)).getD 0
  (at' p + l.length - at' ((s.imp.ringAt k).getD p)) % max 1 l.length

/-- The slot to park when the pool is dry (R342): lowest class, latest in its ring, of contexts with no row in the step; none where the
Cellar has no room for its entry (R326). -/
def State.dryVictim (s : State) (rows : List Nat) : Option Nat :=
  if s.cellarFull then none
  else
    let cands := s.parkable (fun id => !rows.contains id)
    ((cands.map (fun c => (c.1, s.lateness (s.cx c.2.2).owner, c.2.2))).foldl (fun r a => match r with
      | none => some a
      | some b => if a.1 < b.1 || (a.1 = b.1 && b.2.1 < a.2.1) then some a else some b) (none : Option (Nat × Nat × Nat))).map (·.2.2)

/-- Parks a context and marks it for re-append (R342). -/
def State.parkDry (s : State) (id : Nat) : State :=
  ((s.dropUnshared id).park id).updCx id (fun x => { x with reappend := true, written := 0 })

/-- Pages for a row or a commit by the three steps of R342. `need` gives its context and the tokens to have pages for, `rows` are the contexts
with a row in the step, `trees` those of them whose tree may still shrink. In Attic-assisted swapping mode the Attic parks (R411). -/
def State.getPages (s : State) (p : Nat) (need : State → Option (Nat × Nat)) (rows trees : List Nat) : Nat → PageRes
  | 0 => .dry s
  | n + 1 => match need s with
    | none => .wait s
    | some (id, upto) => match s.tryPages p id upto with
      | .dry s1 => match deepest (s1.trees trees) with
        | some t => (s1.shrink t).getPages p need rows trees n
        | none => match s1.dryVictim rows with
          | none => .dry s1
          | some v => s1.askAttic (bitAt s1.imp.modes 2) 2 (p % 65536) (s1.prog p).asid v (fun s2 => (s2.parkDry v).getPages p need rows trees n)
      | r => r

/-- Pages for a commit (R335, R342). While a step is in progress no slot is parked (R11): a dry pool makes the commit wait for the boundary,
where the steps of R342 are taken; no tree of a step is left to shrink there. -/
def State.commitPages (s : State) (p id upto : Nat) : PageRes :=
  if s.imp.step.isNone then s.getPages p (fun _ => some (id, upto)) [id] [] 1000000
  else match s.tryPages p id upto with
    | .dry s1 => .wait s1
    | r => r

/-! ## What GENU commits (R335, R368, R369) -/

def Context.fri (x : Context) : Fri := ⟨x.fState, x.fDepth, x.fStack⟩

/-- The automaton that constrains a context; none for 0xffff. -/
def State.autoOf (s : State) (x : Context) : Option Automaton := if x.fAuto = 0xffff then none else Tab.find s.imp.autos x.fAuto.toNat

/-- Adds elements to a string up to its limit; whether some did not fit. -/
def Str.push (u : Str) (l : List Nat) : Str × Bool := ({ u with data := u.data ++ l.take (maxStr - u.data.length) }, u.data.length + l.length > maxStr)

/-- emit of R369 for a committed token, and how GENU ends with it: 0 not at all, else the status. The write of s ends a plan that read it
(R319). -/
def State.emitTok (s : State) (p id : Nat) (ids : Bool) (out : SReg) (blk : GenBlk) (y : Nat) : State × Nat :=
  let x := s.cx id
  let eos := decide (y = blk.eos)
  let bytes := if eos then [] else match s.tablesOf id with
    | some t => t.bytesOf y
    | none => []
  let m := Matcher.feed blk.stops blk.incStop ((List.range blk.stops.length).map (stopCount x.progStop)) bytes
  let st := if m.hit.isSome then 3 else if eos then 2 else if x.progDone.toNat = blk.maxnew then 1 else 0
  let held := if st = 1 || st = 2 then heldBytes blk.stops m.counts else []
  let add := if ids then (if eos || (m.hit.isSome && !blk.incStop) then [] else [y]) else m.out ++ held
  let (u, spill) := ((s.prog p).str out).push add
  (((s.writeS p out u).dropPlans p).updCx id (fun x => { x with progStop := packCounts m.counts }), if st = 0 && spill then 1 else st)

/-- One token is committed: appended, counted, and the Frisket moved (R368). -/
def State.commitTok (s : State) (id y : Nat) (f : Option Fri) : State :=
  s.updCx id (fun x => { x with
    tokens := x.tokens ++ [y], progDone := x.progDone + 1, fState := (f.getD x.fri).st
    fDepth := (f.getD x.fri).depth, fStack := (f.getD x.fri).stack })

/-- A step's commit leaves the instruction going on. KV of an accepted node that does not lie at its token's position has been carried there
(R321, R324, R341; DEDUCED, log entry 62), so every token but the last has its KV; a context whose pages went with its parking has none, and its
string is prefilled again (R342, R365). -/
def State.afterCommit (s : State) (id : Nat) (draw : Word) : State :=
  (s.updCx id (fun x => { x with
    draw := draw, written := if x.reappend then x.written else x.tokens.length - 1, tree := [], level := 0, treeDone := false, draft := [] })).fitChain id

/-- Commits the tokens of a step in order (R368): traps before a token, ends after it. `first` says that no token of the step has
been committed yet. -/
def State.commitToks (s : State) (p id : Nat) (ids : Bool) (out : SReg) (blk : GenBlk) (a : Accept) : Bool → List Nat → State
  | _, [] =>
    let s1 := s.afterCommit id a.draw
    if a.trap ≠ 0 then s1.retireLong p id a.trap else s1
  | first, y :: t =>
    let x := s.cx id
    match (match s.autoOf x with
      | none => some none
      | some au => (au.move x.fri y).map some) with
    | none => (s.afterCommit id (if first then x.draw else a.draw)).retireLong p id 0x13
    | some f =>
      match (s.commitTok id y f).emitTok p id ids out blk y with
      | (s1, 0) => s1.commitToks p id ids out blk a false t
      | (s1, st) => (s1.afterCommit id a.draw).retireLong p id st

/-- GENU's commit of an acceptance. The chain takes the pages of the accepted path, and the live recurrent state is the snapshot of the
deepest node before the last token committed (R341, R366; log entry 62). -/
def State.commitGen (s : State) (p id : Nat) (a : Accept) : State :=
  match (s.prog p).ins, (s.cx id).gblk with
  | some (.genu ids _ out), some blk =>
    let n := (s.cx id).tokens.length
    let s1 := s.updCx id (fun x => { x with pages := if x.reappend then x.pages else relink (s.tpp id) n a.path x.pages })
    let s2 := s1.commitToks p id ids out blk a true a.toks
    s2.updCx id (fun x => { x with snap := if x.reappend then none else (a.path.take (x.tokens.length - n - 1)).getLast? })
  | _, _ => s

/-- Clears prog.accept's valid bit (R335). -/
def State.clearAccept (s : State) (id : Nat) : State :=
  s.updCx id (fun x => { x with accepted := none, progAccept := setBitAt x.progAccept 63 false })

/-- Whether a GENU consults the Compositor's tables: for text, or for stop strings (R362, R369). -/
def genuText (ids : Bool) (blk : Option GenBlk) : Bool := !ids || (match blk with
  | some b => b.stops ≠ []
  | none => false)

/-- Whether committing waits for the Compositor in its Attic-assisted mode (R411): GENU detokenises what it commits. -/
def State.detokWaits (s : State) (p id : Nat) : Bool := bitAt s.imp.modes 3 && (match (s.prog p).ins with
  | some (.genu ids ..) => genuText ids (s.cx id).gblk
  | _ => false)

/-- Finishes a valid prog.accept (R335): it waits, interrupted, where its pages or the Compositor wait for the Attic (R334, R411). -/
def State.finishAccept (s : State) (p id : Nat) : State :=
  match (s.cx id).accepted with
  | none => s
  | some a =>
    let wait := fun (s : State) => s.updProg p (fun g => { g with intr := true })
    match s.commitPages p id ((s.cx id).tokens.length + a.toks.length) with
    | .wait s1 => wait s1
    | .dry s1 => (s1.clearAccept id).retireLong p id 0x14
    | .ok s1 => match s1.askAttic (s1.detokWaits p id) 3 (p % 65536) (s1.prog p).asid id .ok with
      | .ok s2 => (s2.clearAccept id).commitGen p id a
      | .wait s2 | .dry s2 => wait s2

/-! ## First issue (R365 to R371) -/

/-- Tokens of a string that a long instruction feeds, or the cause of its stop (R362, R367). -/
def State.feedOf (s : State) (p id : Nat) (text : Bool) (r : SReg) : Except Nat (List Nat) :=
  let u := (s.prog p).str r
  if u.toks = text then .error 0x05
  else
    let ids := if text then ((s.tablesOf id).map (fun t => t.tokz u.data)).getD [] else u.data
    if ids.length > maxStr then .error 0x05
    else if ids.any (fun t => t ≥ s.vocab (s.cx id).binding) || (s.cx id).tokens.length + ids.length > 16777215 then .error 0x03
    else .ok ids

/-- The strings of several registers, or the first stop. -/
def State.feeds (s : State) (p id : Nat) (text : Bool) : List SReg → Except Nat (List (List Nat))
  | [] => .ok []
  | r :: t => match s.feedOf p id text r with
    | .error c => .error c
    | .ok l => match s.feeds p id text t with
      | .error c => .error c
      | .ok ls => .ok (l :: ls)

/-- The progress record of a first issue (R365, step 4). -/
def State.startProgress (s : State) (id op : Nat) (feed : List (List Nat)) (blk : Option GenBlk) : State :=
  s.updCx id (fun x => { x with
    progOp := BitVec.ofNat 8 op, progDone := 0, progStop := 0, progAccept := 0, status := 0x04, feed := feed, gblk := blk
    tree := [], level := 0, treeDone := false, draft := [], accepted := none })

/-- APPEND's last token is committed without a step (R366, R367). -/
def State.appendFinal (s : State) (p id : Nat) : State :=
  let x := s.cx id
  let rest := (x.feed.headD []).drop x.progDone.toNat
  match rest with
  | [y] =>
    if x.written < x.tokens.length then s
    else match s.commitPages p id (x.tokens.length + 1) with
      | .wait s1 => s1
      | .dry s1 => s1.retireLong p id 0x14
      | .ok s1 => (s1.updCx id (fun x => { x with tokens := x.tokens ++ [y], progDone := x.progDone + 1 })).retireLong p id 0x01
  | _ => s

/-- Candidate and best candidate in prog.stop (R371). -/
def chooseStop (best i : Nat) : Word := BitVec.ofNat 64 (best * 256 + i)

/-- The best fork becomes the context (R371). -/
def State.chooseDone (s : State) (p id : Nat) (dst : NReg) : State :=
  let x := s.cx id
  let best := fieldNat x.progStop 8 8
  match x.forkBest with
  | none => s.retireLong p id 0x01
  | some f =>
    let y := s.cx f
    let s1 := (s.cutChain id 0).updCx f (fun y => { y with pages := [] })
    let s2 := (s1.freeOne f).updCx id (fun x => { x with
      tokens := y.tokens, pages := y.pages, written := y.written, forkBest := none
      progDone := BitVec.ofNat 32 (x.feed.getD best []).length })
    (s2.writeN p dst (BitVec.ofNat 64 best)).retireLong p id 0x01

/-- A candidate has been scored (R371): it replaces the best where its sum is greater. -/
def State.candDone (s : State) (p id : Nat) (q : QReg) : State :=
  let x := s.cx id
  let i := fieldNat x.progStop 0 8
  let best := fieldNat x.progStop 8 8
  let w := (s.prog p).score (q + 1)
  if best = 0xff || Fl.cmp false w.xa.value ((s.prog p).score q).xa.value > 0 then
    let s1 := x.forkBest.toList.foldl (fun st f => st.freeOne f) (s.writeQ p q w)
    s1.updCx id (fun y => { y with progStop := chooseStop i (i + 1), progDone := 0, forkBest := x.forkCur, forkCur := none })
  else
    (x.forkCur.toList.foldl (fun st f => st.freeOne f) s).updCx id (fun y => { y with progStop := chooseStop best (i + 1), progDone := 0, forkCur := none })

/-- A candidate's temporary fork (R371); where it must copy a page, R357 and R411 apply. -/
def State.startCand (s : State) (p id : Nat) : PageRes :=
  if (s.cx id).forkCur.isSome then .ok s
  else s.askAttic (bitAt s.imp.modes 1 && s.copiesPage id) 1 (p % 65536) (s.prog p).asid id (fun s =>
    match s.forkContext id (s.cx id).seqn with
    | none => .dry s
    | some (f, s1) => .ok (s1.updCx id (fun x => { x with forkCur := some f })))

/-- What CHOOSE does without feeding a token (R371): a candidate of no tokens is scored at once with sum 0, and after the last candidate the
best one is taken. A candidate with tokens begins with its first row. -/
def State.nextCand (s : State) (p id : Nat) (dst : NReg) (q : QReg) : Nat → State
  | 0 => s
  | n + 1 =>
    let x := s.cx id
    let i := fieldNat x.progStop 0 8
    if i ≥ x.feed.length then s.chooseDone p id dst
    else if x.feed.getD i [] ≠ [] then s
    else match s.startCand p id with
      | .dry s1 => s1.retireLong p id 0x14
      | .wait s1 => s1.updProg p (fun g => { g with intr := true })
      | .ok s1 => ((s1.writeQ p (q + 1) ⟨XA.zero, false⟩).candDone p id q).nextCand p id dst q n

/-- The instruction's own first-issue actions, with its strings tokenised. -/
def State.firstActs (s : State) (p id : Nat) (ins : Instr) (blk : Option GenBlk) : State :=
  match ins with
  | .append text _ str => match s.feedOf p id text str with
    | .error c => s.stopProg p c 0 0
    | .ok l =>
      let s1 := (s.startProgress id 0x28 [l] blk).land p id
      if l = [] then s1.retireLong p id 0x01 else s1.appendFinal p id
  | .genu ids _ out => (((s.startProgress id 0x29 [] blk).writeS p out ⟨ids, []⟩).dropPlans p).land p id
  | .score text dst _ str => match s.feedOf p id text str with
    | .error c => s.stopProg p c 0 0
    | .ok l =>
      let s1 := ((s.startProgress id 0x2a [l] blk).writeQ p dst ⟨XA.zero, false⟩).land p id
      if l = [] then s1.retireLong p id 0x01 else s1
  | .choose text dst _ first n q =>
    match s.feeds p id text ((List.range n.toNat).map (fun k => first + BitVec.ofNat 4 k)) with
    | .error c => s.stopProg p c 0 0
    | .ok ls =>
      let s1 := ((s.startProgress id 0x2b ls blk).updCx id (fun x => { x with progStop := chooseStop 0xff 0 })).land p id
      s1.nextCand p id dst q 17
  | _ => s

/-- Whether a first issue needs the binding's Compositor tables (R362), and whether it tokenises text. -/
def needsTables (ins : Instr) (blk : Option GenBlk) : Bool × Bool :=
  match ins with
  | .append text .. => (text, text)
  | .score text .. => (text, text)
  | .choose text .. => (text, text)
  | .genu ids _ _ => (genuText ids blk, false)
  | _ => (false, false)

/-- What an instruction issued again does before it feeds (R334): CHOOSE goes on with what needs no row. -/
def State.resumeActs (s : State) (p id : Nat) (ins : Instr) : State :=
  match ins with
  | .choose _ dst _ _ _ q => if (s.cx id).forkCur.isNone then s.nextCand p id dst q 17 else s
  | _ => s

/-- Steps 3 and 4 of R365. -/
def State.issueRest (s : State) (p id : Nat) : State :=
  match (s.prog p).ins with
  | none => s
  | some ins =>
    s.readBlock p id (fun s blk =>
      let genu : Bool := match ins with
        | .genu .. => true
        | _ => false
      if genu && blk.isNone then s.retireLong p id 0x16
      else if (s.cx id).progOp.toNat = longOpcode ins then
        ((s.updCx id (fun x => { x with gblk := blk })).updProg p (fun g => { g with intr := false })).resumeActs p id ins
      else
        let (need, text) := needsTables ins blk
        if need && (s.tablesOf id).isNone then s.retireLong p id 0x15
        else (s.updProg p (fun g => { g with intr := true })).viaAttic (text && bitAt s.imp.modes 3) 3 0 (p % 65536) (s.prog p).asid id
          (fun s => (s.updProg p (fun g => { g with intr := false })).firstActs p id ins blk))

/-- Tokens of its string that a marked context has yet to prefill (R342, R365). -/
def Context.prefill (x : Context) : List Nat := if x.reappend then x.tokens.drop x.written else []

/-- Step 2 of R365: a marked context is prefilled first; with nothing left to prefill the mark goes and steps 3 and 4 follow. A prefill begins
with no pages of an earlier chain; one that was interrupted goes on behind what it has written. -/
def State.issueMarked (s : State) (p id : Nat) : State :=
  let x := s.cx id
  let s1 := if x.reappend && x.written = 0 && x.pages.length ≠ ceilDiv x.tokens.length (s.tpp id) then s.cutChain id 0 else s
  if x.prefill = [] then (s1.updCx id (fun x => { x with reappend := false })).issueRest p id
  else (s1.updProg p (fun g => { g with intr := false })).land p id

/-- The steps of R365 on a context: where its binding has gone the instruction ends with BINDING (R377); a valid prog.accept is
finished first. -/
def State.issueSteps (s : State) (p id : Nat) : State :=
  if (s.binding (s.cx id).binding).isNone then s.retireLong p id 0x15
  else
    let s1 := s.finishAccept p id
    if (s1.prog p).ins.isNone || (s1.cx id).accepted.isSome then s1 else s1.issueMarked p id

/-- ISSUE OF A LONG INSTRUCTION (R318, R365): the program issues nothing more until it retires. -/
def State.longIssue (s : State) (ins : Instr) (c : CReg) (needsToken : Bool) : Out :=
  let p := s.actProg
  .next (s.withCtx p c (fun s id =>
    if needsToken && (s.cx id).tokens = [] then s.stopProg p 0x03 0 0
    else s.whole (fun s => (s.updProg p (fun g => { g with run := .long ins, intr := false })).issueSteps p id)))

def execAppend (text : Bool) (c : CReg) (str : SReg) (s : State) : Out := s.longIssue (.append text c str) c false
def execGenu (ids : Bool) (c : CReg) (out : SReg) (s : State) : Out := s.longIssue (.genu ids c out) c true
def execScore (text : Bool) (dst : QReg) (c : CReg) (str : SReg) (s : State) : Out := s.longIssue (.score text dst c str) c true
def execChoose (text : Bool) (dst : NReg) (c : CReg) (first : SReg) (n : BitVec 8) (q : QReg) (s : State) : Out :=
  s.longIssue (.choose text dst c first n q) c true

/-! ## Issued again (R334) -/

/-- An interrupted long instruction is issued again at a token boundary, once its context has a slot. -/
def State.reissue (s : State) (p : Nat) : State :=
  if s.imp.step.isSome then s
  else match (s.prog p).longCtx with
    | none => s
    | some id =>
      let s1 := s.land p id
      if (s1.cx id).slot.isNone then s1 else if (s1.prog p).intr then s1.issueSteps p id else s1

def execLongInstructionReissue (p : Nat) (s : State) : Out := .next (s.whole (fun s => s.reissue p))

end Sys2Proof.Machine
end

