-- ==== Sys2Proof/Machine/Matrix.lean ====
section
/-! DEFINITION. Issue of the matrix instructions (R295): each enters the matrix engine's queue. What an operation then does,
MatrixOp.lean says. -/

namespace Sys2Proof.Machine

def execMlda (k : EngKeys) (t : MatTy) (l : LReg) (xa xs : XReg) (s : State) : Out :=
  .next (s.issueEng s.actCell (.mlda k t l xa xs) k)
def execMldb (k : EngKeys) (t : MatTy) (l : LReg) (xa xs : XReg) (s : State) : Out :=
  .next (s.issueEng s.actCell (.mldb k t l xa xs) k)
def execMgth (k : EngKeys) (t : MatTy) (l : LReg) (xa : XReg) (vb : VReg) (xs : XReg) (s : State) : Out :=
  .next (s.issueEng s.actCell (.mgth k t l xa vb xs) k)
def execMmac (k : EngKeys) (acc : AccSel) (la lb : LReg) (s : State) : Out :=
  .next (s.issueEng s.actCell (.mmac k acc la lb) k)
def execMzero (k : EngKeys) (acc : AccSel) (s : State) : Out :=
  .next (s.issueEng s.actCell (.mzero k acc) k)
def execMadv (k : EngKeys) (zero : Bool) (s : State) : Out :=
  .next (s.issueEng s.actCell (.madv k zero) k)
def execMspl (k : EngKeys) (acc : AccSel) (xa : XReg) (s : State) : Out :=
  .next (s.issueEng s.actCell (.mspl k acc xa) k)
def execMfil (k : EngKeys) (acc : AccSel) (xa : XReg) (s : State) : Out :=
  .next (s.issueEng s.actCell (.mfil k acc xa) k)
def execMdrn (k : EngKeys) (t : DrainTy) (acc : AccSel) (xa xs xr : XReg) (adv : Bool) (r : Rnd) (s : State) : Out :=
  .next (s.issueEng s.actCell (.mdrn k t acc xa xs xr adv r) k)
def execMepi (k : EngKeys) (xa : XReg) (s : State) : Out :=
  .next (s.issueEng s.actCell (.mepi k xa) k)
def execMrtg (k : EngKeys) (op : MrtgOp) (s : State) : Out :=
  .next (s.issueEng s.actCell (.mrtg k op) k)
def execMstat (k : EngKeys) (xd : XReg) (stray : Bool) (clr : Bool) (s : State) : Out :=
  .next (s.issueEng s.actCell (.mstat k xd stray clr) k)

end Sys2Proof.Machine
end

