-- ==== Sys2Proof/Machine/MatrixOp.lean ====
section
/-! DEFINITION. What a matrix operation does when the engine starts it (R301 to R311), its faults in order (R312), freshness
(R297), and its start and completion (R295). -/

namespace Sys2Proof.Machine

def State.mat (s : State) (c : Nat) : MatEng := (s.ctx c).mat

def State.matDone (s : State) (c : Nat) (f : MatEng → MatEng) : Got XWrites := .ok (s.updMat c f) []

/-! ## Latches and tiles -/

/-- Bytes of a group (R290, R301): one block, or 16 BF16 elements. -/
def MatTy.groupBytes : MatTy → Nat
  | .pb2 => 6
  | .pb4 => 10
  | .pb7 => 16
  | .bf16 => 32

/-- Element i of a group's encoded bytes (R47). -/
def MatTy.elem (t : MatTy) (g i : Nat) : Fl :=
  match t with
  | .pb2 => PbTy.elem .pb2 g i
  | .pb4 => PbTy.elem .pb4 g i
  | .pb7 => PbTy.elem .pb7 g i
  | .bf16 => FloatTy.bf16.decode (g / 2 ^ (16 * i) % 2 ^ 16)

/-- A NaN block (R48); a BF16 group is none. -/
def MatTy.nanGroup (t : MatTy) (g : Nat) : Bool := t ≠ .bf16 && pbIsNan g

def MatEng.latch (m : MatEng) (l : LReg) : Latch := if l = 0 then m.l0 else m.l1
def MatEng.setLatch (m : MatEng) (l : LReg) (v : Latch) : MatEng :=
  let m1 := if l = 0 then { m with l0 := v } else { m with l1 := v }
  { m1 with freshl := setBitAt m1.freshl l.toNat true }

/-- Elements of a row, zeros beyond what the latch holds (R290), for K = 16 × n. -/
def Latch.row (x : Latch) (r n : Nat) : List Fl :=
  ((List.range n).map (fun g =>
    let v := if g < x.kg then (Tab.get 0 x.rows (64 * r + g)).toNat else 0
    (List.range 16).map (fun i => if v = 0 then Fl.fin false 0 0 else MatTy.elem (x.fmt.getD .pb4) v i))).flatten

def MatEng.tile (m : MatEng) (i : Nat) : Tile := m.tiles.toList.getD i Tile.zero
def MatEng.setTile (m : MatEng) (i : Nat) (t : Tile) : MatEng := { m with tiles := m.tiles.set! i t }
def Tile.at (t : Tile) (n : Nat) : XA := Tab.get XA.zero t.acc n

/-- A tile from its 256 accumulators and tags. -/
def Tile.ofFn (f : Nat → XA) (tags : BitVec 16) : Tile :=
  ⟨(List.range 256).filterMap (fun n => if f n = XA.zero then none else some (n, f n)), tags⟩

/-- The tile an instruction names, by itself or through its ring pointer (R291). -/
def accIndex (a : AccSel) (ptr : BitVec 2) : Nat := match a with
  | .tile i => i.toNat
  | .ring => ptr.toNat

/-- The over-capacity check (R298), then the operation on the tile. -/
def State.onTile (s : State) (c i : Nat) (go : Got XWrites) : Got XWrites :=
  if i ≥ (s.cell c).acap then .fault s 0x09 0 0 else go

/-- An operation that adds to a tile: where the tile is not fresh, the activation becomes non-retriable first (R297). -/
def State.accumulating (s : State) (c i : Nat) (go : State → Got XWrites) : Got XWrites :=
  if bitAt (s.mat c).fresht i then go s
  else
    let s1 := s.goNonretriable c
    if (s1.ctx c).retriable then .wait s1 else go s1

/-! ## Loading operands (R301 to R303) -/

/-- A load's shape register (R301): rows, groups and stride; none where it breaks the rule. -/
def loadShape (xs : Word) : Option (Nat × Nat × Int) :=
  let kg := fieldNat xs 0 7
  if fieldNat xs 12 20 ≠ 0 || bitAt xs 7 || kg = 0 || kg > 64 then none
  else some (fieldNat xs 8 4 + 1, kg, sextNat 32 (fieldNat xs 32 32))

/-- The latch that rows of bytes make (R301). -/
def latchOf (t : MatTy) (kg : Nat) (rows : List (Nat × List Byte × Bool)) : Latch :=
  let bsz := MatTy.groupBytes t
  let group := fun (b : List Byte) g => leNat ((b.drop (bsz * g)).take bsz)
  { fmt := some t, kg := kg
    tags := rows.foldl (fun (w : BitVec 16) r =>
      if r.2.2 || (List.range kg).any (fun g => MatTy.nanGroup t (group r.2.1 g)) then setBitAt w r.1 true else w) 0
    rows := (rows.map (fun r => (List.range kg).filterMap (fun g =>
      let v := group r.2.1 g
      if v = 0 then none else some (64 * r.1 + g, BitVec.ofNat 256 v)))).flatten }

/-- The bytes of runs as rows, once read. -/
def loadedRows (runs : List (Nat × Int × Nat)) (rs : List ReadPiece) : List (Nat × List Byte × Bool) :=
  runs.map (fun r => (r.1, rowBytes rs r.1, rowPoison rs r.1))

def runPieces (runs : List (Nat × Int × Nat)) : List Piece :=
  (runs.map (fun r => piecesOf r.1 r.2.1.toNat r.2.2)).flatten

/-- MLDA (R301, R302). -/
def State.loadA (s : State) (c : Nat) (t : MatTy) (l : LReg) (base : Nat) (xs : Word) : Got XWrites :=
  match loadShape xs with
  | none => .fault s 0x13 0 0
  | some (rows, kg, stride) =>
    let runs := (List.range rows).map (fun (r : Nat) => (r, (base : Int) + r * stride, kg * MatTy.groupBytes t))
    match firstBad 2 runs with
    | some (r, a) => .fault s 0x13 a r
    | none => (s.loadPieces c 2 (runPieces runs)).bind (fun s rs =>
        s.matDone c (fun m => m.setLatch l (latchOf t kg (loadedRows runs rs))))

/-- The first piece on a poisoned line, whatever its page (R302). -/
def firstPoison (ls : List (Piece × Loc)) (rs : List ReadPiece) : Option Piece :=
  ((ls.zip rs).find? (fun p => p.2.poison)).map (fun p => p.1.1)

/-- Whether a poisoned operand was the one that an earlier attempt of this activation failed on (R147, R302). -/
def State.failedBefore (s : State) (c : Nat) (o : EngOp) : Bool :=
  match (s.core c).act with
  | some a => a.rerun && (s.mat c).failed.contains (a.idAct, o.ins, o.xs)
  | none => false

/-- A second failure is reported at END (R147). -/
def State.noteSecond (s : State) (c : Nat) (p : Piece) : State :=
  s.updCore c (fun k => { k with act := k.act.map (fun a => { a with second := some (BitVec.ofNat 64 p.va) }) })

/-- MLDB (R301, R302): poison stops it wherever it lies; the re-run that meets it again tags every row. -/
def State.loadB (s : State) (c : Nat) (o : EngOp) (t : MatTy) (l : LReg) (base : Nat) (xs : Word) : Got XWrites :=
  match loadShape xs with
  | none => .fault s 0x13 0 0
  | some (rows, kg, stride) =>
    let runs := (List.range rows).map (fun (r : Nat) => (r, (base : Int) + r * stride, kg * MatTy.groupBytes t))
    match firstBad 2 runs with
    | some (r, a) => .fault s 0x13 a r
    | none => (s.locate c 2 .load (runPieces runs)).bind (fun s ls =>
        let (s1, rs, _) := s.readPieces c 2 ls
        let x := latchOf t kg (loadedRows runs rs)
        match firstPoison ls rs with
        | none => s1.matDone c (fun m => m.setLatch l x)
        | some p =>
          if s1.failedBefore c o then (s1.noteSecond c p).matDone c (fun m => m.setLatch l { x with tags := BitVec.allOnes 16 })
          else .fault s1 0x14 (BitVec.ofNat 64 p.va) p.idx)

/-- Lane r of MGTH's index register. Where a vector operation is under way that is not joined, the lane is read before or after its write
(R296). -/
def State.gatherIndex (s : State) (c : Nat) (vb : VReg) (r : Nat) : Nat :=
  let e := s.vec c
  if (e.queue.head?.any (·.started)) && Config.raceLane s.tick r then laneOf 32 e.was[vb.toNat] r else laneOf 32 (e.reg vb) r

/-- MGTH (R303). -/
def State.loadGather (s : State) (c : Nat) (t : MatTy) (l : LReg) (base : Nat) (vb : VReg) (xs : Word) : Got XWrites :=
  match loadShape xs with
  | none => .fault s 0x13 0 0
  | some (rows, kg, stride) =>
    let e := s.vec c
    let len := kg * MatTy.groupBytes t
    let runs := (List.range rows).filterMap (fun r =>
      let n := s.gatherIndex c vb r
      if n = 2 ^ 32 - 1 then none else some (r, (base : Int) + n * stride, len))
    let lo := (s.core c).xoTop
    let hi := (s.cell c).fpCap
    match runs.find? (fun (r : Nat × Int × Nat) => !((lo : Int) ≤ r.2.1 && r.2.1 + (r.2.2 : Int) ≤ (hi : Int) && r.2.1 % 2 = 0)) with
    | some r => .fault s 0x13 (BitVec.ofInt 64 r.2.1) r.1
    | none => (s.loadPieces c 2 (runPieces runs)).bind (fun s rs =>
        let x := latchOf t kg (loadedRows runs rs)
        s.matDone c (fun m => m.setLatch l (if e.vtag vb then { x with tags := BitVec.allOnes 16 } else x)))

/-! ## Accumulating (R304, R305) -/

/-- Contributions of one accumulator of an MMAC: the exact products of a row of A and a row of B (R304). -/
def dot (a b : List Fl) : Contrib := Contrib.zero.addAll (List.zipWith Fl.mul a b)

/-- The 256 sets of contributions of an MMAC (R304). -/
def MatEng.products (m : MatEng) (la lb : LReg) : List Contrib :=
  let a := m.latch la
  let b := m.latch lb
  let n := max a.kg b.kg
  let rb := (List.range 16).map (fun j => b.row j n)
  ((List.range 16).map (fun i => let ra := a.row i n; rb.map (dot ra))).flatten

/-- MMAC (R304, R53). -/
def State.mmac (s : State) (c i : Nat) (la lb : LReg) : Got XWrites :=
  let m := s.mat c
  let t := m.tile i
  let ks := m.products la lb
  let k := fun n => ks.getD n Contrib.zero
  if (List.range 256).any (fun n => (t.at n).leaves (k n)) then
    .fault (s.updMat c (fun m => { m.setTile i (Tile.ofFn (fun n =>
      if (t.at n).leaves (k n) then { t.at n with cg := true } else t.at n) t.tags) with cg := true })) 0x0a 0 0
  else
    let tags := t.tags ||| (m.latch la).tags ||| (if (m.latch lb).tags = 0 then 0 else BitVec.allOnes 16)
    s.matDone c (fun m => m.setTile i (Tile.ofFn (fun n => (t.at n).accum (k n)) tags))

/-- A tile established as zero (R305, R297). -/
def MatEng.zeroTile (m : MatEng) (i : Nat) : MatEng :=
  { m.setTile i Tile.zero with fresht := setBitAt m.fresht i true }

/-- A ring pointer moved on (R291). -/
def ringNext (p : BitVec 2) (acap : Nat) : BitVec 2 := BitVec.ofNat 2 ((p.toNat + 1) % (max 1 acap))

/-! ## Spill and fill (R306) -/

/-- Bytes of a row of a tile's image (R54). -/
def Tile.rowImage (t : Tile) (i : Nat) : List Byte := ((List.range 16).map (fun j => (t.at (16 * i + j)).bytes)).flatten

/-- Rows of the image as runs: 16 of 1,280 bytes, and the tag-word line. -/
def imageRuns (a : Nat) : List (Nat × Int × Nat) :=
  (List.range 16).map (fun (i : Nat) => (i, ((a + 1280 * i : Nat) : Int), 1280)) ++ [(16, ((a + 20480 : Nat) : Int), 64)]

def State.spill (s : State) (c i a : Nat) : Got XWrites :=
  match firstBad 64 (imageRuns a) with
  | some (_, w) => .fault s 0x13 w 0
  | none => (s.locate c 2 .store (runPieces (imageRuns a))).bind (fun s ls =>
      let t := (s.mat c).tile i
      let row := fun (st : State) (r : Nat) (b : List Byte) (tag : Bool) =>
        st.writeRow c 2 8 (cutBytes (ls.filter (fun p => p.1.idx = r)) b) tag
      let s1 := (List.range 16).foldl (fun st r => row st r (t.rowImage r) (bitAt t.tags r)) s
      .ok (row s1 16 (leBytes 64 t.tags.toNat) false) [])

/-- The tile that an image holds (R306). -/
def tileOfImage (rs : List ReadPiece) : Tile :=
  let word := leNat ((rowBytes rs 16).take 2)
  let tags := (List.range 16).foldl (fun (w : BitVec 16) r =>
    if word / 2 ^ r % 2 = 1 || rowPoison rs r then setBitAt w r true else w) 0
  let rows := (List.range 16).map (rowBytes rs)
  Tile.ofFn (fun n => XA.ofBytes ((rows.getD (n / 16) []).drop (80 * (n % 16)))) tags

def MatEng.fillTile (m : MatEng) (i : Nat) (t : Tile) : MatEng :=
  { m.setTile i t with fresht := setBitAt m.fresht i true }

def State.fillOp (s : State) (c : Nat) (o : EngOp) (i a : Nat) : Got XWrites :=
  match firstBad 64 (imageRuns a) with
  | some (_, w) => .fault s 0x13 w 0
  | none => (s.locate c 2 .load (runPieces (imageRuns a))).bind (fun s ls =>
      match s.readPieces c 2 ls with
      | (s1, rs, none) => s1.matDone c (fun m => m.fillTile i (tileOfImage rs))
      | (s1, rs, some p) =>
        if s1.failedBefore c o then
          (s1.noteSecond c p).matDone c (fun m => m.fillTile i { tileOfImage rs with tags := BitVec.allOnes 16 })
        else .fault s1 0x14 (BitVec.ofNat 64 p.va) p.idx)

/-! ## The epilogue and the drain (R307 to R309) -/

/-- A run of own scratchpad at or above xo.top and below fp.cap. -/
def State.ownRun (s : State) (c a n : Nat) : Bool := (s.core c).xoTop ≤ a && a + n ≤ (s.cell c).fpCap

/-- The configuration of a descriptor; none where a field breaks its table (R307). -/
def epiOf (d : List Byte) : Option Epi :=
  let w := fun o => leNat ((d.drop o).take 4)
  let ctl := w 136
  let lo := w 128
  let hi := w 132
  let c := ctl / 16 % 32
  let fl := FloatTy.f32.decode
  let clampOk := !(fl lo).isNan && !(fl hi).isNan && Fl.cmp false (fl lo) (fl hi) ≤ 0
  let sel := leNat ((d.drop 144).take 8)
  if ctl ≥ 512 || ctl % 4 = 3 || c > 16 || w 140 ≠ 0 || leNat (d.drop 152) ≠ 0 || (ctl % 4 = 2 && !clampOk) ||
      (c > 0 && sel % 64 ≠ 0) then none
  else some
    { scale := (List.range 16).map (fun j => BitVec.ofNat 32 (w (4 * j)))
      bias := (List.range 16).map (fun j => BitVec.ofNat 32 (w (64 + 4 * j)))
      lo := BitVec.ofNat 32 lo, hi := BitVec.ofNat 32 hi, act := BitVec.ofNat 2 ctl, sc := ctl / 4 % 2 = 1
      bi := ctl / 8 % 2 = 1, c := c, sel := BitVec.ofNat 64 sel }

/-- MEPI (R307). -/
def State.mepi (s : State) (c : Nat) (xa : Word) : Got XWrites :=
  let a := xa.toNat % 2 ^ 52
  if a % 64 ≠ 0 || !s.ownRun c a 256 then .fault s 0x13 xa 0
  else
    let s0 := [0, 64, 128, 192].foldl (fun st o => st.touchScratch c (a + o)) s
    let (d, s1) := s0.mixRead c 2 (spBase c + a) (s0.read (spBase c + a) 256)
    match epiOf d with
    | none => .fault s1 0x13 xa 0
    | some e =>
      if e.c > 0 && !s1.ownRun c e.sel.toNat 2112 then .fault s1 0x13 xa 0
      else s1.matDone c (fun m => { m with epi := e, lists := [], listTy := none })

/-- The value the epilogue makes of an accumulator of column j, before its one rounding (R308). -/
def Epi.value (e : Epi) (a : XA) (j : Nat) : Fl :=
  let fl := fun (b : BitVec 32) => FloatTy.f32.decode b.toNat
  let z := a.value
  let z := if e.sc then Fl.mul z (fl (e.scale.getD j 0)) else z
  let z := if e.bi then Fl.add .rne z (fl (e.bias.getD j 0)) else z
  if z.isNan then z
  else if e.act = 1 && Fl.cmp false z (Fl.ofInt 0) < 0 then Fl.ofInt 0
  else if e.act = 2 then
    let z := if Fl.cmp false z (fl e.lo) < 0 then fl e.lo else z
    if Fl.cmp false z (fl e.hi) > 0 then fl e.hi else z
  else z

/-- A drain's shape register (R308): rows, columns, stride. -/
def drainShape (xs : Word) : Option (Nat × Nat × Int) :=
  if fieldNat xs 12 20 ≠ 0 || fieldNat xs 4 4 ≠ 0 then none
  else some (fieldNat xs 0 4 + 1, fieldNat xs 8 4 + 1, sextNat 32 (fieldNat xs 32 32))

/-- Order of list entries (R309): true where (v, i) stands before (u, k). -/
def listBefore (t : DrainTy) (v u : Nat × Nat) : Bool :=
  let o := match t.float? with
    | some f => Fl.cmp false (f.decode v.1) (f.decode u.1)
    | none => if sextNat 32 v.1 < sextNat 32 u.1 then -1 else if sextNat 32 v.1 > sextNat 32 u.1 then 1 else 0
  o > 0 || (o = 0 && v.2 < u.2)

def listInsert (t : DrainTy) (v : Nat × Nat) : List (Nat × Nat) → List (Nat × Nat)
  | [] => [v]
  | u :: r => if listBefore t v u then v :: u :: r else u :: listInsert t v r

/-- An offer to a list of at most c entries (R309). -/
def listOffer (t : DrainTy) (c : Nat) (l : List (Nat × Nat)) (v : Nat × Nat) : List (Nat × Nat) :=
  (listInsert t v (l.filter (fun u => u.2 ≠ v.2))).take c

/-- One drained row: values of its columns, its tag, whether an S32 value saturated (R308). -/
def drainRow (t : DrainTy) (r : Rnd) (e : Epi) (tile : Tile) (row cols : Nat) : List Nat × Bool × Bool :=
  let ys := (List.range cols).map (fun j => drainFl t r (e.value (tile.at (16 * row + j)) j))
  (ys.map (·.1), bitAt tile.tags row || ys.any (·.2.1), ys.any (·.2.2))

/-- The lines of the select area for `cols` columns and its mask line (R309). -/
def selectLines (lists : Tab (List (Nat × Nat))) (cols : Nat) : List (Nat × List Byte) :=
  let col := fun j => Tab.get [] lists j
  let slots := fun (f : Option (Nat × Nat) → Nat) j => ((List.range 16).map (fun k => leBytes 4 (f ((col j)[k]?)))).flatten
  let idx := fun (o : Option (Nat × Nat)) => match o with
    | some p => p.2
    | none => 2 ^ 32 - 1
  let val := fun (o : Option (Nat × Nat)) => match o with
    | some p => p.1
    | none => 0
  let mask := (List.range 64).foldl (fun m b =>
    if (List.range 16).any (fun j => (col j).any (fun p => p.2 = b)) then m + 2 ^ b else m) 0
  (List.range cols).map (fun j => (64 * j, slots idx j)) ++ (List.range cols).map (fun j => (1024 + 64 * j, slots val j)) ++
    [(2048, leBytes 64 mask)]

/-- MDRN (R308, R309). -/
def State.drainOp (s : State) (c : Nat) (t : DrainTy) (i base : Nat) (xs xr : Word) (adv : Bool) (r : Rnd) : Got XWrites :=
  match drainShape xs with
  | none => .fault s 0x13 0 0
  | some (rows, cols, stride) =>
    let z := (DrainTy.lane t).width / 8
    let runs := (List.range rows).map (fun (k : Nat) => (k, (base : Int) + k * stride, cols * z))
    match firstBad z runs with
    | some (k, a) => .fault s 0x13 a k
    | none => (s.locate c 2 .store (runPieces runs)).bind (fun s ls =>
        let m := s.mat c
        let e := m.epi
        if e.c > 0 && !s.ownRun c e.sel.toNat 2112 then .fault s 0x13 e.sel 0
        else
          let tile := m.tile i
          let out := (List.range rows).map (fun k => drainRow t r e tile k cols)
          let s1 := (List.range rows).foldl (fun st k =>
            let o := out.getD k ([], false, false)
            st.writeRow c 2 z (cutBytes (ls.filter (fun p => p.1.idx = k)) ((o.1.map (leBytes z)).flatten)) o.2.1) s
          let lists0 := if e.c > 0 && m.listTy.any (· ≠ t) then [] else m.lists
          let lists := if e.c = 0 then lists0 else (List.range rows).foldl (fun ls k =>
            let o := out.getD k ([], false, false)
            if o.2.1 then ls
            else (List.range cols).foldl (fun ls j =>
              Tab.set ls j (listOffer t e.c (Tab.get [] ls j) (o.1.getD j 0, (fieldNat xr 0 32 + k) % 2 ^ 32))) ls) lists0
          let s2 := if e.c = 0 then s1 else (selectLines lists cols).foldl (fun st l =>
            st.writeRow c 2 (if l.1 = 2048 then 8 else 4) [(.own (e.sel.toNat + l.1), l.2)] false) s1
          let acap := (s.cell c).acap
          s2.matDone c (fun m => { m with lists := lists, listTy := if e.c = 0 then m.listTy else some t
                                          sat := m.sat || out.any (·.2.2)
                                          tail := if adv then ringNext m.tail acap else m.tail }))

/-! ## Tags and status (R310, R311) -/

/-- mx.stat (R293). -/
def State.mxStat (s : State) (c : Nat) : Word :=
  let m := s.mat c
  BitVec.ofNat 64 (2 ^ 13 * (s.cell c).acap + 2 ^ 11 * b2n m.cg + 2 ^ 10 * b2n m.sat + 2 ^ 8 * m.freshl.toNat +
    2 ^ 4 * m.fresht.toNat + 4 * m.tail.toNat + m.head.toNat)

/-- The stray count of the cell's launch (R122, R311). -/
def State.strayOf (s : State) (c : Nat) : Nat :=
  match ((s.ctx c).launch.map (·.key)).bind s.launchOf with
  | some l => l.stray
  | none => 0

def State.mrtg (s : State) (c : Nat) (op : MrtgOp) (x : Word) : Got XWrites :=
  match op with
  | .get xd a => s.onTile c a.toNat (.ok s [(xd.toNat, ((s.mat c).tile a.toNat).tags.zeroExtend 64)])
  | .put a _ => s.onTile c a.toNat (s.accumulating c a.toNat (fun s =>
      s.matDone c (fun m => m.setTile a.toNat { m.tile a.toNat with tags := x.truncate 16 })))
  | .or a _ => s.onTile c a.toNat (s.accumulating c a.toNat (fun s =>
      s.matDone c (fun m => m.setTile a.toNat
        { m.tile a.toNat with tags := (m.tile a.toNat).tags ||| x.truncate 16 })))

/-- A matrix operation (R301 to R311). -/
def State.matPerform (s : State) (c : Nat) (o : EngOp) : Got XWrites :=
  let m := s.mat c
  match o.ins with
  | .mlda _ t l _ _ => s.loadA c t l (o.addr 1) (o.slot 2)
  | .mldb _ t l _ _ => s.loadB c o t l (o.addr 1) (o.slot 2)
  | .mgth _ t l _ vb _ => s.loadGather c t l (o.addr 1) vb (o.slot 3)
  | .mmac _ acc la lb =>
    let i := accIndex acc m.head
    s.onTile c i (s.accumulating c i (fun s => s.mmac c i la lb))
  | .mzero _ acc => s.onTile c (accIndex acc m.head) (s.matDone c (fun m => m.zeroTile (accIndex acc m.head)))
  | .madv _ zero =>
    let acap := (s.cell c).acap
    s.onTile c m.head.toNat (s.matDone c (fun m =>
      let m1 := { m with head := ringNext m.head acap }
      if zero then m1.zeroTile m1.head.toNat else m1))
  | .mspl _ acc _ => s.onTile c (accIndex acc m.tail) (s.spill c (accIndex acc m.tail) (o.addr 1))
  | .mfil _ acc _ => s.onTile c (accIndex acc m.head) (s.fillOp c o (accIndex acc m.head) (o.addr 1))
  | .mdrn _ t acc _ _ _ adv r =>
    s.onTile c (accIndex acc m.tail) (s.drainOp c t (accIndex acc m.tail) (o.addr 1) (o.slot 2) (o.slot 3) adv r)
  | .mepi _ _ => s.mepi c (o.slot 0)
  | .mrtg _ op => s.mrtg c op (o.slot 1)
  | .mstat _ xd stray clr =>
    let v := if stray then BitVec.ofNat 64 (s.strayOf c) else s.mxStat c
    .ok (if clr then s.updMat c (fun m => { m with sat := false, cg := false }) else s) [(xd.toNat, v)]
  | _ => .ok s []

/-! ## Start and completion -/

/-- The matrix engine starts its head operation (R295, R133). -/
def State.matStart (s : State) (c : Nat) : State :=
  match (s.mat c).queue with
  | [] => s
  | o :: _ =>
    if (s.mat c).fault.isSome || !s.mayStart c o then s
    else match s.matPerform c o with
      | .ok s1 w => (s1.stairDone c 2).updMat c (fun m => { m with queue := markHead w m.queue })
      | .wait s1 => s1
      | .fault s1 cause addr idx => s1.engineFault c 2 cause addr (BitVec.ofNat 64 idx)

/-- Its completion (R295). -/
def State.matComplete (s : State) (c : Nat) : State :=
  match (s.mat c).queue with
  | [] => s
  | o :: _ =>
    if !o.started then s
    else ((s.updMat c (fun m => { m with queue := m.queue.drop 1 })).applyWrites c o.writes).completeTok c (tokOf o.ins)
      o.gen false false

def execMatrixOpStart (c : Nat) (s : State) : Out := .next (s.matStart c)
def execMatrixOpComplete (c : Nat) (s : State) : Out := .next (s.matComplete c)

end Sys2Proof.Machine
end

