-- ==== Sys2Proof/Machine/Network.lean ====
section
/-! DEFINITION. Steps of the network: stores that perform (R94, R95, R139), packets that reach their cell (R101, R102, R122, R130,
R149, R193 to R195), remote arithmetic packets at their bank (R109 to R111), and requests to other devices (R69, R410). -/

namespace Sys2Proof.Machine

/-! ## What may move first -/

def PBody.isStore : PBody → Bool
  | .store .. => true
  | _ => false
def PBody.isRap : PBody → Bool
  | .rap .. => true
  | _ => false
def PBody.isItem : PBody → Bool
  | .msg .. | .arrive .. | .land .. => true
  | _ => false

/-- The cell that a packet leads to, through a forwarding entry of its launch (R149). -/
def State.target (s : State) (p : Packet) : Nat :=
  if p.node ≠ 0 || p.dst ≥ 4096 then p.dst else s.forward p.launch p.dst

/-- An earlier packet of the same source goes to the same cell, in the same class where both cross devices (R102). -/
def State.samePath (s : State) (a b : Packet) : Bool :=
  a.src = b.src && a.node = b.node && s.target a = s.target b && (a.node = 0 || a.cls = b.cls)

/-- Ordered packets of a source that wait at a bank (R111). -/
def State.rapHeld (s : State) (src : Nat) : Bool := s.cells.any (fun p => p.2.ctx.rapWait.any (fun w => w.pkt.src = src))

/-- Whether packet p may move before the packets ahead of it: a message after its source's stores and arithmetic packets (R101), a
store after its source's stores and arithmetic packets (R94, R109), a packet after those of its path (R102). -/
def State.mayPass (s : State) (ahead : List Packet) (p : Packet) : Bool :=
  !(ahead.any (fun (q : Packet) => s.samePath q p || (q.src = p.src &&
    (q.body.isStore || (q.body.isRap && !p.body.isRap))))) &&
  (p.body.isRap || !s.rapHeld p.src) &&
  !(p.node = 0 && p.dst < 4096 && (s.cell (s.target p)).moving.isSome)

/-- Packet i of the network where it may move now. -/
def State.netReady (s : State) (i : Nat) : Option Packet :=
  match s.net[i]? with
  | none => none
  | some p => if s.mayPass (s.net.take i) p then some p else none

def State.dropNet (s : State) (i : Nat) : State := { s with net := s.net.eraseIdx i }

/-! ## Packets to other devices that are lost (R410) -/

/-- A packet to another device that has not completed 16,777,216 cycles after its issue. -/
def State.overdue (s : State) (p : Packet) : Bool := p.node ≠ 0 && p.since + 16777216 ≤ s.now

/-- The address that the fault of a lost packet reports: of a store or an arithmetic packet its virtual address, of a message its
destination (R198). -/
def Packet.report (p : Packet) : Nat := match p.body with
  | .store _ va _ => va
  | .rap _ _ _ _ va _ => va
  | .msg .. | .arrive .. | .land .. => 2 ^ 63 + p.node * 2 ^ 32 + p.dst

/-- Packet i is lost: the access fault at its issuer. -/
def State.loseRemote (s : State) (i : Nat) (p : Packet) : State :=
  if s.lateWaits p then s else (s.dropNet i).lateFault p p.report

/-! ## Deliveries, arrivals, landings -/

/-- Whether a cell takes items: it holds a launch that is not cancelled (R122, R130). -/
def State.takesItems (s : State) (t : Nat) : Bool := match (s.ctx t).launch with
  | some l => !l.cancelled
  | none => false

/-- The count of deferred firings of an entry is full (R191). -/
def Ctx.entryFull (x : Ctx) (e : Nat) : Bool := (x.entry e).deferred ≥ 2 ^ 32 - 1

/-- Whether a cell of a launch has not had its start message yet (R127, R192). -/
def State.sleepyCell (s : State) (t : Nat) : Bool := s.launches.any (fun l => l.sleepy.contains t)

/-- An item reaches its cell: an event on an entry, or dropped and counted. It waits for a cell whose start message is still to come, so
that no placement changes a result (R126, R258). An item for another device leaves this one (log entry 9). -/
def State.item (s : State) (i : Nat) (sel : PBody → Option (Nat × (Entry → Entry × Nat))) : State :=
  match s.netReady i with
  | none => s
  | some p => match sel p.body with
    | none => s
    | some (e, f) =>
      if p.node ≠ 0 then (if s.overdue p then s.loseRemote i p else s.dropNet i)
      else
        let t := s.target p
        if !s.takesItems t || s.retiredFrom p.launch t then (s.dropNet i).countDrop t
        else if (s.ctx t).entryFull e || s.sleepyCell t then s
        else (s.dropNet i).bellEvent t e (decide (scopeRank p.cls ≥ 2)) false f

/-- A message or decrement (R193). -/
def asMessage : PBody → Option (Nat × (Entry → Entry × Nat))
  | .msg e d pay => some (e, fun x => x.deliver d pay)
  | _ => none
/-- A remote arrival (R194, R214). -/
def asArrival : PBody → Option (Nat × (Entry → Entry × Nat))
  | .arrive e b => some (e, fun x => x.arrv b.toNat)
  | _ => none
/-- A landing (R194, R267). -/
def asLanding : PBody → Option (Nat × (Entry → Entry × Nat))
  | .land e b => some (e, fun x => x.land b)
  | _ => none

def execDelivery (i : Nat) (s : State) : Out := .next (s.item i asMessage)
def execArrival (i : Nat) (s : State) : Out := .next (s.item i asArrival)
def execLanding (i : Nat) (s : State) : Out := .next (s.item i asLanding)

/-! ## Stores -/

/-- Whether a store's home takes it: one that serves the address, in time (R69, R409, R410). -/
def State.takesStore (s : State) (p : Packet) (pa : Nat) : Bool := s.homeTakes pa && !s.overdue p

/-- A released store performs at its home, or meets its fault there; what an engine operation that races with it has written may stand in
its place (R108). -/
def State.performStore (s : State) (p : Packet) : State :=
  match p.body with
  | .store pa va b =>
    if s.takesStore p pa then (let (b1, s1) := s.mixWrite p.src 0 pa b; s1.storeHome p.src true pa b1 false) else s.lateFault p va
  | _ => s

/-- A released store that its home will refuse waits while its issuer is frozen. -/
def State.storeWaits (s : State) (p : Packet) : Bool := match p.body with
  | .store pa _ _ => !s.takesStore p pa && s.lateWaits p
  | _ => false

/-- The oldest released store of a cell that is bound for memory: it performs where nothing of the cell is ahead of it. -/
def State.netStore (s : State) (c : Nat) : Option (Nat × Packet) :=
  match s.net.findIdx? (fun p => p.src = c && (p.body.isStore || p.body.isRap)) with
  | none => none
  | some i => match s.net[i]? with
    | some p => if p.dst = 4096 && p.body.isStore && !s.rapHeld c && !s.storeWaits p then some (i, p) else none
    | none => none

/-- The head of the store buffer leaves it (R95): to its bank with the journal (R139), into the outgoing buffer while the activation
is retriable, else to its home; a store that performs does so after the cell's earlier stores and packets. -/
def State.headStore (s : State) (c : Nat) : State :=
  match (s.ctx c).out.sb with
  | [] => s
  | e :: rest =>
    let pop := fun (st : State) => st.updOut c (fun o => { o with sb := rest })
    let ahead := s.storesOut c || s.rapsOut c
    if e.own then
      if ahead then s
      else
        let s1 := s.journal c e.addr e.bytes.length
        if (s1.ctx c).out.sb = [] || (s1.isFrozen c && !s.isFrozen c) then s1
        else
          let pa := spBase c + e.addr
          let (b, s2) := ((pop s1).dropRaps c e.ord pa e.bytes.length).mixWrite c 0 pa e.bytes
          (s2.shadeStore c e.ord pa b).storePa c true pa b false
    else
      let p := s.storePacket c e.addr e.va e.bytes
      if (s.ctx c).retriable then
        if heldSize (s.ctx c).out.held + p.size ≤ 65536 then
          (pop s).updOut c (fun o => { o with held := insHeld o.held ⟨e.ord, p⟩ })
        else s.goNonretriable c
      else if ahead || s.storeWaits p then s
      else if p.dst = 4096 then ((pop s).shadeStore c e.ord e.addr e.bytes).performStore p
      else let s1 := pop s; { s1 with net := s1.net ++ [p] }

/-- STORE_PERFORM: a released store of the cell, else the head of its buffer. -/
def State.storePerform (s : State) (c : Nat) : State :=
  match s.netStore c with
  | some (i, p) => (s.dropNet i).performStore p
  | none => if (s.cell c).moving.isSome then s else s.headStore c

def execStorePerform (c : Nat) (s : State) : Out := .next (s.storePerform c)

/-- A packet that a scratchpad port refuses (R71): a fault at its issuer. -/
def State.portFault (s : State) (i : Nat) (p : Packet) (va : Nat) : State :=
  if s.lateWaits p then s else (s.dropNet i).lateFault p va

/-- A store arrives at a scratchpad port (R112, R113). -/
def State.storeArrival (s : State) (i : Nat) : State :=
  match s.netReady i with
  | none => s
  | some p => match p.body with
    | .store pa va b =>
      if p.node ≠ 0 || p.dst ≥ 4096 then s
      else
        let t := s.target p
        let off := pa - spBase p.dst
        if !(s.cell t).windowOk off b.length p.src then s.portFault i p va
        else
        let (b1, s0) := (s.dropNet i).mixWrite p.src 0 (spBase t + off) b
        let s1 := s0.storePa p.src true (spBase t + off) b1 false
        if t = p.src then s1 else s1.logArrival t p.src false off
    | _ => s

def execRemoteStoreArrival (i : Nat) (s : State) : Out := .next (s.storeArrival i)

/-! ## Remote arithmetic packets -/

/-- A packet arrives at its owning bank and is applied, held, or refused while the holding buffer is full (R110, R111). -/
def State.rapApply (s : State) (i : Nat) : State :=
  match s.netReady i with
  | none => s
  | some p => match p.body with
    | .rap ty op q pa va v =>
      if s.overdue p then s.loseRemote i p
      else if p.node ≠ 0 then
        ((s.dropNet i).rapElement p.src pa ty op v).2
      else
        let t := s.target p
        let off := pa - spBase p.dst
        let bank := bankOfOff off
        if !(s.cell t).windowOk off (RapTy.bytes ty) p.src then s.portFault i p va
        else
        let come := fun (st : State) => if t = p.src then st else st.logArrival t p.src true off
        match q with
        | none => (come (s.dropNet i)).rapWrite t off ty op p.src v
        | some n =>
          let x := s.ctx t
          if n = Tab.get 0 x.rapExp bank then
            (((come (s.dropNet i)).rapWrite t off ty op p.src v).updCtx t (fun x =>
              { x with rapExp := Tab.set x.rapExp bank (n + 1) })).drainRaps t bank 64
          else if x.rapWait.length ≥ 64 then s
          else (come (s.dropNet i)).updCtx t (fun x => { x with rapWait := x.rapWait ++ [⟨p, s.now⟩] })
    | _ => s

def execRapApply (i : Nat) (s : State) : Out := .next (s.rapApply i)

/-- A packet held 2^20 cycles is discarded with a sequence fault at its owner (R111). -/
def State.rapTimeout (s : State) (c j : Nat) : State :=
  match (s.ctx c).rapWait[j]? with
  | none => s
  | some w =>
    if s.now < w.since + 2 ^ 20 then s
    else
      let s1 := s.updCtx c (fun x => { x with rapWait := x.rapWait.eraseIdx j })
      match w.pkt.body with
      | .rap _ _ _ pa _ _ => s1.bankPacket c 0x19 (pa - spBase w.pkt.dst) w.pkt.src
      | _ => s1

def execRapSequenceTimeout (c j : Nat) (s : State) : Out := .next (s.rapTimeout c j)

/-! ## Requests to other devices -/

/-- A request is not completed 16,777,216 cycles after its issue (R410). -/
def State.requestLate (s : State) (r : StairReq) : Bool := decide (r.since + 16777216 ≤ s.now)

/-- Request i gets its outcome. -/
def State.stairAnswer (s : State) (i : Nat) (ok : Bool) : State :=
  { s with stair := modNth s.stair i (fun r => if r.done.isNone then { r with done := some ok } else r) }

/-- The other device serves the request through its own map (R69), where it comes in time (R410); no Stair port leaves reset before the boot has ended well (R407). -/
def execRemoteRequest (i : Nat) (s : State) : Out :=
  .next (match s.stair[i]? with
    | none => s
    | some r => if s.requestLate r then s.stairAnswer i false else if !s.awake then s else s.stairAnswer i (remoteServes r.pa))

/-- Packet i of the network to another device is lost after 16,777,216 cycles (R410): the access fault at its issuer. -/
def State.packetTimeout (s : State) (i : Nat) : State :=
  match s.net[i]? with
  | none => s
  | some p =>
    if s.overdue p then s.loseRemote i p else s

/-- A request not completed 16,777,216 cycles after issue completes with the access fault (R410). The numbers after those of the
requests are those of the packets on their way (log entry 9). -/
def execStairRequestTimeout (i : Nat) (s : State) : Out :=
  .next (match s.stair[i]? with
    | none => s.packetTimeout (i - s.stair.length)
    | some r => if s.requestLate r then s.stairAnswer i false else s)

end Sys2Proof.Machine
end

