-- ==== Sys2Proof/Machine/Retire.lean ====
section
/-! DEFINITION. Retirement of physical units and evacuations (R151 to R154), the in-field test (R155), and impressions (R157). -/

namespace Sys2Proof.Machine

def Floor.units (f : Floor) : UnitKind → List Nat
  | .scratch => f.scratch
  | .vector => f.vector
  | .accum => f.accum
def Floor.spares (f : Floor) : UnitKind → List Nat
  | .scratch => f.sscratch
  | .vector => f.svector
  | .accum => f.saccum

def Floor.setUnits (f : Floor) (l : List Nat) : UnitKind → Floor
  | .scratch => { f with scratch := l }
  | .vector => { f with vector := l }
  | .accum => { f with accum := l }
def Floor.setSpares (f : Floor) (l : List Nat) : UnitKind → Floor
  | .scratch => { f with sscratch := l }
  | .vector => { f with svector := l }
  | .accum => { f with saccum := l }

/-- Cycles of an evacuation (R152). -/
def UnitKind.moveTime : UnitKind → Nat
  | .scratch => 1024
  | .vector => 16
  | .accum => 642

/-- A write of fp.ret (R151): ignored while an evacuation is in progress; the unit goes into a spare (R152), or into the unit of the
highest live logical one, which is then withdrawn (R153). -/
def Floor.retire (f : Floor) (k : UnitKind) (idx now : Nat) : Floor :=
  if f.evac.isSome then f
  else match (f.units k).findIdx? (· = idx) with
    | none => f
    | some l => match f.spares k with
      | sp :: rest => { f.setSpares rest k with evac := some ⟨k, l, sp, false, now⟩ }
      | [] => { f with evac := some ⟨k, l, (f.units k).getLastD idx, true, now⟩ }

/-- An evacuation ends: the logical unit is served by its new physical unit; a withdrawal is due at the next activation boundary. -/
def Floor.moved (f : Floor) (now : Nat) : Floor :=
  match f.evac with
  | none => f
  | some e =>
    if now < e.since + UnitKind.moveTime e.kind then f
    else { f.setUnits ((f.units e.kind).set e.logical e.target) e.kind with
             evac := none, due := if e.withdraw then f.due ++ [e.kind] else f.due }

def State.retireUnit (s : State) (c : Nat) (k : UnitKind) (idx : Nat) : State :=
  s.updCell c (fun cl => { cl with floor := cl.floor.retire k idx s.now })

/-- A write of fp.ret (R151): the unit's kind and physical index. -/
def State.writeFpRet (s : State) (c : Nat) (v : Word) : State :=
  let kind := fieldNat v 8 2
  let idx := fieldNat v 0 5
  if kind = 0 then s.retireUnit c .scratch idx
  else if kind = 1 then s.retireUnit c .vector idx
  else if kind = 2 then s.retireUnit c .accum idx else s

def execRetireScratchpadBank (c idx : Nat) (s : State) : Out := .next (s.retireUnit c .scratch idx)
def execRetireVectorBank (c idx : Nat) (s : State) : Out := .next (s.retireUnit c .vector idx)
def execRetireAccumulatorTile (c idx : Nat) (s : State) : Out := .next (s.retireUnit c .accum idx)

/-- The rows that an evacuation of a scratchpad bank has read (R152, R156). -/
def State.evacRead (s : State) (c : Nat) : State :=
  match (s.cell c).floor.evac with
  | none => s
  | some e => if e.kind = .scratch && e.since + UnitKind.moveTime e.kind ≤ s.now then s.touchBanks c (e.logical * 32768) 32768 else s

/-- An evacuation ends. Between activations the withdrawal takes effect at once (R153). -/
def State.evacuated (s : State) (c : Nat) : State :=
  let s1 := (s.evacRead c).updCell c (fun cl => { cl with floor := cl.floor.moved s.now })
  if (s1.core c).act.isNone then s1.boundary c else s1

def execEvacuationComplete (c : Nat) (s : State) : Out := .next (s.evacuated c)

/-- A failed in-field test (R155): the district is retired from placement; the Attic gets the window of commits in doubt. -/
def State.testFail (s : State) (d : Nat) : State :=
  let x := s.dist d
  (s.updDist d (fun y => { y with retired := true })).notice (.suspect d x.passed (x.commit - 1))

def execInFieldTestFail (district : Nat) (s : State) : Out := .next (s.testFail district)

/-- Blocks that latch an impression (log entry 7): cells, districts, dies, memory ports, the Imposer, the launch unit, the Attic. -/
def impBlocks : Nat := 3072 + 48 + 2 + 8 + 3

/-- An impression trigger (R157): ignored until imp.ctl.valid is cleared; each block latches within 64 cycles. -/
def State.impress (s : State) : State :=
  if s.impValid then s
  else { s with
    impValid := true
    impCyc := (List.range impBlocks).map (fun b => (b, BitVec.ofNat 64 (s.now + Config.impressionDelay (s.tick * impBlocks + b) % 64)))
    impSet := (List.range impBlocks).map (fun b => (b, Config.impression (s.tick * impBlocks + b))) }

def execImpressionTrigger (s : State) : Out := .next s.impress

end Sys2Proof.Machine
end

