-- ==== Sys2Proof/Machine/System.lean ====
section
/-! DEFINITION. Special registers (R186, R187, R190, R210), the system instructions (R217), the faults of decode and fetch
(R178, R179, R182), and the trace ring (R113, R114). -/

namespace Sys2Proof.Machine

/-! ## The trace ring -/

/-- clr of tr.ctl (R113): the ring is empty, the arrival sequence and tr.head are 0. -/
def Trace.clear (t : Trace) : Trace := { t with ring := [], seqn := 0, head := 0 }

/-- tr.data (R114); an entry that holds nothing reads as zero. -/
def Trace.data (t : Trace) : Word :=
  match Tab.find t.ring t.sel.toNat with
  | some e => BitVec.ofNat 64 (e.off.toNat + 2 ^ 19 * b2n e.rap + 2 ^ 20 * e.src.toNat + 2 ^ 32 * e.seqn.toNat)
  | none => 0

/-- A write to tr.ctl (R113). -/
def Trace.writeCtl (t : Trace) (v : Word) : Trace :=
  let t1 := if bitAt v 1 then t.clear else t
  { t1 with en := bitAt v 0, ovf := t1.ovf && !bitAt v 2 }

/-! ## Special registers -/

/-- Rows of a unit of 64 bytes each (R152). -/
def UnitKind.rows : UnitKind → Nat
  | .scratch => 512
  | .vector => 8
  | .accum => 321

/-- The watermark (R151, R152): a row moves every 2 cycles. -/
def Evac.watermark (e : Evac) (now : Nat) : Nat := min e.kind.rows ((now - e.since) / 2)

/-- fp.stat (R151). -/
def State.fpStat (s : State) (c : Nat) : Word :=
  let f := (s.cell c).floor
  BitVec.ofNat 64 (2 ^ 19 * f.scratch.length + 2 ^ 16 * f.vector.length + 2 ^ 13 * f.accum.length +
    2 ^ 11 * f.sscratch.length + 2 ^ 10 * f.svector.length + 2 ^ 9 * f.saccum.length + 2 ^ 8 * b2n f.evac.isSome +
    (match f.evac with
      | some e => e.watermark s.now % 256
      | none => 0))

/-- An identity register of the launch (R124), zero where the cell holds none. -/
def State.idReg (s : State) (c : Nat) (f : LCtx → Nat) : Word :=
  match (s.ctx c).launch with
  | some l => BitVec.ofNat 64 (f l)
  | none => 0

/-- Cycles the running activation may still run (R129, R186). -/
def State.actWd (s : State) (c : Nat) : Word :=
  match (s.core c).act, (s.ctx c).launch with
  | some a, some l => BitVec.ofNat 64 (l.watchdog - a.ran s.now)
  | _, _ => 0

/-- The value of a special register (R186). -/
def State.special (s : State) (c idx : Nat) : Word :=
  if idx = 0x000 then s.idReg c (·.cx) else if idx = 0x001 then s.idReg c (·.cy)
  else if idx = 0x002 then s.idReg c (·.nx) else if idx = 0x003 then s.idReg c (·.ny)
  else if idx = 0x004 then s.idReg c (·.offM) else if idx = 0x005 then s.idReg c (·.offN)
  else if idx = 0x006 then s.idReg c (·.offK) else if idx = 0x007 then s.idReg c (·.extM)
  else if idx = 0x008 then s.idReg c (·.extN) else if idx = 0x009 then s.idReg c (·.extK)
  else if idx = 0x00a then s.idReg c (·.live) else if idx = 0x00b then (s.ctx c).idLaunch
  else if idx = 0x00c then (s.core c).idAct else if idx = 0x00d then BitVec.ofNat 64 c
  else if idx = 0x00e then s.idNode
  else if idx = 0x010 then s.fpStat c else if idx = 0x011 then BitVec.ofNat 64 (s.cell c).fpCap
  else if idx = 0x012 then BitVec.ofNat 64 (s.cell c).fpVcap
  else if idx = 0x018 then BitVec.ofNat 64 (s.core c).xoTop else if idx = 0x019 then (s.core c).trig
  else if idx = 0x01a then s.actWd c else if idx = 0x01b then BitVec.ofNat 64 s.now
  else if idx = 0x020 then BitVec.ofNat 64 (b2n (s.cell c).trace.en + 4 * b2n (s.cell c).trace.ovf)
  else if idx = 0x021 then (s.cell c).trace.head.zeroExtend 64
  else if idx = 0x022 then (s.cell c).trace.sel.zeroExtend 64
  else if idx = 0x023 then (s.cell c).trace.data
  else 0

/-- The check of MTS xo.top (R190). -/
def xoOk (v : Word) (footprint : Nat) : Bool := v.toNat % 64 = 0 && 64 ≤ v.toNat && v.toNat < 2 ^ 19 && v.toNat ≤ footprint

/-- The footprint of the cell's launch, its live scratchpad where it holds none. -/
def Cell.footprint (cl : Cell) : Nat := match cl.ctx.launch with
  | some l => l.footprint
  | none => cl.fpCap

/-- MTS xo.top (R190): the check, the stores, the engines, the write. -/
def State.moveBoundary (s : State) (c : Nat) (v : Word) : State :=
  if !xoOk v (s.cell c).footprint then s.scalarFault c 0x13 v
  else if (s.ctx c).out.sb ≠ [] || s.selfBound c then s
  else s.whenIdle c [1, 2, 3] (fun s => (s.updCore c (fun k => { k with xoTop := v.toNat })).advance c 4)

def execMfs (rd : XReg) (idx : BitVec 10) (s : State) : Out :=
  .next (s.whenFree s.actCell [rd] (fun s =>
    (s.writeX s.actCell rd (s.special s.actCell idx.toNat)).advance s.actCell 4))

/-- MTS (R210): xo.top, tr.ctl and tr.sel take a write, every other register ignores it (R186, R6). -/
def execMts (idx : BitVec 10) (ra : XReg) (s : State) : Out :=
  .next (s.whenFree s.actCell [ra] (fun s =>
    let c := s.actCell
    let v := s.readX c ra
    if idx = 0x018 then s.moveBoundary c v
    else if idx = 0x020 then (s.updCell c (fun cl => { cl with trace := cl.trace.writeCtl v })).advance c 4
    else if idx = 0x022 then
      (s.updCell c (fun cl => { cl with trace := { cl.trace with sel := v.truncate 8 } })).advance c 4
    else s.advance c 4))

def execTraceClear (c : Nat) (s : State) : Out :=
  .next (s.updCell c (fun cl => { cl with trace := cl.trace.clear }))

/-! ## System instructions -/

def execNop (s : State) : Out := .next (s.advance s.actCell 4)

/-- Engines that SYNCE names: bit 0 vector, 1 matrix, 2 copy (R174, R217). -/
def synceEngines (eng : BitVec 3) : List Nat := [1, 2, 3].filter (fun e => bitAt eng (e - 1))

def execSynce (eng : BitVec 3) (s : State) : Out :=
  .next (s.whenIdle s.actCell (synceEngines eng) (fun s => s.advance s.actCell 4))

/-- TRAP and BKPT freeze the cell with causes 0x04 and 0x05 and their code in the address field (R217). -/
def execTrap (code : BitVec 8) (s : State) : Out := .next (s.scalarFault s.actCell 0x04 (code.zeroExtend 64))
def execBkpt (code : BitVec 8) (s : State) : Out := .next (s.scalarFault s.actCell 0x05 (code.zeroExtend 64))

/-- The illegal-instruction fault, or the pointer fault on a format field (R178, R179). -/
def execIllegalInstruction (pointer : Bool) (s : State) : Out :=
  .next (s.scalarFault s.actCell (if pointer then 0x03 else 0x01) 0)

/-- The fetch fault (R182). -/
def execFetchFault (s : State) : Out := .next (s.scalarFault s.actCell 0x02 0)

end Sys2Proof.Machine
end

