-- ==== Sys2Proof/Machine/Registers.lean ====
section
/-! DEFINITION. Reads and writes of registers (R6), and of a frozen cell's state through the debug window of its Hall core (R136, R266,
R278, R294, R222). -/

namespace Sys2Proof.Machine

/-! ## Memory-mapped registers -/

/-- Writable fields of lq.cfg (R116). -/
def lqCfgMask : Word := 0xffff3f07
/-- Writable bits of asid.base (R80). -/
def asidBaseMask : Word := 0xffffffff80000
/-- A power cap (R414): values outside 600 to 2,200 are taken as the nearer limit. -/
def clampWatts (v : BitVec 12) : BitVec 12 := if v < 600 then 600 else if 2200 < v then 2200 else v
/-- pp.ctl (R127). -/
def State.writePp (s : State) (v : Word) : State := { s with ppGate := bitAt v 40, ppIdle := v.extractLsb' 8 32, ppWake := v.extractLsb' 0 8 }
/-- im.cfg (R331). -/
def Imposer.writeCfg (i : Imposer) (v : Word) : Imposer :=
  { i with quantum := v.extractLsb' 32 16, chunk := v.extractLsb' 16 16, stepmax := v.extractLsb' 0 16 }
/-- EINJ.CTL (R156). -/
def Die.writeEinj (d : Die) (v : Word) : Die :=
  { d with einjFired := d.einjFired && !bitAt v 3, einjKind := v.extractLsb' 1 2, einjArm := bitAt v 0 }

/-! ## Parts of a frozen cell -/

/-- Number with its 64-bit limb k replaced. -/
def limb (n k : Nat) : Word := BitVec.ofNat 64 (n / 2 ^ (64 * k))
def setLimb (n k : Nat) (v : Word) : Nat := n - n / 2 ^ (64 * k) % 2 ^ 64 * 2 ^ (64 * k) + v.toNat * 2 ^ (64 * k)

/-- A word of a loop level (R209): left and start, or end and the live flag. Level 0 is the outer one; a level that is not live reads
as zero (log entry 41). -/
def Core.loopWord (k : Core) (lvl : Nat) (hi : Bool) : Word :=
  match k.loops.reverse[lvl]? with
  | none => 0
  | some l => if hi then BitVec.ofNat 64 (l.stop.toNat + 2 ^ 32) else BitVec.ofNat 64 (l.left.toNat + 2 ^ 32 * l.start.toNat)

/-- A write of one: the live flag opens or closes the level; the other fields are those of a live one. -/
def Core.writeLoop (k : Core) (lvl : Nat) (hi : Bool) (v : Word) : Core :=
  let a : BitVec 32 := v.extractLsb' 0 32
  let b : BitVec 32 := v.extractLsb' 32 32
  let out := k.loops.reverse
  let new := match hi, out[lvl]? with
    | false, some l => out.set lvl { l with left := a, start := b }
    | true, some l => if bitAt b 0 then out.set lvl { l with stop := a } else out.eraseIdx lvl
    | true, none => if bitAt b 0 then out ++ [LoopLvl.mk 0 0 a] else out
    | false, none => out
  { k with loops := new.reverse }

/-- A token's three bits (R264). -/
def Tok.word (t : Tok) : Word := BitVec.ofNat 64 (b2n t.complete + 2 * b2n t.error + 4 * b2n t.cancelled)

/-- A token's three bits (R264). -/
def Tok.write (t : Tok) (v : Word) : Tok :=
  { t with out := if bitAt v 0 then t.out.filter (· ≠ t.gen) else if t.out.contains t.gen then t.out else t.out ++ [t.gen]
           error := bitAt v 1, cancelled := bitAt v 2 }

/-- Word A of a handle (R278): every field of it is read-only. Word B is its peer. -/
def Handle.word (h : Handle) : Word :=
  BitVec.ofNat 64 (2 ^ 63 * b2n h.valid + 2 ^ 62 * b2n h.producer + 2 ^ 53 * h.pentry.toNat + 2 ^ 45 * h.index.toNat +
    2 ^ 37 * h.nslot.toNat + 2 ^ 27 * h.sunit.toNat + h.base.toNat)

/-- Eight bytes of a bellboard entry as a load reads them (R191). -/
def Entry.word (e : Entry) (off : Nat) : Word := BitVec.ofNat 64 (leNat ((e.bytes.drop off).take 8))

/-- Word `off / 8` of a bellboard entry (R191), which may be a barrier where `may` says so: entries 0 to 255 may (R16). -/
def Entry.writeWord (e : Entry) (may : Bool) (off : Nat) (v : Word) : Entry :=
  let lo := fieldNat v 0 32
  let hi := fieldNat v 32 32
  if off / 8 = 0 then { e with count := sextNat 32 lo, reload := sextNat 32 hi }
  else if off / 8 = 1 then
    { e with handler := lo, prio := BitVec.ofNat 2 hi, enable := hi.testBit 2, pending := hi.testBit 3, barrier := hi.testBit 4 && may
             phase := hi.testBit 5, parked := hi.testBit 6, bound := hi.testBit 7 }
  else if off / 8 = 2 then { e with deferred := lo }
  else if off / 8 = 3 then { e with pend := sextNat 48 v.toNat }
  else { e with args := e.args.set! (off / 8 - 4) v }

/-- An 8-byte word of a tile's spill image (R54, R136). -/
def Tile.word (t : Tile) (off : Nat) : Word :=
  if off < 20480 then limb (t.at (off / 80)).toNat (off % 80 / 8) else if off = 20480 then t.tags.zeroExtend 64 else 0

def Tile.writeWord (t : Tile) (off : Nat) (v : Word) : Tile :=
  if off < 20480 then
    let n := off / 80
    { t with acc := Tab.put XA.zero t.acc n (XA.ofNat (setLimb (t.at n).toNat (off % 80 / 8) v)) }
  else if off = 20480 then { t with tags := v.extractLsb' 0 16 } else t

/-- Format of a latch by its code (R294). -/
def latchFmt (c : Nat) : MatTy := if c = 7 then .bf16 else if c = 9 then .pb2 else if c = 11 then .pb7 else .pb4

def Latch.metaWord (l : Latch) : Word :=
  BitVec.ofNat 64 (2 ^ 16 * l.tags.toNat + 16 * l.kg + (l.fmt.map (fun t => (MatTy.fmt t).toNat)).getD 0)
def Latch.writeMeta (l : Latch) (v : Word) : Latch :=
  { l with fmt := some (latchFmt (fieldNat v 0 4)), kg := min 64 (fieldNat v 4 7), tags := v.extractLsb' 16 16 }

def Latch.dataWord (l : Latch) (row group k : Nat) : Word := limb (Tab.get 0 l.rows (64 * row + group)).toNat k
def Latch.writeData (l : Latch) (row group limb : Nat) (v : Word) : Latch :=
  let k := 64 * row + group
  { l with rows := Tab.put 0 l.rows k (BitVec.ofNat 256 (setLimb (Tab.get 0 l.rows k).toNat limb v)) }

/-- Replaces latch l and leaves its freshness. -/
def MatEng.modLatch (m : MatEng) (l : Nat) (f : Latch → Latch) : MatEng :=
  if l = 0 then { m with l0 := f m.l0 } else { m with l1 := f m.l1 }

/-- An 8-byte word of the epilogue configuration in the layout of R307. -/
def Epi.word (e : Epi) (off : Nat) : Word :=
  let two := fun (l : List (BitVec 32)) (i : Nat) => BitVec.ofNat 64 ((l.getD i 0).toNat + 2 ^ 32 * (l.getD (i + 1) 0).toNat)
  if off < 64 then two e.scale (off / 4)
  else if off < 128 then two e.bias ((off - 64) / 4)
  else if off = 128 then two [e.lo, e.hi] 0
  else if off = 136 then BitVec.ofNat 64 (e.act.toNat + 4 * b2n e.sc + 8 * b2n e.bi + 16 * e.c)
  else if off = 144 then e.sel else 0

def Epi.writeWord (e : Epi) (off : Nat) (v : Word) : Epi :=
  let lo : BitVec 32 := v.extractLsb' 0 32
  let hi : BitVec 32 := v.extractLsb' 32 32
  let put := fun (l : List (BitVec 32)) (i : Nat) => ((l ++ List.replicate (16 - l.length) 0).set i lo).set (i + 1) hi
  if off < 64 then { e with scale := put e.scale (off / 4) }
  else if off < 128 then { e with bias := put e.bias ((off - 64) / 4) }
  else if off = 128 then { e with lo := lo, hi := hi }
  else if off = 136 then { e with act := lo.extractLsb' 0 2, sc := bitAt lo 2, bi := bitAt lo 3, c := fieldNat lo 4 5 }
  else if off = 144 then { e with sel := v } else e

/-- What an empty slot of a select list holds (R294): value 0 and an index of all ones. -/
def emptySlot : Nat × Nat := (0, 2 ^ 32 - 1)
def slotWord (l : List (Nat × Nat)) (slot : Nat) : Word :=
  let p := l.getD slot emptySlot
  BitVec.ofNat 64 (p.2 + 2 ^ 32 * p.1)

/-- A list with one slot written; empty slots behind its last entry are not listed. -/
def writeSlot (l : List (Nat × Nat)) (slot : Nat) (v : Word) : List (Nat × Nat) :=
  let full := (l ++ List.replicate (slot + 1 - l.length) emptySlot).set slot (fieldNat v 32 32, fieldNat v 0 32)
  (full.reverse.dropWhile (fun p => p = emptySlot)).reverse

/-! ## Engine queues -/

/-- Word `off / 8` of an operation's image (R266): the instruction's two words, then its slots. -/
def EngOp.word (o : EngOp) (off : Nat) : Word :=
  if off = 0 then BitVec.ofNat 64 (((encode o.ins).getD 0 0).toNat + 2 ^ 32 * ((encode o.ins).getD 1 0).toNat)
  else o.slot (off / 8 - 1)

/-- Armings of tokens by the operations of a cell from a place in program order on. -/
def Ctx.armedFrom (x : Ctx) (ord : Nat) : List (Nat × Nat) :=
  (x.vec.queue ++ x.mat.queue ++ x.cop.queue ++ x.cop.flight.map (·.op)).filterMap (fun o =>
    if ord ≤ o.ord then (tokOf o.ins).map (fun t => (t.toNat, o.gen)) else none)

/-- The arming that a written operation stands for: that of the operation that stood there, where it armed the token too, else the token's
last. -/
def Ctx.genOf (x : Ctx) (old : Option EngOp) (r : TReg) : Nat := match old with
  | some o => if tokOf o.ins = some r then o.gen else (x.token r.toNat).gen
  | none => (x.token r.toNat).gen

/-- The operation that the two words of an entry name (R266): none where they decode to no instruction of the engine. It waits for the last
arming before its own place that is not complete, of each token of its mask (R166); the instruction that stood there already keeps its own
waits. -/
def State.opOfWords (s : State) (c eng : Nat) (v : Word) (old : Option EngOp) : Option EngOp :=
  match decodeDamvon (s.ctx c).vregs (v.extractLsb' 0 32) (v.extractLsb' 32 32) with
  | .ok i =>
    if engineOf i ≠ eng then none
    else match old.filter (fun o => o.ins = i) with
      | some o => some { o with started := false, writes := [] }
      | none =>
        let x := s.ctx c
        let ord := (old.map (·.ord)).getD (s.nextOrd c)
        let mine := (tokOf i).map (fun r => (r.toNat, x.genOf old r))
        let earlier := fun (t g : Nat) => !(x.armedFrom ord).contains (t, g) && (some (t, g) ≠ mine || (x.armedFrom 0).contains (t, g))
        let waits := ((List.range 8).filter (fun t => bitAt (keysOf i).wait t)).filterMap (fun t =>
          (((x.token t).out.filter (earlier t)).max?).map (fun g => (t, g)))
        some ⟨i, (old.map (·.xs)).getD [], false, [], (mine.map (·.2)).getD 0, waits, ord⟩
  | _ => none

/-- Slot k of an operation's image. -/
def EngOp.writeSlot (o : EngOp) (k : Nat) (v : Word) : EngOp :=
  { o with xs := (o.xs ++ List.replicate (k + 1 - o.xs.length) 0).set k v }

/-- A write to word `off / 8` of an operation's image in a list of operations (R266): zero words empty the entry. -/
def State.writeOp (s : State) (c eng slot off : Nat) (v : Word) (q : List EngOp) : List EngOp :=
  if off / 8 = 0 then
    if v = 0 then q.eraseIdx slot
    else match s.opOfWords c eng v q[slot]? with
      | some o => if slot < q.length then q.set slot o else q ++ [o]
      | none => q
  else modNth q slot (fun o => o.writeSlot (off / 8 - 1) v)

/-- Armings before a token's last that no operation stands for any more are over; the last one's bit is the token's own (R264). -/
def Ctx.dropArmings (x : Ctx) : Ctx :=
  let armed := x.armedFrom 0
  { x with core := { x.core with tok := x.core.tok.mapIdx (fun i t =>
      { t with out := t.out.filter (fun g => g = t.gen || armed.contains (i, g)) }) } }

def State.writeQueue (s : State) (c eng slot off : Nat) (v : Word) : State :=
  if slot ≥ 2 then s
  else (if eng = 0 then s.updVec c (fun e => { e with queue := s.writeOp c 1 slot off v e.queue })
  else if eng = 1 then s.updMat c (fun e => { e with queue := s.writeOp c 2 slot off v e.queue })
  else s.updCop c (fun e => { e with queue := s.writeOp c 3 slot off v e.queue })).updCtx c Ctx.dropArmings

/-- Discards copy k in flight: its token completes, its completion is never delivered (R266). -/
def State.discardFlight (s : State) (c k : Nat) : State :=
  match (s.cop c).flight[k]? with
  | none => s
  | some f =>
    (s.updCop c (fun e => { e with flight := e.flight.eraseIdx k })).completeTok c (tokOf f.op.ins) f.op.gen false false

/-- A word of the record of a copy in flight (R266). -/
def Flight.word (f : Flight) (off : Nat) : Word :=
  if off < 64 then f.op.word off
  else if off = 64 then BitVec.ofNat 64 (1 + 2 * b2n f.stopped + 4 * b2n f.faulted + 8 * b2n f.claimed)
  else if off = 72 then BitVec.ofNat 64 f.resume
  else if off = 80 then BitVec.ofNat 64 f.moved
  else if off = 88 then f.notDone
  else if off = 96 then f.bad
  else if off = 104 then (match f.op.ins with
    | .claim .. => f.xd
    | _ => 0)
  else 0

def Flight.writeWord (f : Flight) (off : Nat) (v : Word) : Flight :=
  if off = 64 then { f with stopped := bitAt v 1, faulted := bitAt v 2, claimed := bitAt v 3 }
  else if off = 72 then { f with resume := v.toNat }
  else if off = 80 then { f with moved := v.toNat }
  else if off = 88 then { f with notDone := v }
  else if off = 96 then { f with bad := v }
  else if off = 104 then (match f.op.ins with
    | .claim .. => { f with xd := v }
    | _ => f)
  else f

/-- The instruction words of record k: of a copy in flight, or of one that a resume finds in the first unused record. One that was not
there before starts with its checks. -/
def State.writeFlightOp (s : State) (c k : Nat) (v : Word) : State :=
  match (s.cop c).flight[k]?, s.opOfWords c 3 v (((s.cop c).flight[k]?).map (·.op)) with
  | some f, some o => s.updCop c (fun e => { e with flight := e.flight.set k { f with op := { o with started := f.op.started && decide (f.op.ins = o.ins) } } })
  | none, some o =>
    if k = (s.cop c).flight.length && k < 16 then
      s.updCop c (fun e => { e with flight := e.flight ++ [{ Flight.new o with stopped := true }] })
    else s
  | _, none => s

def State.writeFlight (s : State) (c k off : Nat) (v : Word) : State :=
  if off = 64 && !bitAt v 0 then s.discardFlight c k
  else if off = 0 then (s.writeFlightOp c k v).updCtx c Ctx.dropArmings
  else if off < 64 then
    s.updCop c (fun e => { e with flight := modNth e.flight k (fun f => { f with op := f.op.writeSlot (off / 8 - 1) v }) })
  else s.updCop c (fun e => { e with flight := modNth e.flight k (·.writeWord off v) })

/-- A write to a special register through the window (R136): of the writable ones. -/
def State.writeSpecial (s : State) (c idx : Nat) (v : Word) : State :=
  if idx = 0x018 then s.updCore c (fun k => { k with xoTop := v.toNat })
  else if idx = 0x020 then s.updCell c (fun cl => { cl with trace := cl.trace.writeCtl v })
  else if idx = 0x022 then s.updCell c (fun cl => { cl with trace := { cl.trace with sel := v.truncate 8 } })
  else s

/-! ## The debug window -/

/-- What eight bytes of the window show (R136, R209, R222, R264, R266, R278, R294). -/
inductive DwPart where
  | x (r : XReg)
  | loop (lvl : Nat) (hi : Bool)
  | tok (t : TReg)
  | handle (b : BReg) (hi : Bool)
  | special (idx : Nat)
  | vreg (r : VReg) (limb : Nat)
  | mask (k : KReg)
  | epi (off : Nat)
  | tile (i off : Nat)
  | select (col slot : Nat)
  | latchMeta (l : Nat)
  | queue (eng slot off : Nat)
  | flight (k off : Nat)
  | entry (e off : Nat)
  | latchData (l row group limb : Nat)
  | pc
  | vtags
  | mxStat
  | nothing
  deriving DecidableEq, Repr

/-- The map of the window. -/
def dwPart (off : Nat) : DwPart :=
  let o := off / 8 * 8
  let b := fun (base : Nat) => o - base
  if o < 0x100 then .x (BitVec.ofNat 5 (o / 8))
  else if o = 0x100 then .pc
  else if o < 0x128 then .loop (b 0x108 / 16) (b 0x108 % 16 = 8)
  else if 0x200 ≤ o && o < 0x240 then .tok (BitVec.ofNat 3 (o / 8))
  else if 0x240 ≤ o && o < 0x2c0 then .handle (BitVec.ofNat 3 (b 0x240 / 16)) (o % 16 = 8)
  else if 0x400 ≤ o && o < 0x1000 then .special (b 0x400 / 8)
  else if 0x1000 ≤ o && o < 0x1800 then .vreg (BitVec.ofNat 5 (o / 64)) (o % 64 / 8)
  else if 0x1800 ≤ o && o < 0x1840 then .mask (BitVec.ofNat 3 (o / 8))
  else if o = 0x1840 then .vtags
  else if o = 0x1880 then .mxStat
  else if 0x1900 ≤ o && o < 0x1a00 then .epi (b 0x1900)
  else if 0x2000 ≤ o && o < 0x16100 then .tile (b 0x2000 / 0x5040) (b 0x2000 % 0x5040)
  else if 0x16200 ≤ o && o < 0x16a00 then .select (b 0x16200 / 128) (b 0x16200 % 128 / 8)
  else if o = 0x16a00 || o = 0x16a10 then .latchMeta (b 0x16a00 / 16)
  else if 0x18000 ≤ o && o < 0x18180 then .queue (b 0x18000 / 128) (o % 128 / 64) (o % 64)
  else if 0x18200 ≤ o && o < 0x18a00 then .flight (b 0x18200 / 128) (b 0x18200 % 128)
  else if 0x20000 ≤ o && o < 0x28000 then .entry (b 0x20000 / 64) (o % 64)
  else if 0x30000 ≤ o && o < 0x40000 then .latchData (b 0x30000 / 0x8000) (o % 0x8000 / 2048) (o % 2048 / 32) (o % 32 / 8)
  else .nothing

def MatEng.latchNo (m : MatEng) (l : Nat) : Latch := if l = 0 then m.l0 else m.l1

/-- Queue of an engine as the window numbers it: 0 vector, 1 matrix, 2 copy (R266). -/
def Ctx.dwQueue (x : Ctx) (eng : Nat) : List EngOp := x.engQueue (eng + 1)

/-- The part's value in a frozen cell. -/
def State.readPart (s : State) (c : Nat) : DwPart → Word
  | .x r => s.readX c r
  | .pc => (s.core c).pc.zeroExtend 64
  | .loop lvl hi => (s.core c).loopWord lvl hi
  | .tok t => (s.core c).tok[t.toNat].word
  | .handle b hi => if hi then (s.core c).hnd[b.toNat].peer else (s.core c).hnd[b.toNat].word
  | .special idx => s.special c idx
  | .vreg r k => limb (s.vec c).v[r.toNat].toNat k
  | .mask k => (s.vec c).k[k.toNat]
  | .vtags => (s.vec c).tag.zeroExtend 64
  | .mxStat => s.mxStat c
  | .epi off => (s.mat c).epi.word off
  | .tile i off => ((s.mat c).tile i).word off
  | .select col slot => slotWord (Tab.get [] (s.mat c).lists col) slot
  | .latchMeta l => ((s.mat c).latchNo l).metaWord
  | .queue eng slot off => (((s.ctx c).dwQueue eng)[slot]?.map (·.word off)).getD 0
  | .flight k off => ((s.cop c).flight[k]?.map (·.word off)).getD 0
  | .entry e off => ((s.ctx c).entry e).word off
  | .latchData l row group k => ((s.mat c).latchNo l).dataWord row group k
  | .nothing => 0

/-- A write of the part; read-only parts take nothing (R6, R136). DESIGN CHOICE: a pc that is no multiple of 4 is kept as written, and the
next fetch reads the word at that byte address (R158; log entry 89). -/
def State.writePart (s : State) (c : Nat) (v : Word) : DwPart → State
  | .x r => s.writeX c r v
  | .pc => s.updCore c (fun k => { k with pc := v.extractLsb' 0 52 })
  | .loop lvl hi => s.updCore c (·.writeLoop lvl hi v)
  | .tok t => s.updCore c (fun k => { k with tok := k.tok.set t.toNat (k.tok[t.toNat].write v) })
  | .handle b hi => if hi then s.updCore c (fun k => { k with hnd := k.hnd.set b.toNat { k.hnd[b.toNat] with peer := v } }) else s
  | .special idx => s.writeSpecial c idx v
  | .vreg r k => s.updVec c (fun e => { e with v := e.v.set r.toNat (BitVec.ofNat 512 (setLimb e.v[r.toNat].toNat k v)) })
  | .mask k => s.updVec c (fun e => { e with k := e.k.set k.toNat v })
  | .vtags => s.updVec c (fun e => { e with tag := v.extractLsb' 0 32 })
  | .epi off => s.updMat c (fun m => { m with epi := m.epi.writeWord off v })
  | .tile i off => s.updMat c (fun m => m.setTile i ((m.tile i).writeWord off v))
  | .select col slot => s.updMat c (fun m => { m with lists := Tab.set m.lists col (writeSlot (Tab.get [] m.lists col) slot v) })
  | .latchMeta l => s.updMat c (fun m => m.modLatch l (·.writeMeta v))
  | .queue eng slot off => s.writeQueue c eng slot off v
  | .flight k off => s.writeFlight c k off v
  | .entry e off => s.updCtx c (fun x => { x with bell := Tab.upd Entry.reset x.bell e (·.writeWord (e < 256) off v) })
  | .latchData l row group k => s.updMat c (fun m => m.modLatch l (·.writeData row group k v))
  | .mxStat | .nothing => s

/-- The cell that dw.ctl selects (R137). -/
def State.selected (s : State) (d : Nat) : Nat := cellOfSel d (s.dist d).sel.toNat

/-- A read through the window: zero where the cell is not frozen (R136). -/
def State.readWindow (s : State) (d off : Nat) : Word :=
  let c := s.selected d
  if s.isFrozen c then s.readPart c (dwPart off) else 0

/-- A write through it: ignored where the cell is not frozen. -/
def State.writeWindow (s : State) (d off : Nat) (v : Word) : State :=
  let c := s.selected d
  if s.isFrozen c then s.writePart c v (dwPart off) else s

/-- dw.ctl (R137). -/
def State.readDwCtl (s : State) (d : Nat) : Word :=
  let c := s.selected d
  BitVec.ofNat 64 (2 ^ 6 * (s.dist d).sel.toNat + 2 ^ 5 * b2n (s.isFrozen c) +
    2 ^ 4 * b2n ((s.core c).act.isSome && !(s.ctx c).retriable))

/-- A write of dw.ctl selects a cell and acts on it (R137). -/
def State.writeDwCtl (s : State) (d : Nat) (v : Word) : State :=
  let s1 := s.updDist d (fun x => { x with sel := v.extractLsb' 6 6 })
  s1.hallAction (s1.selected d) (fieldNat v 0 3)

/-! ## The read -/

/-- dr.cnt (R413): stretched cycles, those of a stretch in progress among them. -/
def District.count (d : District) (now : Nat) (cap : Bool) : Word :=
  if d.stretched || cap then satAdd64 d.drCnt (now - d.stretchSince) else d.drCnt

/-- lq.stat (R116). -/
def State.lqStat (s : State) (i : Nat) : Word :=
  let q := s.lq i
  BitVec.ofNat 64 (2 ^ 32 * q.errdesc + 2 ^ 16 * q.cause + 4 * b2n q.nfault + 2 * b2n (s.lqBusy i) + b2n q.err)

/-- inv.ctl (R84). -/
def InvSlot.ctl (i : InvSlot) : Word := BitVec.ofNat 64 (8 * b2n i.done + 4 * b2n i.busy + 2 * b2n i.glob)

/-- The statistics of a port in the order of R78. -/
def Stack.stat (k : Stack) (i : Nat) : Word := [k.rd, k.wr, k.merge, k.alert, k.bocyc, k.ce, k.ue].getD i 0

/-- The value that a register read returns (R6): zero of what only takes actions. -/
def State.readReg (s : State) (r : MmioReg) : Word :=
  match r with
  | .ppCtl => BitVec.ofNat 64 (2 ^ 40 * b2n s.ppGate + 2 ^ 8 * s.ppIdle.toNat + s.ppWake.toNat)
  | .imCfg => BitVec.ofNat 64 (2 ^ 32 * s.imp.quantum.toNat + 2 ^ 16 * s.imp.chunk.toNat + s.imp.stepmax.toNat)
  | .sqCtl => BitVec.ofNat 64 (2 ^ 56 * b2n s.imp.sqEn + 2 ^ 28 * s.imp.sqHold.toNat + s.imp.sqTime.toNat)
  | .frStat => BitVec.ofNat 64 (2 ^ 32 * s.imp.frMiss.toNat + s.imp.frHit.toNat)
  | .pcLim => BitVec.ofNat 64 (2 ^ 16 * b2n s.pcOver + s.pcWatts.toNat)
  | .impCtl => BitVec.ofNat 64 (b2n s.impValid)
  | .lqBase asid q => (s.lq (lqIndex asid q)).base
  | .lqCfg asid q => (s.lq (lqIndex asid q)).cfg
  | .lqStat asid q => s.lqStat (lqIndex asid q)
  | .lqTail asid q => BitVec.ofNat 64 (s.lq (lqIndex asid q)).tail
  | .lqEnts asid q => BitVec.ofNat 64 (s.lq (lqIndex asid q)).ents
  | .lqHead asid q => BitVec.ofNat 64 (s.lq (lqIndex asid q)).head
  | .invAsid die slot => (s.invSlot die slot).asid
  | .invBase die slot => (s.invSlot die slot).base
  | .invLen die slot => (s.invSlot die slot).len
  | .invCtl die slot => (s.invSlot die slot).ctl
  | .asidBase die => (s.die die).asidBase
  | .einjAddr die => (s.die die).einjLine
  | .einjCtl die => BitVec.ofNat 64 (8 * b2n (s.die die).einjFired + 2 * (s.die die).einjKind.toNat + b2n (s.die die).einjArm)
  | .rmCtl k => BitVec.ofNat 64 (2 ^ 32 * b2n (s.stack k).en + 2 ^ 16 * (s.stack k).backoff.toNat + (s.stack k).thresh.toNat)
  | .ps k i => (s.stack k).stat i
  | .sliceEntry die h => BitVec.ofNat 64 ((s.die die).sliceAt h)
  | .drCnt d => (s.dist d).count s.now s.capStretch
  | .bsStat => BitVec.ofNat 64 (2 ^ 8 * s.bsCause.toNat + 2 ^ 4 * s.bsStage.toNat + s.bsDone.toNat)
  | .impCyc b => Tab.get 0 s.impCyc b
  | .dwCtl d => s.readDwCtl d
  | .dw d off => s.readWindow d off
  | .idNode => s.idNode
  | .sqDesc => s.imp.sqDesc
  | .replyPort => s.imp.replyPort
  | .bufBase => s.imp.bufBase
  | .fmCtl => s.fmCtl.zeroExtend 64
  | .hallPolicy .. | .testPassed _ | .lqCancel .. | .psClr _ | .fpRet _ => 0

/-! ## The write -/

/-- The Attic rewrites a slice-table entry (R74): a retired slice or none that exists is refused, and the entry's lines leave the slice that held
them, so that no set holds more than 16 (R16). -/
def State.remapSlice (s : State) (die h v : Nat) : State :=
  let d := s.die die
  if d.deadSlices.contains v || v ≥ 48 || d.sliceAt h = v then s
  else (((d.lines.map (·.1)).filter (fun l => sliceHash l = h)).foldl (fun st l => st.dropLine die l) s).updDie die (fun x =>
    { x with slices := Tab.set x.slices h v })

/-- A register write (R6): reserved bits and read-only fields take nothing. -/
def State.writeReg (s : State) (r : MmioReg) (v : Word) : State :=
  match r with
  | .ppCtl => s.writePp v
  | .imCfg => s.updImp (·.writeCfg v)
  | .sqCtl => s.updImp (fun i => { i with sqEn := bitAt v 56, sqHold := v.extractLsb' 28 28, sqTime := v.extractLsb' 0 28 })
  | .frStat => s.updImp (fun i => { i with frMiss := 0, frHit := 0 })
  | .pcLim => { s with pcOver := (s.pcOver && !bitAt v 16) || s.capStretch, pcWatts := clampWatts (v.extractLsb' 0 12) }
  | .impCtl => { s with impValid := s.impValid && !bitAt v 0 }
  | .lqBase asid q => s.updLq (lqIndex asid q) (fun l => { l with base := v &&& ~~~0x7f })
  | .lqCfg asid q => s.updLq (lqIndex asid q) (fun l => { l with cfg := v &&& lqCfgMask })
  | .lqStat asid q => s.updLq (lqIndex asid q) (fun l => { l with nfault := l.nfault && !bitAt v 2, err := l.err && !bitAt v 0 })
  | .invAsid die slot => s.updInv die slot (fun i => { i with asid := v })
  | .invBase die slot => s.updInv die slot (fun i => { i with base := v })
  | .invLen die slot => s.updInv die slot (fun i => { i with len := v })
  | .invCtl die slot => s.invWrite die slot v
  | .asidBase die => s.updDie die (fun d => { d with asidBase := v &&& asidBaseMask })
  | .einjAddr die => s.updDie die (fun d => { d with einjLine := v &&& 0xfffffffffffc0 })
  | .einjCtl die => s.updDie die (·.writeEinj v)
  | .rmCtl k => s.updStack k (fun x => { x with en := bitAt v 32, backoff := v.extractLsb' 16 16, thresh := v.extractLsb' 0 16 })
  | .sliceEntry die h => s.remapSlice die h v.toNat
  | .dwCtl d => s.writeDwCtl d v
  | .dw d off => s.writeWindow d off v
  | .testPassed d => s.updDist d (fun x => { x with passed := x.commit })
  | .lqTail asid q => s.updLq (lqIndex asid q) (fun l => l.submit v.toNat)
  | .lqEnts asid q => s.updLq (lqIndex asid q) (fun l => l.resize v.toNat)
  | .lqHead .. | .ps .. | .drCnt _ | .bsStat | .impCyc _ => s
  | .hallPolicy d cause => s.updDist d (fun x => { x with policy := Tab.set x.policy cause (v.toNat % 8) })
  | .idNode => { s with idNode := v }
  | .sqDesc => s.updImp (fun i => { i with sqDesc := v })
  | .replyPort => s.updImp (fun i => { i with replyPort := v })
  | .bufBase => s.updImp (fun i => { i with bufBase := v })
  | .fmCtl => { s with fmCtl := v.extractLsb' 0 7 }
  | .lqCancel asid q => s.writeCancel asid q v
  | .psClr k => s.updStack k Stack.clear
  | .fpRet c => s.writeFpRet c v

def execRegisterWrite (r : MmioReg) (v : Word) (s : State) : Out := .next (s.writeReg r v)

end Sys2Proof.Machine
end

