-- ==== Sys2Proof/Machine/Sampling.lean ====
section
/-! DEFINITION. The sampling function (R378), what a request record asks of a claimer (R380), and what each mode gives (R381). -/

namespace Sys2Proof.Machine

/-! ## Weights (R378) -/

/-- Whether an FP32 pattern is NaN or infinite. -/
def f32Bad (b : Nat) : Bool := !(FloatTy.f32.decode b).isFinite

/-- Exact value of a weight in units of 2^-266 (R52). -/
def weightUnit (b : Nat) : Nat := match FloatTy.f32.decode b with
  | .fin false m e => (gridUnits false m e).toNat
  | _ => 0

/-- Weights in units of 2^-266 (R52). -/
def weightUnits (l : List Nat) : List Nat := l.map weightUnit

/-- The least token whose value is greatest, of the tokens given in rising order. -/
def argMax (row : List Nat) : List Nat → Option Nat
  | [] => none
  | t :: r => match argMax row r with
    | none => some t
    | some u => if Fl.cmp false (FloatTy.f32.decode (row.getD t 0)) (FloatTy.f32.decode (row.getD u 0)) < 0 then some u else some t

/-- round(2^a) of a token, a = (l[t] - m) x k in FP32 (R378). -/
def expWeight (k m l : Nat) : Nat :=
  let d := FloatTy.f32.subB .rne l m
  let zero := fun b => match FloatTy.f32.decode b with
    | .fin _ n _ => n = 0
    | _ => false
  FloatTy.f32.exp2 .rne (FloatTy.f32.decode (if zero d || zero k then 0 else FloatTy.f32.mulB .rne d k))

/-- Inserts a token behind those that rank before it: `before u t` says that u does. -/
def insToken (before : Nat → Nat → Bool) (t : Nat) : List Nat → List Nat
  | [] => [t]
  | u :: r => if before t u then t :: u :: r else u :: insToken before t r

/-- Tokens by rank: what `before` puts first comes first, the lower index first among equals. -/
def ranked (before : Nat → Nat → Bool) (l : List Nat) : List Nat := l.foldl (fun r t => insToken before t r) []

/-- The shortest prefix of the ranked tokens whose weight times 65,536 reaches `bound` (R378). -/
def topMass (unit : Nat → Nat) (bound : Nat) : Nat → List Nat → List Nat
  | _, [] => []
  | acc, t :: r => if (acc + unit t) * 65536 ≥ bound then [t] else t :: topMass unit bound (acc + unit t) r

/-- The tokens that top-k and top-p leave (R378). -/
def keptTokens (w : List Nat) (K P : Nat) (A : List Nat) : List Nat :=
  let unit := fun t => weightUnit (w.getD t 0)
  let o := ranked (fun t u => w.getD u 0 < w.getD t 0) A
  let o1 := if K > 0 then o.take K else o
  if P < 65536 then topMass unit (P * (o1.map unit).sum) 0 o1 else o1

/-- The weights of a row, 0 outside the tokens kept, as FP32 patterns (R378, R381). -/
def rowWeights (row : List Nat) (k K P : Nat) (A : List Nat) : List Nat :=
  match argMax row A with
  | none => row.map (fun _ => 0)
  | some top =>
    let w := row.map (fun l => expWeight k (row.getD top 0) l)
    let kept := keptTokens w K P A
    w.mapIdx (fun t b => if kept.contains t then b else 0)

/-- sample(p) (R378, R339): the least token whose prefix sum exceeds u. -/
def pickToken (u total : Nat) : Nat → Nat → List Nat → Option Nat
  | _, _, [] => none
  | t, acc, w :: r => if (acc + w) * 2 ^ 32 > u * total then some t else pickToken u total (t + 1) (acc + w) r

/-- The draw of R378 against final weights. -/
def drawToken (seed seqn idx : Word) (w : List Nat) : Nat :=
  let v := weightUnits w
  (pickToken (draw seed seqn idx).toNat v.sum 0 0 v).getD 0

/-! ## Request records (R380) -/

/-- round(0x3fb8aa3b ÷ T) (R378, R380), 0 where T is +0. -/
def tempFactor (t : BitVec 32) : Nat :=
  match FloatTy.f32.decode t.toNat, FloatTy.f32.decode 0x3fb8aa3b with
  | .fin _ m e, .fin _ n d => if m = 0 then 0 else FloatTy.f32.round .rne false (n * 2 ^ 96 / m) (d - e - 96) (n * 2 ^ 96 % m ≠ 0)
  | _, _ => 0

/-- A request record as a claimer reads it. -/
structure SampleReq where
  seed    : Word
  seqn    : Word
  idx     : Word
  temp    : Nat
  topk    : Nat
  topp    : Nat
  vocab   : Nat
  mode    : Nat
  childs  : Nat
  count   : Nat
  settled : Nat
  mask    : Nat
  weight  : Nat
  k       : Nat
  deriving DecidableEq, Repr

def SampleReq.ofBytes (b : List Byte) : SampleReq :=
  let f := fieldLe b
  { seed := BitVec.ofNat 64 (f 0 8), seqn := BitVec.ofNat 64 (f 8 8), idx := BitVec.ofNat 64 (f 16 8), temp := f 24 4, topk := f 28 4
    topp := f 32 4, vocab := f 36 4, mode := f 40 1, childs := f 41 1, count := f 42 2, settled := f 44 4, mask := f 48 8
    weight := f 56 8, k := f 72 4 }

/-! ## Modes (R381) -/

/-- What a claimer does for a row: code and token of its reply, weights (none where it writes none), and children. -/
structure Sampled where
  code   : Nat
  tok    : Nat
  weight : Option (List Nat)
  childs : List Nat
  deriving DecidableEq, Repr

/-- The action of each mode on a row with its poison tag and allowed tokens (R378, R381). With T = +0 no weights are formed; a draft row
then has as children the tokens that rank highest by value, as many as there are (log entry 82). -/
def sampleRow (q : SampleReq) (row : List Nat) (tag : Bool) (A : List Nat) : Sampled :=
  if tag then ⟨0x11, 0, none, []⟩
  else if row.any f32Bad then ⟨0x10, 0, none, []⟩
  else if q.mode = 3 then (if q.count = 0 then ⟨0x12, 0, none, []⟩ else ⟨0x01, q.settled, none, []⟩)
  else if q.temp = 0 then
    (if q.mode = 1 then
      ⟨0x02, 0, none, (ranked (fun t u => 0 < Fl.cmp false (FloatTy.f32.decode (row.getD t 0)) (FloatTy.f32.decode (row.getD u 0))) A).take q.childs⟩
    else ⟨0x01, (argMax row A).getD 0, none, []⟩)
  else
    let w := rowWeights row q.k q.topk q.topp A
    if q.mode = 0 then ⟨0x01, drawToken q.seed q.seqn q.idx w, none, []⟩
    else if q.mode = 1 then ⟨0x02, 0, some w, (List.range q.childs).map (fun c => drawToken q.seed q.seqn (q.idx + BitVec.ofNat 64 c) w)⟩
    else ⟨0x03, 0, some w, []⟩

/-- The image of S behind a row of weights (R54, R380). -/
def totalBytes (w : List Nat) : List Byte := XA.bytes { XA.zero with x := BitVec.ofNat 576 (weightUnits w).sum }

/-- The stores of a claimer before its reply: weights, their total, children. -/
def Sampled.stores (a : Sampled) (rec : Nat) (q : SampleReq) : List (Nat × List Byte) :=
  (match a.weight with
  | some w => [(q.weight, (w.map (leBytes 4)).flatten), (q.weight + roundUp (4 * q.vocab) 64, totalBytes w)]
  | none => []) ++ (if a.childs = [] then [] else [(rec + 128, (a.childs.map (leBytes 4)).flatten)])

/-- The reply word of R382. -/
def replyWord (stepNo : Word) (a : Sampled) : Word :=
  BitVec.ofNat 64 (stepNo.toNat % 2 ^ 24 * 2 ^ 40 + a.code * 2 ^ 32 + (if a.code = 1 then a.tok % 2 ^ 32 else 0))

end Sys2Proof.Machine
end

