-- ==== Sys2Proof/Machine/Reply.lean ====
section
/-! DEFINITION. Replies that come from the Attic (R384, R385): it computes a row from its request record and the logit row, writes what
the mode asks for, and replies. -/

namespace Sys2Proof.Machine

/-- The tokens that a row's mask allows, all below V where it has none (R378); none where the mask cannot be read. -/
def State.readAllowed (s : State) (q : SampleReq) : Option (List Nat) × State :=
  if q.mask = 0 then (some (List.range q.vocab), s)
  else match s.sysRead 0 0 q.mask (ceilDiv q.vocab 8) with
    | (.error _, s1) => (none, s1)
    | (.ok b, s1) => (some ((List.range q.vocab).filter (fun t => bitAt (b.getD (t / 8) 0) (t % 8))), s1)

/-- What R378 and R381 give for a row of the step; none where its record, mask or logit row cannot be read. -/
def State.computeRow (s : State) (st : StepState) (row : Nat) : Option (SampleReq × Sampled) × State :=
  match s.sysRead 0 0 (st.reqBase + 192 * row) 192 with
  | (.error _, s1) => (none, s1)
  | (.ok b, s1) =>
    let q := SampleReq.ofBytes b
    match s1.readAllowed q with
    | (none, s2) => (none, s2)
    | (some A, s2) => match s2.sysRead 0 0 (st.logit + row * st.pitch) (4 * q.vocab) with
      | (.error (.poison, _), s3) => (some (q, sampleRow q [] true A), s3)
      | (.error _, s3) => (none, s3)
      | (.ok l, s3) => (some (q, sampleRow q (idsOf q.vocab l) false A), s3)

/-- The Attic answers a row: its stores are performed before the Imposer takes the word. `v` is the word of a row that cannot be read, for
which the spec states none (log entry 82). -/
def State.answerRow (s : State) (st : StepState) (row : Nat) (v : Word) : State :=
  match s.computeRow st row with
  | (none, s1) => s1.takeReply row v
  | (some (q, a), s1) =>
    ((a.stores (st.reqBase + 192 * row) q).foldl (fun s w => (s.sysWrite 0 0 w.1 w.2).2) s1).takeReply row (replyWord s.imp.stepNo a)

/-- The item at the head of the sampling queue: the count of items claimed, its row and step number; none of an empty queue. -/
def State.headItem (s : State) : Option (Nat × Nat × Nat) :=
  match s.asid0 s.imp.sqDesc.toNat 8, s.asid0 (s.imp.sqDesc.toNat + 8) 8 with
  | some head, some tail => if head = tail then none else (s.sampleItem head).map (fun i => (head, i))
  | _, _ => none

/-- The Attic's reads of the sampling queue's descriptor and of the item at its head reach their ports and banks (R80, R89). -/
def State.readQueue (s : State) : State :=
  let s1 := (s.sysRead 0 0 s.imp.sqDesc.toNat 64).2
  match s1.asid0 s.imp.sqDesc.toNat 8 with
  | none => s1
  | some head => match s1.itemAddr head with
    | none => s1
    | some a => (s1.sysRead 0 0 a 64).2

/-- The Attic's reply for a row: one that it has been asked for (R384), or in Attic-assisted mode that of the queue's head, which it claims
(R276, R385). An item of another step is claimed and its reply discarded. -/
def State.atticReply (s : State) (row : Nat) (v : Word) : State :=
  match s.imp.step with
  | none => s
  | some st =>
    if (st.lrows[row]?).any (fun l => l.asked && l.reply.isNone) then s.answerRow st row v
    else if bitAt s.imp.modes 5 then
      let s0 := s.readQueue
      match s0.headItem with
      | none => s0
      | some (head, r, no) =>
        if r ≠ row then s0
        else
          let s1 := (s0.sysWrite 0 0 s0.imp.sqDesc.toNat (leBytes 8 (head + 1))).2
          if no = s.imp.stepNo.toNat then s1.answerRow st row v else s1
    else s

/-- A reply that comes from outside the cells (R384, R385). -/
def execSamplerReply (row : Nat) (v : Word) (s : State) : Out := .next (s.whole (fun s => s.atticReply row v))

end Sys2Proof.Machine
end

