-- ==== Sys2Proof/Machine/Setup.lean ====
section
/-! DEFINITION. What system software does to the Imposer: loading and resuming programs (R39, R317, R350), registrations (R324, R338, R387, R388,
R393), withdrawals (R377) and galley pages (R324). -/

namespace Sys2Proof.Machine

/-! ## Programs -/

/-- The contexts that a program starts with (R39, R356). DESIGN CHOICE (log entry 83): where a declared context would exceed R327, which
speaks of CNEW and CFORK only, its register is left with none and the load goes on. -/
def State.declare (s : State) (p : Nat) : List (Nat × Nat) → State
  | [] => s
  | (r, b) :: t => match s.newContext { Context.blank with owner := p, binding := b } with
    | none => s.declare p t
    | some (id, s1) => (s1.writeC p (BitVec.ofNat 4 r) (some id)).declare p t

/-- Loading a program (R317): a binding that a .model directive or a declaration names and that is not registered stops the load with an error
returned to system software (R39), and so does a program number in use (log entry 15). -/
def State.loadProg (s : State) (p : Nat) (ld : ProgLoad) : State :=
  let busy := match Tab.find s.imp.progs p with
    | some g => g.run ≠ .ended && g.status ≠ 0x22
    | none => false
  if p ≥ 65536 || busy || (ld.models ++ ld.ctxs.map (·.2)).any (fun b => (s.binding b).isNone) then s.notice (.loadError p)
  else
    (s.updImp (fun i => { i with progs := Tab.set i.progs p { Prog.empty with
      pc := BitVec.ofNat 64 ld.entry, cls := ld.cls % 4, weight := max 1 (min 255 ld.weight), mask := ld.mask, asid := ld.asid
      entry := ld.entry, image := ld.image } })).declare p ld.ctxs

def execProgramLoad (p : Nat) (ld : ProgLoad) (s : State) : Out := .next (s.loadProg p ld)

/-- RETURN FROM A STOP (R350): at pc or behind it; not for a killed or ended program. -/
def State.resumeProg (s : State) (p : Nat) (skip : Bool) : State :=
  let g := s.prog p
  if g.run = .stopped && g.status ≠ 0x22 then
    s.updProg p (fun g => { g with run := .ready, pc := if skip then g.pc + 8 else g.pc })
  else s

def execProgramResume (p : Nat) (skip : Bool) (s : State) : Out := .next (s.resumeProg p skip)

/-! ## Registrations -/

/-- Registration of a binding (R39, R324). DESIGN CHOICE (log entry 83): an id that is registered already takes the new registration, without
the Compositor tables and the withdrawal of the old one. -/
def execModelBindingRegister (b : Nat) (r : BindingReg) (s : State) : Out :=
  .next (s.updImp (fun i => { i with bindings := Tab.set i.bindings b ⟨r, none, false⟩ }))

/-- Compositor tables of a registered binding; tables that break their layout are refused (R388). -/
def State.registerTables (s : State) (b : Nat) (t : CompTables) : State :=
  match Tab.find s.imp.bindings b with
  | none => s
  | some x => if t.ok x.reg.vocab then s.updImp (fun i => { i with bindings := Tab.set i.bindings b { x with tables := some t } }) else s

def execCompositorTablesRegister (b : Nat) (t : CompTables) (s : State) : Out := .next (s.registerTables b t)

/-- The automaton that a header in memory describes (R393): none where it breaks a limit or cannot be read. -/
def State.readAutomaton (s : State) (asid va : Nat) : Option Automaton × State :=
  match s.sysRead 0 asid va 64 with
  | (.error _, s1) => (none, s1)
  | (.ok h, s1) =>
    let V := fieldLe h 4 4
    let n := fieldLe h 0 2
    let C := fieldLe h 2 2
    if fieldLe h 24 40 ≠ 0 || n > 4096 || C > 256 then (none, s1)
    else match s1.sysRead 0 asid (fieldLe h 8 8) V with
      | (.error _, s2) => (none, s2)
      | (.ok cls, s2) => match s2.sysRead 0 asid (fieldLe h 16 8) (4 * n * C) with
        | (.error _, s3) => (none, s3)
        | (.ok tr, s3) =>
          let a : Automaton := ⟨n, C, V, cls.map BitVec.toNat, (records 4 (n * C) tr).map (fun r => BitVec.ofNat 32 (leNat r))⟩
          (if a.ok then some a else none, s3)

/-- Registration of an automaton (R393). -/
def State.registerAuto (s : State) (id asid va : Nat) : State :=
  match s.readAutomaton asid va with
  | (some a, s1) => if id ≤ 0xfffe then s1.updImp (fun i => { i with autos := Tab.set i.autos id a }) else s1
  | (none, s1) => s1

def execAutomatonRegister (id asid va : Nat) (s : State) : Out := .next (s.whole (fun s => s.registerAuto id asid va))

def execSamplerTemplateRegister (t : List Byte) (s : State) : Out := .next (s.updImp (fun i => { i with sampler := some t }))

/-- Pages join the pool (R324), each once. -/
def Imposer.grant (i : Imposer) (pages : List Nat) : Imposer :=
  pages.foldl (fun i pg => if i.free.contains pg || i.share pg > 0 then i else { i with free := i.free ++ [pg] }) i

def execGalleyPoolGrant (pages : List Nat) (s : State) : Out := .next (s.updImp (fun i => i.grant pages))

/-- A withdrawal is decided at a token boundary (R377): at once between steps. -/
def State.withdrawBinding (s : State) (b : Nat) : State :=
  if s.imp.step.isSome then s.updImp (fun i => { i with withdrawn := i.withdrawn ++ [b] }) else s.withdraw b

def execBindingWithdrawal (b : Nat) (s : State) : Out := .next (s.withdrawBinding b)

end Sys2Proof.Machine
end

