-- ==== Sys2Proof/Machine/StepForm.lean ====
section
/-! DEFINITION. Stages 1 to 3 of a step (R10): the rows and their pages (R328, R332, R333, R342), the batch descriptor and the request
records (R329, R380), the masks (R395, R396), and the step graph with the sampler launch (R329, R387). -/

namespace Sys2Proof.Machine

/-! ## Configuration (R331) -/

def Imposer.stepTokens (i : Imposer) : Nat := max 2048 i.stepmax.toNat
/-- Tokens a row may feed: the chunk, within what a step may feed. -/
def Imposer.rowTokens (i : Imposer) : Nat := min (max 16 (min 16384 i.chunk.toNat)) i.stepTokens
def Imposer.turnTokens (i : Imposer) (weight : Nat) : Nat := max 1 i.quantum.toNat * weight

/-! ## The row a program's instruction would feed next (R328, R366 to R371) -/

/-- The draft binding of a speculative GENU (R338). -/
def State.draftOf (s : State) (x : Context) (blk : GenBlk) : Option Nat :=
  if blk.spec && blk.branch.headD 0 ≠ 0 then
    match (s.binding x.binding).bind (fun b => b.reg.draft) with
    | some d => if (s.binding d).isSome then some d else none
    | none => none
  else none

/-- The tree node at a position of a row, none for the root; its depth (R338). -/
def nodeAt (j : Nat) : Option Nat := if j = 0 then none else some (j - 1)
def Context.levelAt (x : Context) (j : Nat) : Nat := ((nodeAt j).bind (fun n => x.tree[n]?.map (·.level))).getD 0

def Context.lastTok (x : Context) : Nat := x.tokens.getLastD 0
/-- A row for a context. -/
def StepRow.mk' (p id slot pos kind nl upto : Nat) (toks parents : List Nat) : StepRow :=
  { ctx := id, prog := p, slot := slot, ntok := toks.length, pos := pos, first := 0, lrow := 0, nl := nl, kind := kind, toks := toks
    parents := parents, upto := upto }

/-- A row of kind 2 (R370): the last committed token and the scored ones before the last of the chunk. -/
def scoreRow (p id slot cap : Nat) (x : Context) (f : List Nat) (done : Nat) : Option StepRow :=
  let m := min cap (f.length - done)
  if m = 0 then none
  else some (StepRow.mk' p id slot (x.tokens.length - 1) 2 m (x.tokens.length + m) (x.lastTok :: (f.drop done).take (m - 1)) [])

/-- A row of kind 3 (R329, R338): the root and every node so far, each with its parent's position in the row. -/
def treeRow (p id slot upto : Nat) (x : Context) : StepRow :=
  StepRow.mk' p id slot (x.tokens.length - 1) 3 (x.tree.length + 1) upto (x.lastTok :: x.tree.map (·.token))
    (255 :: x.tree.map (fun t => match t.parent with
      | none => 0
      | some j => j + 1))

/-- GENU's row (R338, R368): of the draft step, of the verify step, or one of kind 1. A draft step below the root feeds the tree as far as it
has grown (log entry 80). -/
def State.genRow (s : State) (p id slot : Nat) (x : Context) (blk : GenBlk) : StepRow :=
  let n := x.tokens.length
  let more := fun k => if bitAt s.imp.modes 1 then n else n + k
  match s.draftOf x blk with
  | none => StepRow.mk' p id slot (n - 1) 1 1 (more 1) [x.lastTok] []
  | some _ =>
    if x.treeDone then treeRow p id slot (more (x.tree.length + 1)) x
    else if x.level = 0 then StepRow.mk' p id slot (n - 1) 1 1 n [x.lastTok] []
    else treeRow p id slot n x

/-- The row that a program would feed next; none where it is not ready (R326, R334). A candidate of CHOOSE has no fork of its own before its
first row, which the context itself shows. -/
def State.rowOf (s : State) (p : Nat) : Option StepRow :=
  let g := s.prog p
  let cap := s.imp.rowTokens
  match g.ins, g.longCtx with
  | some ins, some id =>
    let x := s.cx id
    match x.slot with
    | none => none
    | some slot =>
      if g.intr || x.accepted.isSome then none
      else if x.reappend then
        let toks := x.prefill.take cap
        if toks = [] then none
        else some (StepRow.mk' p id slot x.written 0 0 (x.written + toks.length) toks [])
      else match ins with
        | .append .. =>
          let rest := (x.feed.headD []).drop x.progDone.toNat
          let all := x.tokens.drop x.written ++ rest.dropLast
          let toks := all.take cap
          if toks = [] then none
          else some (StepRow.mk' p id slot x.written 0 0
            (if toks.length = all.length then x.tokens.length + rest.length else max x.tokens.length (x.written + toks.length)) toks [])
        | .genu .. => x.gblk.map (fun blk => s.genRow p id slot x blk)
        | .score .. => scoreRow p id slot cap x (x.feed.headD []) x.progDone.toNat
        | .choose .. =>
          let f := x.forkCur.getD id
          scoreRow p f slot cap (s.cx f) (x.feed.getD (fieldNat x.progStop 0 8) []) x.progDone.toNat
        | _ => none
  | _, _ => none

/-- The binding whose graph runs a program's row, and whether that is a draft step (R338). -/
def State.rowBinding (s : State) (p : Nat) : Nat × Bool :=
  match (s.prog p).longCtx with
  | none => (0, false)
  | some id =>
    let x := s.cx id
    match (s.prog p).ins, x.gblk with
    | some (.genu ..), some blk => match s.draftOf x blk with
      | some d => if x.reappend || x.treeDone then (x.binding, false) else (d, true)
      | none => (x.binding, false)
    | _, _ => (x.binding, false)

/-! ## Forming a step (R332, R342) -/

/-- A step being formed: programs with a row, tokens so far, binding, and the first ready program of the class passed for its binding
only. -/
structure Form where
  s     : State
  picks : List Nat
  tok   : Nat
  bind  : Option (Nat × Bool)
  skip  : Option Nat

/-- Pages for the row of a program, by the three steps of R342; a candidate of CHOOSE takes its fork first (R371). -/
def State.reserve (s : State) (p : Nat) (picks : List Nat) : PageRes :=
  let rows := (picks ++ [p]).filterMap (fun q => (s.prog q).longCtx)
  let pages := fun (s : State) => s.getPages p (fun s => (s.rowOf p).map (fun r => (r.ctx, r.upto))) rows rows 1000000
  match (s.prog p).ins, (s.prog p).longCtx with
  | some (.choose ..), some id => if (s.cx id).reappend then pages s else match s.startCand p id with
    | .ok s1 => pages s1
    | r => r
  | _, _ => pages s

/-! ## Equal APPENDs (R325) -/

/-- What two APPENDs must have in common to be prefilled once: binding, token string before them, and the tokens they add. -/
def State.shareKey (s : State) (p : Nat) : Option (Nat × List Nat × List Nat) :=
  match (s.prog p).ins, (s.prog p).longCtx with
  | some (.append ..), some id =>
    let x := s.cx id
    if x.slot.isNone || x.progOp ≠ 0x28 || x.reappend then none
    else some (x.binding, x.tokens.take (x.tokens.length - x.progDone.toNat), x.feed.headD [])
  | _, _ => none

/-- Programs whose APPEND a program's prefill serves too: of those that planning has found, the ones whose APPEND is now equal (R319, R325). -/
def State.followers (s : State) (p : Nat) : List Nat :=
  match s.shareKey p, Tab.find s.imp.plans p with
  | some k, some plan => plan.share.filter (fun q => s.shareKey q = some k)
  | _, _ => []

def State.feedAt (s : State) (p : Nat) : Nat := (((s.prog p).longCtx).map (fun id => (s.cx id).written)).getD 0

/-- Whether a program leaves its prefill to one of the step's, which is as far or further (R325): a free value of the step. -/
def Form.shared (f : Form) (p : Nat) : Bool :=
  (f.s.followers p).any (fun q => f.picks.contains q && f.s.feedAt p ≤ f.s.feedAt q && Config.sharesPrefill f.s.imp.stepNo.toNat)

/-- Whether the step has room for the row of a program. -/
def Form.fits (f : Form) (p t : Nat) : Bool := f.picks.length < 2048 && f.tok + t ≤ f.s.imp.stepTokens && !f.picks.contains p

/-- Whether the step runs the binding of a program's row. -/
def Form.binds (f : Form) (p : Nat) : Bool := match f.bind with
  | none => true
  | some b => f.s.rowBinding p = b

/-- The ring moves on from a program (R332). -/
def Form.pass (f : Form) (k p : Nat) : Form :=
  let s1 := f.s.advanceRing k
  { f with s := if (s1.rowOf p).isSome then s1 else s1.updProg p (fun g => { g with deficit := 0 }) }

/-- One turn of the loop of R332: the form after it, and whether the class may still add rows: a row was added, or the program lacked
only deficit. -/
def Form.turn (f : Form) (k p : Nat) : Form × Bool :=
  let g := f.s.prog p
  let s1 := if g.turnNew then f.s.updProg p (fun g => { g with deficit := g.deficit + f.s.imp.turnTokens g.weight, turnNew := false })
    else f.s
  let f1 := { f with s := s1 }
  match s1.rowOf p with
  | none => (f1.pass k p, false)
  | some r =>
    if !f1.fits p r.ntok || f1.shared p then (f1.pass k p, false)
    else if !f1.binds p then ({ f1 with skip := f1.skip.or (some p) }.pass k p, false)
    else if (s1.prog p).deficit < r.ntok then (f1.pass k p, true)
    else match s1.reserve p f.picks with
      | .wait s2 => ({ f1 with s := s2 }.pass k p, false)
      | .dry s2 => match (s2.prog p).longCtx with
        | some id => ({ f1 with s := s2.retireLong p id 0x14 }, true)
        | none => ({ f1 with s := s2 }.pass k p, false)
      | .ok s2 =>
        let t := ((s2.rowOf p).map (·.ntok)).getD 0
        ({ f with s := s2.updProg p (fun g => { g with deficit := g.deficit - t }), picks := f.picks ++ [p], tok := f.tok + t
                  bind := some (s2.rowBinding p) }, true)

/-- The loop for one class: it ends when the step is full, or after a round in which nothing was or could come to be added. -/
def Form.serve (k : Nat) : Nat → Nat → Form → Form
  | 0, _, f => f
  | n + 1, idle, f => match f.s.imp.ringAt k with
    | none => f
    | some p =>
      if idle ≥ (f.s.imp.ringOf k).length || f.picks.length ≥ 2048 || f.tok ≥ f.s.imp.stepTokens then f
      else
        let (f1, more) := f.turn k p
        f1.serve k n (if more then 0 else idle + 1)

/-- The end of a class's turn: where a ready program was passed only for its binding the ring stays at it, so that the next step begins there
and it is served before the ring has passed once round (R332; log entry 81). -/
def Form.settle (k : Nat) (f : Form) : Form := match f.skip with
  | none => f
  | some p => { f with s := f.s.updImp (fun i => { i with ring := i.ring.set! k p }), skip := none }

/-- Rows for all classes in strict order, 3 first (R332). -/
def State.pickRows (s : State) : Form :=
  [3, 2, 1, 0].foldl (fun f k => (Form.serve k 10000000000 0 f).settle k) ⟨s, [], 0, none, none⟩

/-- Rows by slot number, with the places of their tokens and logit rows (R329). -/
def insRow : List StepRow → StepRow → List StepRow
  | [], r => [r]
  | k :: t, r => if r.slot < k.slot then r :: k :: t else k :: insRow t r

def numberRows : Nat → Nat → List StepRow → List StepRow
  | _, _, [] => []
  | tok, l, r :: t => { r with first := tok, lrow := l } :: numberRows (tok + r.ntok) (l + r.nl) t

/-! ## The batch descriptor and the request records -/

/-- The logit rows of a row (R329, R380, R386). -/
def State.logitRows (s : State) (k : Nat) (r : StepRow) : List LogitRow :=
  let c := ((s.prog r.prog).longCtx).getD 0
  let x := s.cx c
  let one := fun node mode childs count settled => (⟨k, node, mode, childs, count, settled, none, false, none⟩ : LogitRow)
  if r.kind = 2 then
    let f := x.feed.getD (match (s.prog r.prog).ins with
      | some (.choose ..) => fieldNat x.progStop 0 8
      | _ => 0) []
    (List.range r.nl).map (fun j => one j 3 0 1 (f.getD (x.progDone.toNat + j) 0))
  else
    let V := s.vocab (s.rowBinding r.prog).1
    (List.range r.nl).map (fun j => match x.gblk with
      | none => one j 0 0 V 0
      | some blk => match s.draftOf x blk with
        | none => one j 0 0 V 0
        | some _ => if x.treeDone then one j 2 0 V 0 else one j 1 (blk.branch.getD (x.levelAt j) 0) V 0)

/-- Children that the rows before logit row l of the same context draw: where its own begin (R338, R380). A row whose mask allows no token has
none. -/
def childsBefore (lrs : List LogitRow) (l : Nat) (lr : LogitRow) : Nat :=
  (((lrs.take l).filter (fun q => q.row = lr.row && !(q.mode = 3 && q.count = 0))).map (·.childs)).sum

/-- A request record (R380). -/
def State.record (s : State) (st : StepState) (l : Nat) (lr : LogitRow) : List Byte :=
  match st.rows[lr.row]? with
  | none => []
  | some r =>
    let x := s.cx (((s.prog r.prog).longCtx).getD 0)
    let blk := x.gblk
    let T : BitVec 32 := (blk.map GenBlk.temp).getD 0
    let draft := decide (lr.mode = 1)
    let idx : Word := if draft then 64 * x.draw + BitVec.ofNat 64 (childsBefore st.lrows l lr) else x.draw
    let masked := r.kind ≠ 2 && x.fAuto ≠ 0xffff
    leBytes 8 ((blk.map GenBlk.seed).getD 0).toNat ++ leBytes 8 (if draft then x.seqn ^^^ 0x8000000000000000 else x.seqn).toNat ++
    leBytes 8 idx.toNat ++ leBytes 4 T.toNat ++ leBytes 4 ((blk.map GenBlk.topk).getD 0) ++ leBytes 4 ((blk.map GenBlk.topp).getD 65536) ++
    leBytes 4 (s.vocab st.binding) ++ leBytes 1 lr.mode ++ leBytes 1 lr.childs ++ leBytes 2 (if lr.mode = 3 then lr.count else 0) ++
    leBytes 4 (if lr.mode = 3 then lr.settled else 0) ++ leBytes 8 (if masked then st.mask + l * st.mpitch else 0) ++
    leBytes 8 (if lr.mode = 1 || lr.mode = 2 then st.weight + l * st.wpitch else 0) ++ leBytes 8 (s.imp.replyPort.toNat + 8 * l) ++
    leBytes 4 (tempFactor T) ++ leBytes 52 0 ++ leBytes 64 0

/-- The row entry of R329, with the Pantry snapshot that is live (R341). -/
def StepRow.bytes (r : StepRow) (snap : Option Nat) : List Byte :=
  leBytes 2 r.slot ++ leBytes 2 r.ntok ++ leBytes 4 r.pos ++ leBytes 8 (Config.galleyTable r.ctx).toNat ++
    leBytes 4 (Config.pantrySlot r.ctx snap) ++ leBytes 4 r.first ++ leBytes 4 r.lrow ++ leBytes 2 r.nl ++ leBytes 1 r.kind ++ leBytes 1 0

/-- Where a step's buffers lie from a base (R329, R380; log entry 15): descriptor, records, tokens, parents, masks, logit rows, weight
rows. -/
def State.layout (s : State) (base : Nat) (b : Nat × Bool) (rows : List StepRow) : StepState :=
  let V := s.vocab b.1
  let nl := (rows.map (·.nl)).sum
  let nt := (rows.map (·.ntok)).sum
  let desc := roundUp base 64
  let req := roundUp (desc + 64 + 32 * rows.length) 64
  let mpitch := roundUp (ceilDiv V 8) 64
  let mask := roundUp (req + 192 * nl + 5 * nt) 64
  let pitch := roundUp (4 * V) 64
  let logit := mask + mpitch * nl
  let weight := logit + pitch * nl
  { stage := 1, binding := b.1, draft := b.2, verify := rows.any (fun r => r.kind = 3) && !b.2, desc := desc, reqBase := req
    logit := logit, pitch := pitch, mask := mask, mpitch := mpitch, weight := weight, wpitch := pitch + 128
    stop := weight + (pitch + 128) * nl, rows := rows, lrows := ((List.range rows.length).map (fun k =>
      ((rows[k]?).map (s.logitRows k)).getD [])).flatten, graph := [], sampler := none }

/-- The header, the rows, the records and the token and parent arrays as one run of bytes (R329, R380). -/
def State.stepBytes (s : State) (st : StepState) : List Byte :=
  let nl := st.lrows.length
  let nt := (st.rows.map (·.ntok)).sum
  let head := leBytes 8 s.imp.stepNo.toNat ++ leBytes 2 st.rows.length ++ leBytes 2 st.binding ++
    leBytes 4 (b2n st.verify + 2 * b2n st.draft) ++ leBytes 8 st.logit ++ leBytes 4 st.pitch ++ leBytes 4 nl ++
    leBytes 8 (st.reqBase + 192 * nl) ++ leBytes 8 st.mask ++ leBytes 4 st.mpitch ++ leBytes 4 0 ++ leBytes 8 (st.reqBase + 192 * nl + 4 * nt)
  let rows := (st.rows.map (fun r => r.bytes (s.cx r.ctx).snap)).flatten
  let pad := List.replicate (st.reqBase - (st.desc + 64 + 32 * st.rows.length)) 0
  let recs := ((List.range nl).map (fun l => ((st.lrows[l]?).map (s.record st l)).getD [])).flatten
  let toks := (st.rows.map (fun r => idBytes r.toks)).flatten
  let parents := (st.rows.map (fun r => (r.toks.mapIdx (fun i _ => BitVec.ofNat 8 (r.parents.getD i 255))))).flatten
  head ++ rows ++ pad ++ recs ++ toks ++ parents

/-- Buffers of earlier steps that must not be reused yet (R383). -/
def Imposer.bufsHeld (i : Imposer) (now : Nat) : List (Nat × Nat × Nat) := i.bufs.filter (fun b => now < b.2.2 + i.sqHold.toNat)

/-- The lowest place from a base on for buffers of n bytes that overlap none still held (log entry 15). -/
def clearOf (held : List (Nat × Nat × Nat)) (n : Nat) : Nat → Nat → Nat
  | 0, base => base
  | fuel + 1, base => match held.find? (fun b => b.1 < base + n && base < b.2.1) with
    | some b => clearOf held n fuel (roundUp b.2.1 64)
    | none => base

/-- The buffers of a step (R383): laid out from the base that system software gave, past those still held. -/
def State.placeBufs (s : State) (b : Nat × Bool) (rows : List StepRow) : StepState :=
  let st := s.layout s.imp.bufBase.toNat b rows
  s.layout (clearOf s.imp.bufs (st.stop - st.desc) (s.imp.bufs.length + 1) st.desc) b rows

/-- Whether system software has mapped the buffers of a step for writing. -/
def State.bufsMapped (s : State) (st : StepState) : Bool :=
  (List.range (st.stop / 65536 + 1 - st.desc / 65536)).all (fun i => match s.sysPlace 0 0 ((st.desc / 65536 + i) * 65536) .store with
    | .ok _ => true
    | .error _ => false)

/-! ## Stage 1 -/

/-- Programs in long instructions that a boundary finds without a slot, or interrupted: they are fetched and issued again (R326, R334);
an APPEND with one token left commits it (R366). -/
def State.landAll (s : State) : State :=
  s.imp.progs.foldl (fun st g =>
    let s1 := st.reissue g.1
    match (s1.prog g.1).ins, (s1.prog g.1).longCtx with
    | some (.append ..), some id => if (s1.cx id).reappend || (s1.cx id).progOp = 0 then s1 else s1.appendFinal g.1 id
    | _, _ => s1) s

/-! ### The look-ahead window (R319) -/

/-- Instructions after which the window stops. -/
def endsWindow : Instr → Bool
  | .br .. | .jmp .. | .call .. | .ret .. | .waitc .. | .enda .. => true
  | _ => false

def windowOf : List Instr → List Instr
  | [] => []
  | i :: t => if endsWindow i then [i] else i :: windowOf t

/-- The next eight instructions in static order, from pc on. -/
def Prog.window (g : Prog) : List Instr :=
  windowOf (((g.image.drop (g.pc.toNat / 8)).take 8).map (fun w => criumOf (decodeCrium w)))

/-- The register whose context an instruction names as one that is there. -/
def namesCtx : Instr → Option CReg
  | .cfork _ c _ | .ctrim c _ | .clen _ c | .cget _ c _ | .cbind c _ | .tokz _ _ c | .detok _ _ c | .setgen c _ | .setfr c .. => some c
  | i => longReg i

/-- What a pending APPEND of a window has in common with those that it may share a prefill with: as `shareKey`, of one not issued yet. -/
def State.pendingKey (s : State) (g : Prog) (p : Nat) : Instr → Option (Nat × List Nat × List Nat)
  | .append text c str => (g.ctx c).bind (fun id => match s.feedOf p id text str with
    | .ok l => some ((s.cx id).binding, (s.cx id).tokens, l)
    | .error _ => none)
  | _ => none

/-- Keys of the APPENDs of a program's window, in progress or pending. -/
def State.windowKeys (s : State) (p : Nat) : List (Nat × List Nat × List Nat) :=
  let g := s.prog p
  let w := if g.ins.isSome then g.window.drop 1 else g.window
  (s.shareKey p).toList ++ w.filterMap (s.pendingKey g p)

/-- Pages that an APPEND of the window will add to its context, at most: one token for each element of its string. -/
def State.planPages (s : State) (g : Prog) : Instr → Option (Nat × Nat)
  | .append _ c str => (g.ctx c).map (fun id =>
    let x := s.cx id
    (id, ceilDiv (x.tokens.length + (g.str str).data.length) (s.tpp id) - x.pages.length))
  | _ => none

/-- Free pages that no plan reserves yet, for each context of a list. -/
def takeFree : List Nat → List (Nat × Nat) → List (Nat × List Nat)
  | _, [] => []
  | free, (id, n) :: t => (id, free.take n) :: takeFree (free.drop n) t

/-- The plan of a program (R319): pages that it reserves, programs whose APPENDs it may share, and the programs whose registers it read. -/
def State.planOf (s : State) (p : Nat) : Plan :=
  let g := s.prog p
  let others := (s.imp.plans.filter (fun q => q.1 ≠ p)).map (fun q => (q.2.reserve.map (·.2)).flatten)
  let keys := s.windowKeys p
  let qs := (s.imp.progs.map (·.1)).filter (fun q => q ≠ p && s.windowKeys q ≠ [])
  { reads := if keys = [] then [] else qs
    reserve := takeFree (s.imp.free.filter (fun pg => !others.flatten.contains pg)) (g.window.filterMap (s.planPages g))
    share := qs.filter (fun q => (s.windowKeys q).any keys.contains) }

/-- Planning for a program (R319; log entry 81): contexts that its window names are fetched while a slot is free, pages are reserved, and
APPENDs that may share are found. A plan reads registers as they stand and changes no result. -/
def State.lookAhead (s : State) (p : Nat) : State :=
  let g := s.prog p
  if g.run = .stopped || g.run = .ended then s.dropPlans p
  else
    let s1 := ((g.window.filterMap namesCtx).filterMap g.ctx).foldl (fun st id => st.landFor true p id) s
    s1.updImp (fun i => { i with plans := Tab.set i.plans p (s1.planOf p) })

def State.planAll (s : State) : State := s.imp.progs.foldl (fun st g => st.lookAhead g.1) s

/-- Programs with an instruction in progress and no row in the step are pre-empted (R332, R334). -/
def State.preempt (s : State) (picks : List Nat) : State :=
  s.updImp (fun i => { i with progs := i.progs.map (fun (g : Nat × Prog) =>
    (g.1, if g.2.ins.isSome && !picks.contains g.1 then { g.2 with intr := true } else g.2)) })

/-- Stage 1 (R10), once the boot lets the Imposer run (R407): what boundaries decide, the function modes (R412), slots, rows, buffers, and
WAITCs (R373). With no ready slot no step
is formed, and no WAITC reads again. -/
def State.formStep (s : State) : State :=
  if s.imp.step.isSome || !s.awake then s
  else
    let s1 := (s.boundaryActs.updImp (fun i => { i with modes := s.fmCtl, bufs := i.bufsHeld s.now })).landAll.planAll
    let f := s1.pickRows
    let rows := numberRows 0 0 ((f.picks.filterMap f.s.rowOf).foldl insRow [])
    if rows = [] then f.s
    else
      let s2 := f.s.updImp (fun i => { i with stepNo := i.stepNo + 1 })
      let st := s2.placeBufs (f.bind.getD (0, false)) rows
      if !s2.bufsMapped st then s1
      else match s2.sysWrite 0 0 st.desc (s2.stepBytes st) with
        | (some _, _) => s1
        | (none, s3) => ((s3.updImp (fun i => { i with step := some st })).preempt f.picks).pokeWaits

def execStepForm (s : State) : Out := .next (s.whole State.formStep)

/-! ## Stage 2 -/

/-- Tokens on the way from the root to a node. -/
def pathTo (tree : List TNode) : Nat → Option Nat → List Nat
  | 0, _ => []
  | _, none => []
  | n + 1, some j => match tree[j]? with
    | none => []
    | some t => pathTo tree n t.parent ++ [t.token]

/-- The tree node a logit row belongs to. -/
def StepState.nodeOf (st : StepState) (lr : LogitRow) : Option Nat := if st.draft || st.verify then nodeAt lr.node else none

/-- The Frisket fields at a logit row (R395). -/
def Context.friAt (x : Context) (a : Automaton) (n : Option Nat) : Fri := (pathTo x.tree 9 n).foldl a.moveSoft x.fri

/-- Chunks of one mask against the cache (R396). -/
def Imposer.useChunk (i : Imposer) (key : Nat × Nat × Nat × Option Nat) : Imposer :=
  if i.chunks.contains key then { i with frHit := if i.frHit = BitVec.allOnes 32 then i.frHit else i.frHit + 1 }
  else
    { i with frMiss := if i.frMiss = BitVec.allOnes 32 then i.frMiss else i.frMiss + 1
             chunks := (if i.chunks.length ≥ 16384 then i.chunks.drop 1 else i.chunks) ++ [key] }

/-- The mask of logit row l, where its context is constrained (R395): the mask bytes are written and their count settles the row. -/
def State.maskRow (s : State) (st : StepState) (l : Nat) (lr : LogitRow) : State × LogitRow :=
  match st.rows[lr.row]? with
  | none => (s, lr)
  | some r =>
    let x := s.cx (((s.prog r.prog).longCtx).getD 0)
    match (if r.kind = 2 then none else s.autoOf x) with
    | none => (s, lr)
    | some a =>
      let V := s.vocab st.binding
      let f := x.friAt a (st.nodeOf lr)
      let ok := a.allowed V f
      let lr1 := if ok.length ≤ 1 then { lr with mode := 3, count := ok.length, settled := ok.headD 0 } else { lr with count := ok.length }
      let s1 := s.updImp (fun i => (List.range (ceilDiv V 512)).foldl (fun i k => i.useChunk (x.fAuto.toNat, f.st.toNat, k, f.top)) i)
      let s2 := (s1.sysWrite 0 0 (st.mask + l * st.mpitch) (maskBytes (a.allows V f) V st.mpitch)).2
      let s3 := if ok.length ≤ 1 then
          ((s2.sysWrite 0 0 (st.reqBase + 192 * l + 40) (leBytes 1 3 ++ leBytes 1 0 ++ leBytes 2 ok.length ++ leBytes 4 (ok.headD 0))).2.sysWrite
            0 0 (st.reqBase + 192 * l + 56) (leBytes 8 0)).2
        else s2
      (s3, lr1)

def State.maskRows (s : State) (st : StepState) : Nat → List LogitRow → State × List LogitRow
  | _, [] => (s, [])
  | l, lr :: t =>
    let (s1, lr1) := s.maskRow st l lr
    let (s2, t1) := s1.maskRows st (l + 1) t
    (s2, lr1 :: t1)

/-- Draw indices of the draft rows once the masks are known (R338, R380). -/
def State.indexRows (s : State) (st : StepState) (lrs : List LogitRow) : State :=
  if !st.draft then s
  else (List.range lrs.length).foldl (fun s l => match lrs[l]? with
    | none => s
    | some lr => match st.rows[lr.row]? with
      | none => s
      | some r =>
        let x := s.cx (((s.prog r.prog).longCtx).getD 0)
        (s.sysWrite 0 0 (st.reqBase + 192 * l + 16)
          (leBytes 8 (64 * x.draw + BitVec.ofNat 64 (childsBefore lrs l lr)).toNat)).2) s

/-- Stage 2 (R10, R395): in Attic-assisted Frisket mode stage 3 waits for the Attic (R397). -/
def State.masks (s : State) : State :=
  match s.imp.step with
  | none => s
  | some st =>
    if st.stage ≠ 1 then s
    else s.viaAttic (bitAt s.imp.modes 4) 4 0 0 0 st.desc (fun s =>
      let (s1, lrs) := s.maskRows st 0 st.lrows
      (s1.indexRows st lrs).updImp (fun i => { i with step := some { st with stage := 2, lrows := lrs } }))

def execFrisketMasks (s : State) : Out := .next (s.whole State.masks)

/-! ## Stage 3 -/

/-- A descriptor with the args words x1 and x2 (R117, R329, R380). -/
def withArgs (d : List Byte) (x1 x2 : Word) : List Byte := d.take 80 ++ leBytes 8 x1.toNat ++ leBytes 8 x2.toNat ++ d.drop 96

/-- Descriptors behind the tail of the reserved queue; none where a write fails. -/
def State.postDescs (s : State) (q : LQ) : Nat → List (List Byte) → Option State
  | _, [] => some s
  | k, d :: t => match s.sysWrite 0 q.asid (q.base.toNat + 128 * ((q.tail + k) % q.ents)) d with
    | (none, s1) => s1.postDescs q (k + 1) t
    | (some _, _) => none

/-- The name of the k-th descriptor behind the tail (R124). -/
def LQ.keyAt (q : LQ) (k : Nat) : LKey := ⟨q.asid, 0, (q.count + (q.tail + q.ents - q.head) % q.ents + k) % 2 ^ 32⟩

/-- Stage 3 (R10, R329, R387): the step graph goes to queue 0 of ASID 0, and the sampler launch behind it. The step waits while the
ring has no room. -/
def State.placeGraph (s : State) : State :=
  match s.imp.step with
  | none => s
  | some st =>
    if st.stage ≠ 2 then s
    else
      let q := s.lq (lqIndex 0 0)
      let assist := bitAt s.imp.modes 5
      let x1 := BitVec.ofNat 64 st.desc
      let x2 := s.imp.sqDesc
      let graph := (match Tab.find s.imp.bindings st.binding with
        | some b => b.reg.graph
        | none => []).map (fun d => withArgs d x1 x2)
      let sampler := if assist || st.lrows = [] then [] else s.imp.sampler.toList.map (fun d => withArgs d x1 x2)
      let all := graph ++ sampler
      if (q.tail + q.ents - q.head) % q.ents + all.length ≥ q.ents then s
      else match s.postDescs q 0 all with
        | none => s
        | some s1 =>
          let s2 := s1.updLq (lqIndex 0 0) (fun l => l.submit ((l.tail + all.length) % l.ents))
          let s3 := if assist && st.lrows ≠ [] then s2.service 5 0 0 0 x2.toNat else s2
          s3.updImp (fun i => { i with step := some { st with
            stage := 3, graph := (List.range graph.length).map q.keyAt
            sampler := if sampler = [] then none else some (q.keyAt graph.length) } })

def execStepGraphPlace (s : State) : Out := .next (s.whole State.placeGraph)

end Sys2Proof.Machine
end

