-- ==== Sys2Proof/Machine/StepCommit.lean ====
section
/-! DEFINITION. Stage 7 of a step (R10): what each row commits (R335 to R341, R366 to R371, R386), the end of the sampler launch (R387), and
the timeout of a row that nobody answers (R384). -/

namespace Sys2Proof.Machine

/-! ## Replies -/

/-- Code and token of a reply word (R382). -/
def replyCode (v : Word) : Nat := fieldNat v 32 8
def replyTok (v : Word) : Nat := fieldNat v 0 32

/-- The status a row traps with (R336, R381, R382), 0 where it does not: POISON and NUMERIC before what the Frisket has settled. -/
def LogitRow.trap (l : LogitRow) : Nat :=
  let c := replyCode (l.reply.getD 0)
  if c = 0x10 || c = 0x11 then c else if l.mode = 3 then (if l.count = 0 then 0x12 else 0) else if c = 0x12 then c else 0

/-- The token that a row gives: the settled one where the Frisket or a score settles it (R368, R379, R386), else the reply's. -/
def LogitRow.tok (l : LogitRow) : Nat := if l.mode = 3 then l.settled else replyTok (l.reply.getD 0)

/-- The logit rows of row k with their places. -/
def StepState.logitsOf (st : StepState) (k : Nat) : List (Nat × LogitRow) :=
  (List.range st.lrows.length).filterMap (fun l => match st.lrows[l]? with
    | some r => if r.row = k then some (l, r) else none
    | none => none)

/-- FP32 values in a buffer of the Imposer, as it reads them; none where the read fails. -/
def State.readF32 (s : State) (va n : Nat) : Option (List Nat) × State :=
  match s.sysRead 0 0 va (4 * n) with
  | (.ok b, s1) => (some (idsOf n b), s1)
  | (.error _, s1) => (none, s1)

/-- The weights of a logit row (R381): of a settled row all on its token. -/
def State.weightsOf (s : State) (st : StepState) (l : Nat) (r : LogitRow) : List Nat × State :=
  let V := s.vocab st.binding
  if r.mode = 3 then ((List.range V).map (fun t => if t = r.tok then 1 else 0), s)
  else match s.readF32 (st.weight + l * st.wpitch) V with
    | (some w, s1) => (weightUnits w, s1)
    | (none, s1) => ([], s1)

/-! ## Prefill, APPEND (R366, R367) -/

def State.commitPrefill (s : State) (p id n : Nat) : State :=
  let s1 := s.updCx id (fun x => { x with written := x.written + n, snap := none })
  if (s1.cx id).prefill = [] then s1.issueMarked p id else s1

/-- The first tokens of a chunk may be unwritten ones of the context; the others are added to it (R366, R367). -/
def State.chunkFed (s : State) (id n : Nat) : State :=
  let x := s.cx id
  let k := n - min n (x.tokens.length - x.written)
  s.updCx id (fun x => { x with
    tokens := x.tokens ++ ((x.feed.headD []).drop x.progDone.toNat).take k, written := x.written + n, snap := none
    progDone := x.progDone + BitVec.ofNat 32 k })

/-- An equal APPEND takes over what another has prefilled (R325): its chain lists the full pages, whose share counts rise, and its tokens and
record say what they hold. -/
def State.adopt (s : State) (id : Nat) (q : Nat) : State :=
  match (s.prog q).longCtx with
  | none => s
  | some f =>
    let y := s.cx id
    let x := s.cx f
    let n := y.written / max 1 (s.tpp id)
    let upto := n * s.tpp id
    let full := y.pages.take n
    if upto ≤ x.written || full.any (fun pg => s.imp.share pg ≥ 65535) then s
    else
      let s1 := s.updImp (fun i => (x.pages.take n).foldl Imposer.dropPage (full.foldl (fun i pg => { i with shares := Tab.set i.shares pg (i.share pg + 1) }) i))
      (s1.updCx f (fun x => { x with pages := full ++ x.pages.drop n })).chunkFed f (upto - x.written)

/-- Whether a program has a row of its own in the step. -/
def State.hasRow (s : State) (p : Nat) : Bool := s.imp.step.any (fun st => st.rows.any (fun r => r.prog = p))

/-- Stage 7 for an APPEND, and for the equal ones that it was prefilled for: those with no row of their own (R325, R367). -/
def State.commitAppend (s : State) (p id n : Nat) : State :=
  let fs := (s.followers p).filter (fun q => !s.hasRow q && Config.sharesPrefill (s.imp.stepNo.toNat - 1))
  let s1 := fs.foldl (fun st q => st.adopt id q) (s.chunkFed id n)
  fs.foldl (fun st q => match (st.prog q).longCtx with
    | some f => st.appendFinal q f
    | none => st) (s1.appendFinal p id)

/-! ## SCORE and CHOOSE (R370, R371, R386) -/

/-- The scored values in order: each is added exactly and its token committed to context f; a trap ends the run (R336). Returns the
trap, 0 for none. -/
def State.scoreVals (s : State) (st : StepState) (p f : Nat) (q : QReg) : List (Nat × LogitRow) → Nat × State
  | [] => (0, s)
  | (l, r) :: t =>
    let poison := fun (s : State) => s.updProg p (fun g => { g with q := g.q.set q.toNat { g.score q with poison := true } })
    if r.trap ≠ 0 then (r.trap, if r.trap = 0x11 then poison s else s)
    else match s.readF32 (st.logit + l * st.pitch + 4 * r.settled) 1 with
      | (none, s1) => (0x11, poison s1)
      | (some v, s1) =>
        let c := Contrib.zero.add (FloatTy.f32.decode (v.headD 0))
        let s2 := s1.updProg p (fun g => { g with q := g.q.set q.toNat { g.score q with xa := (g.score q).xa.accum c } })
        (s2.updCx f (fun x => { x with tokens := x.tokens ++ [r.settled] })).scoreVals st p f q t

/-- Stage 7 for a row of kind 2: `f` is the scored context, `id` the one whose progress counts. -/
def State.commitScore (s : State) (st : StepState) (k p id f : Nat) (q : QReg) (F : List Nat) (done : State → State) : State :=
  let n0 := (s.cx f).tokens.length
  let (trap, s1) := s.scoreVals st p f q (st.logitsOf k)
  let n := (s1.cx f).tokens.length - n0
  let s2 := (s1.updCx f (fun x => { x with written := x.tokens.length - 1, snap := none })).updCx id (fun x =>
    { x with progDone := x.progDone + BitVec.ofNat 32 n })
  if trap ≠ 0 then s2.retireLong p id trap
  else if (s2.cx id).progDone.toNat ≥ F.length then done s2 else s2

/-! ## GENU's draft steps (R338) -/

/-- Children that a draft row's reply gives: its drawn or settled tokens, none where no token is allowed; with temperature +0 no more than
there are tokens allowed (R340, R381). -/
def State.childToks (s : State) (st : StepState) (greedy : Bool) (l : Nat) (r : LogitRow) : List Nat × State :=
  let b := if greedy then min r.childs r.count else r.childs
  if r.trap ≠ 0 then ([], s)
  else if r.mode = 3 then (List.replicate b r.tok, s)
  else match s.readF32 (st.reqBase + 192 * l + 128) b with
    | (some t, s1) => (t, s1)
    | (none, s1) => ([], s1)

/-- The rows of the level drafted last add their children and weights (R338): rows above it have theirs (log entry 80). -/
def State.growTree (s : State) (st : StepState) (id : Nat) (greedy : Bool) (lvl : Nat) : List (Nat × LogitRow) → State
  | [] => s
  | (l, r) :: t =>
    if (s.cx id).levelAt r.node ≠ lvl then s.growTree st id greedy lvl t
    else
      let n := nodeAt r.node
      let (toks, s1) := s.childToks st greedy l r
      let (w, s2) := if toks = [] || greedy then ([], s1) else s1.weightsOf st l r
      (s2.updCx id (fun x => { x with
        tree := x.tree ++ toks.map (fun y => ⟨n, y, lvl + 1⟩)
        draft := Tab.set x.draft (n.getD 64) w })).growTree st id greedy lvl t

/-- A draft step ends (R338): NUMERIC and POISON end the instruction; else the tree has a level more, and is complete at its depth. -/
def State.commitDraft (s : State) (st : StepState) (k p id : Nat) (blk : GenBlk) : State :=
  let rows := st.logitsOf k
  match rows.find? (fun r => r.2.trap = 0x10 || r.2.trap = 0x11) with
  | some r => s.retireLong p id r.2.trap
  | none =>
    let n := (s.cx id).tree.length
    let s1 := s.growTree st id (blk.temp = 0) (s.cx id).level rows
    s1.updCx id (fun x =>
      let lvl := x.level + 1
      { x with level := lvl, treeDone := lvl ≥ 8 || blk.branch.getD lvl 0 = 0 || x.tree.length = n })

/-! ## The walk of a verified tree (R339, R340) -/

/-- Children of a node with their tokens, in order. -/
def childrenOf (tree : List TNode) (v : Option Nat) : List (Nat × Nat) :=
  (List.range tree.length).filterMap (fun j => match tree[j]? with
    | some t => if t.parent = v then some (j, t.token) else none
    | none => none)

/-- The greedy walk (R340): accepted nodes, final token, trap. `at'` gives the reply at a node. -/
def walkGreedy (tree : List TNode) (at' : Option Nat → LogitRow) : Nat → Option Nat → List Nat → List Nat × Nat × Nat
  | 0, v, path => (path, (at' v).tok, (at' v).trap)
  | n + 1, v, path =>
    let r := at' v
    if r.trap ≠ 0 then (path, 0, r.trap)
    else match (childrenOf tree v).find? (fun c => c.2 = r.tok) with
      | some c => walkGreedy tree at' n (some c.1) (path ++ [c.1])
      | none => (path, r.tok, 0)

/-- max(p − q, 0) of two ratios of exact sums, not yet normalised (R339). -/
def residual (p q : List Nat) : List Nat :=
  let a := p.sum
  let b := q.sum
  (List.range (max p.length q.length)).map (fun i => p.getD i 0 * b - q.getD i 0 * a)

/-- The children of a node tested in order (R339): the accepted one, what is left of p, and the next draw index. -/
def tryChildren (seed seqn : Word) (q : List Nat) : Word → List Nat → List (Nat × Nat) → Option Nat × List Nat × Word
  | d, p, [] => (none, p, d)
  | d, p, (j, y) :: t =>
    let u := (draw seed seqn d).toNat
    if u * q.getD y 0 * p.sum ≤ p.getD y 0 * q.sum * 2 ^ 32 then (some j, p, d + 1)
    else tryChildren seed seqn q (d + 1) (residual p q) t

/-- The sampled walk (R339): accepted nodes, final token, trap, next draw index. -/
def walkSampled (tree : List TNode) (seed seqn : Word) (free : Nat) (at' : Option Nat → LogitRow) (target draft : Option Nat → List Nat) :
    Nat → Option Nat → Word → List Nat → List Nat × Nat × Nat × Word
  | 0, _, d, path => (path, free, 0, d)
  | n + 1, v, d, path =>
    let r := at' v
    if r.trap ≠ 0 then (path, 0, r.trap, d)
    else match tryChildren seed seqn (draft v) d (target v) (childrenOf tree v) with
      | (some j, _, d1) => walkSampled tree seed seqn free at' target draft n (some j) d1 (path ++ [j])
      | (none, p, d1) =>
        if r.mode = 3 then (path, r.tok, 0, d1)
        else (path, (pickToken (draw seed seqn d1).toNat p.sum 0 0 p).getD free, 0, d1 + 1)

/-- The record of a walk (R341). -/
def acceptRecord (path : List Nat) (x : Nat) : Word :=
  BitVec.ofNat 64 (2 ^ 63 + path.length * 2 ^ 59 + path.getLastD 0 * 2 ^ 53 + x % 2 ^ 32)

/-- Target weights of every logit row of a row, by position. -/
def State.targets (s : State) (st : StepState) : List (Nat × LogitRow) → List (List Nat) × State
  | [] => ([], s)
  | (l, r) :: t =>
    let (w, s1) := s.weightsOf st l r
    let (ws, s2) := s1.targets st t
    (w :: ws, s2)

/-- prog.accept is written, the commit applied, its valid bit cleared (R335). -/
def State.acceptWith (s : State) (p id : Nat) (path : List Nat) (x trap : Nat) (d : Word) : State :=
  let tree := (s.cx id).tree
  let toks := path.map (fun j => match tree[j]? with
    | some t => t.token
    | none => 0)
  let all := if trap = 0 then toks ++ [x] else toks
  (s.updCx id (fun c => { c with
    accepted := some ⟨path, all, trap, d⟩, progAccept := if all = [] then c.progAccept else acceptRecord path x })).finishAccept p id

/-- Stage 7 for a verified tree. -/
def State.commitVerify (s : State) (st : StepState) (k p id : Nat) (blk : GenBlk) : State :=
  let x := s.cx id
  let rows := st.logitsOf k
  let at' := fun (v : Option Nat) => ((rows[(v.map (· + 1)).getD 0]?).map (·.2)).getD ⟨0, 0, 0, 0, 0, 0, none, false, none⟩
  if blk.temp = 0 then
    let (path, y, trap) := walkGreedy x.tree at' 9 none []
    s.acceptWith p id path y trap x.draw
  else
    let (ws, s1) := s.targets st rows
    let target := fun (v : Option Nat) => ws.getD ((v.map (· + 1)).getD 0) []
    let draft := fun (v : Option Nat) => Tab.get [] x.draft (v.getD 64)
    let (path, y, trap, d) := walkSampled x.tree blk.seed x.seqn (Config.freeToken s.tick) at' target draft 9 none x.draw []
    s1.acceptWith p id path y trap d

/-- Stage 7 for a row of kind 1 (R368, R379). -/
def State.commitOne (s : State) (st : StepState) (k p id : Nat) (blk : GenBlk) : State :=
  match st.logitsOf k with
  | (_, r) :: _ =>
    let d := (s.cx id).draw
    s.acceptWith p id [] r.tok r.trap (if r.trap = 0 && r.mode = 0 && blk.temp ≠ 0 then d + 1 else d)
  | [] => s

/-! ## Stage 7 -/

/-- The commit of row k (R335). -/
def State.commitRow (s : State) (st : StepState) (k : Nat) (r : StepRow) : State :=
  let p := r.prog
  match (s.prog p).ins, (s.prog p).longCtx with
  | some ins, some id =>
    let x := s.cx id
    if x.reappend then s.commitPrefill p id r.ntok
    else match ins with
      | .append .. => s.commitAppend p id r.ntok
      | .genu .. => match x.gblk with
        | none => s
        | some blk => if st.draft then s.commitDraft st k p id blk else if r.kind = 3 then s.commitVerify st k p id blk
          else s.commitOne st k p id blk
      | .score _ dst _ _ => s.commitScore st k p id id dst (x.feed.headD []) (fun s => s.retireLong p id 0x01)
      | .choose _ dst _ _ _ q =>
        let s1 := if x.progDone = 0 then s.writeQ p (q + 1) ⟨XA.zero, false⟩ else s
        s1.commitScore st k p id r.ctx (q + 1) (x.feed.getD (fieldNat x.progStop 0 8) [])
          (fun s => (s.candDone p id q).nextCand p id dst q 17)
      | _ => s
  | _, _ => s

def State.commitRows (s : State) (st : StepState) : Nat → List StepRow → State
  | _, [] => s
  | k, r :: t =>
    let s1 := s.commitRow st k r
    (s1.updCx (((s.prog r.prog).longCtx).getD r.ctx) (fun x => { x with used := s.imp.stepNo.toNat })).commitRows st (k + 1) t

/-- Attic-assisted sampling waits until its record is done (R411). -/
def State.samplerWaits (s : State) : Bool := bitAt s.imp.modes 5 && s.svc.any (fun r => r.func = 5)

/-- Stages 4 to 6 are over: the step graph has completed, every logit row has its reply, and the Attic is done with what it was asked. -/
def State.stepDone (s : State) (st : StepState) : Bool :=
  st.stage = 3 && !s.samplerWaits && st.lrows.all (·.reply.isSome) && st.graph.all (fun k => match s.launchOf k with
    | some l => l.stage = .ended && l.status = .done
    | none => false)

/-- Stage 7 (R10): the rows commit one after the other, the sampler launch is cancelled (R387), and the boundary follows (R377). -/
def State.commitStep (s : State) : State :=
  match s.imp.step with
  | none => s
  | some st =>
    if !s.stepDone st then s
    else
      let s1 := s.commitRows st 0 st.rows
      let s2 := match st.sampler with
        | some k => s1.cancelOne k
        | none => s1
      (s2.updImp (fun i => { i with step := none, bufs := i.bufs ++ [(st.desc, st.stop, s.now)] })).boundaryActs

def execStepCommit (s : State) : Out := .next (s.whole State.commitStep)

/-! ## A row that nobody answers (R384) -/

/-- The Attic is asked to answer a row (R384): with timeouts enabled, once for a row whose item was posted long enough ago. -/
def State.sampleTimeout (s : State) (row : Nat) : State :=
  match s.imp.step with
  | none => s
  | some st => match st.lrows[row]? with
    | none => s
    | some l =>
      if s.imp.sqEn && st.stage = 3 && l.reply.isNone && !l.asked && l.posted.any (fun t => t + s.imp.sqTime.toNat ≤ s.now) then
        (s.service 5 0 (row % 65536) 0 (st.reqBase + 192 * row)).updImp (fun i =>
          { i with step := some { st with lrows := modNth st.lrows row (fun l => { l with asked := true }) } })
      else s

def execSamplingTimeout (row : Nat) (s : State) : Out := .next (s.sampleTimeout row)

end Sys2Proof.Machine
end

