-- ==== Sys2Proof/Machine/Vector.lean ====
section
/-! DEFINITION. Issue of the vector instructions (R224, R226): each enters the vector engine's queue. What an operation then does,
VectorOp.lean says. -/

namespace Sys2Proof.Machine

def execVld (k : EngKeys) (t : LaneTy) (vd : VReg) (xa : XReg) (m : Option KReg) (s : State) : Out :=
  .next (s.issueEng s.actCell (.vld k t vd xa m) k)
def execVst (k : EngKeys) (t : LaneTy) (vs : VReg) (xa : XReg) (m : Option KReg) (s : State) : Out :=
  .next (s.issueEng s.actCell (.vst k t vs xa m) k)
def execVlds (k : EngKeys) (t : LaneTy) (vd : VReg) (xa xs : XReg) (m : Option KReg) (s : State) : Out :=
  .next (s.issueEng s.actCell (.vlds k t vd xa xs m) k)
def execVsts (k : EngKeys) (t : LaneTy) (vs : VReg) (xa xs : XReg) (m : Option KReg) (s : State) : Out :=
  .next (s.issueEng s.actCell (.vsts k t vs xa xs m) k)
def execVgth (k : EngKeys) (t : GathTy) (vd : VReg) (xa : XReg) (vb : VReg) (kn : KReg) (strict : Bool) (m : Option KReg) (s : State) : Out :=
  .next (s.issueEng s.actCell (.vgth k t vd xa vb kn strict m) k)
def execVsct (k : EngKeys) (t : GathTy) (vs : VReg) (xa : XReg) (vb : VReg) (m : Option KReg) (s : State) : Out :=
  .next (s.issueEng s.actCell (.vsct k t vs xa vb m) k)
def execVadd (k : EngKeys) (t : LaneTy) (vd va vb : VReg) (m : Option KReg) (r : Rnd) (s : State) : Out :=
  .next (s.issueEng s.actCell (.vadd k t vd va vb m r) k)
def execVsub (k : EngKeys) (t : LaneTy) (vd va vb : VReg) (m : Option KReg) (r : Rnd) (s : State) : Out :=
  .next (s.issueEng s.actCell (.vsub k t vd va vb m r) k)
def execVmul (k : EngKeys) (t : LaneTy) (vd va vb : VReg) (m : Option KReg) (r : Rnd) (s : State) : Out :=
  .next (s.issueEng s.actCell (.vmul k t vd va vb m r) k)
def execVmin (k : EngKeys) (t : LaneTy) (vd va vb : VReg) (m : Option KReg) (s : State) : Out :=
  .next (s.issueEng s.actCell (.vmin k t vd va vb m) k)
def execVmax (k : EngKeys) (t : LaneTy) (vd va vb : VReg) (m : Option KReg) (s : State) : Out :=
  .next (s.issueEng s.actCell (.vmax k t vd va vb m) k)
def execVabs (k : EngKeys) (t : SgnTy) (vd va : VReg) (m : Option KReg) (s : State) : Out :=
  .next (s.issueEng s.actCell (.vabs k t vd va m) k)
def execVneg (k : EngKeys) (t : SgnTy) (vd va : VReg) (m : Option KReg) (s : State) : Out :=
  .next (s.issueEng s.actCell (.vneg k t vd va m) k)
def execVfma (k : EngKeys) (t : FloatTy) (vd va vb vc : VReg) (m : Option KReg) (r : Rnd) (s : State) : Out :=
  .next (s.issueEng s.actCell (.vfma k t vd va vb vc m r) k)
def execVcmp (k : EngKeys) (t : LaneTy) (kd : KReg) (va vb : VReg) (c : CmpCond) (m : Option KReg) (s : State) : Out :=
  .next (s.issueEng s.actCell (.vcmp k t kd va vb c m) k)
def execVsel (k : EngKeys) (t : LaneTy) (vd va vb : VReg) (sel : KReg) (s : State) : Out :=
  .next (s.issueEng s.actCell (.vsel k t vd va vb sel) k)
def execVcvt (k : EngKeys) (td ts : LaneTy) (vd va : VReg) (part : BitVec 4) (m : Option KReg) (r : Rnd) (s : State) : Out :=
  .next (s.issueEng s.actCell (.vcvt k td ts vd va part m r) k)
def execVexp2 (k : EngKeys) (t : FloatTy) (vd va : VReg) (m : Option KReg) (r : Rnd) (s : State) : Out :=
  .next (s.issueEng s.actCell (.vexp2 k t vd va m r) k)
def execVlog2 (k : EngKeys) (t : FloatTy) (vd va : VReg) (m : Option KReg) (r : Rnd) (s : State) : Out :=
  .next (s.issueEng s.actCell (.vlog2 k t vd va m r) k)
def execVrcp (k : EngKeys) (t : FloatTy) (vd va : VReg) (m : Option KReg) (r : Rnd) (s : State) : Out :=
  .next (s.issueEng s.actCell (.vrcp k t vd va m r) k)
def execVsqrt (k : EngKeys) (t : FloatTy) (vd va : VReg) (m : Option KReg) (r : Rnd) (s : State) : Out :=
  .next (s.issueEng s.actCell (.vsqrt k t vd va m r) k)
def execVrcpa (k : EngKeys) (t : FloatTy) (vd va : VReg) (m : Option KReg) (s : State) : Out :=
  .next (s.issueEng s.actCell (.vrcpa k t vd va m) k)
def execVrsqa (k : EngKeys) (t : FloatTy) (vd va : VReg) (m : Option KReg) (s : State) : Out :=
  .next (s.issueEng s.actCell (.vrsqa k t vd va m) k)
def execVredx (k : EngKeys) (t : RedTy) (vd va : VReg) (acc : Bool) (m : Option KReg) (s : State) : Out :=
  .next (s.issueEng s.actCell (.vredx k t vd va acc m) k)
def execVredm (k : EngKeys) (t : RedTy) (vd va : VReg) (isMin : Bool) (m : Option KReg) (s : State) : Out :=
  .next (s.issueEng s.actCell (.vredm k t vd va isMin m) k)
def execVredf (k : EngKeys) (vd va : VReg) (m : Option KReg) (r : Rnd) (s : State) : Out :=
  .next (s.issueEng s.actCell (.vredf k vd va m r) k)
def execVxadd (k : EngKeys) (vd va : VReg) (s : State) : Out :=
  .next (s.issueEng s.actCell (.vxadd k vd va) k)
def execVxrnd (k : EngKeys) (t : DrainTy) (vd va : VReg) (lane : BitVec 8) (r : Rnd) (s : State) : Out :=
  .next (s.issueEng s.actCell (.vxrnd k t vd va lane r) k)
def execVxscan (k : EngKeys) (t : FloatTy) (xd : XReg) (va vb vc : VReg) (m : Option KReg) (s : State) : Out :=
  .next (s.issueEng s.actCell (.vxscan k t xd va vb vc m) k)
def execVrng (k : EngKeys) (vd : VReg) (xs xq xi : XReg) (m : Option KReg) (s : State) : Out :=
  .next (s.issueEng s.actCell (.vrng k vd xs xq xi m) k)
def execVshf (k : EngKeys) (t : LaneTy) (vd va vb : VReg) (m : Option KReg) (s : State) : Out :=
  .next (s.issueEng s.actCell (.vshf k t vd va vb m) k)
def execVbc (k : EngKeys) (t : LaneTy) (vd : VReg) (xa : XReg) (m : Option KReg) (s : State) : Out :=
  .next (s.issueEng s.actCell (.vbc k t vd xa m) k)
def execViota (k : EngKeys) (t : IntTy) (vd : VReg) (xa : XReg) (m : Option KReg) (s : State) : Out :=
  .next (s.issueEng s.actCell (.viota k t vd xa m) k)
def execVmx (k : EngKeys) (op : VmxOp) (s : State) : Out :=
  .next (s.issueEng s.actCell (.vmx k op) k)
def execKop (k : EngKeys) (op : KopOp) (s : State) : Out :=
  .next (s.issueEng s.actCell (.kop k op) k)
def execQhist (k : EngKeys) (t : FloatTy) (xh : XReg) (va : VReg) (m : Option KReg) (s : State) : Out :=
  .next (s.issueEng s.actCell (.qhist k t xh va m) k)
def execQscale (k : EngKeys) (xd xh xp : XReg) (s : State) : Out :=
  .next (s.issueEng s.actCell (.qscale k xd xh xp) k)
def execQpack (k : EngKeys) (p : PbTy) (t : FloatTy) (xa : XReg) (va : VReg) (xc : XReg) (s : State) : Out :=
  .next (s.issueEng s.actCell (.qpack k p t xa va xc) k)
def execQunpk (k : EngKeys) (t : FloatTy) (p : PbTy) (vd : VReg) (xa : XReg) (s : State) : Out :=
  .next (s.issueEng s.actCell (.qunpk k t p vd xa) k)
def execVptag (k : EngKeys) (op : VptagOp) (s : State) : Out :=
  .next (s.issueEng s.actCell (.vptag k op) k)

end Sys2Proof.Machine
end

