-- ==== Sys2Proof/Machine/Dispatch.lean ====
section
/-! DEFINITION. What each instruction and each event does to the machine: one arm per constructor of Instr, each one call of its
meaning. -/

namespace Sys2Proof.Machine

def exec (i : Instr) (s : State) : Host.Outcome State Fault Refusal :=
  match i with
  | .add rd ra rb => Sys2Proof.Machine.execAdd rd ra rb s
  | .sub rd ra rb => Sys2Proof.Machine.execSub rd ra rb s
  | .mul rd ra rb => Sys2Proof.Machine.execMul rd ra rb s
  | .mulh rd ra rb => Sys2Proof.Machine.execMulh rd ra rb s
  | .mulhn rd ra rb => Sys2Proof.Machine.execMulhn rd ra rb s
  | .div rd ra rb => Sys2Proof.Machine.execDiv rd ra rb s
  | .divn rd ra rb => Sys2Proof.Machine.execDivn rd ra rb s
  | .rem rd ra rb => Sys2Proof.Machine.execRem rd ra rb s
  | .remn rd ra rb => Sys2Proof.Machine.execRemn rd ra rb s
  | .and rd ra rb => Sys2Proof.Machine.execAnd rd ra rb s
  | .or rd ra rb => Sys2Proof.Machine.execOr rd ra rb s
  | .xor rd ra rb => Sys2Proof.Machine.execXor rd ra rb s
  | .andn rd ra rb => Sys2Proof.Machine.execAndn rd ra rb s
  | .shl rd ra rb => Sys2Proof.Machine.execShl rd ra rb s
  | .shr rd ra rb => Sys2Proof.Machine.execShr rd ra rb s
  | .sra rd ra rb => Sys2Proof.Machine.execSra rd ra rb s
  | .min rd ra rb => Sys2Proof.Machine.execMin rd ra rb s
  | .minn rd ra rb => Sys2Proof.Machine.execMinn rd ra rb s
  | .max rd ra rb => Sys2Proof.Machine.execMax rd ra rb s
  | .maxn rd ra rb => Sys2Proof.Machine.execMaxn rd ra rb s
  | .slt rd ra rb => Sys2Proof.Machine.execSlt rd ra rb s
  | .sltn rd ra rb => Sys2Proof.Machine.execSltn rd ra rb s
  | .seq rd ra rb => Sys2Proof.Machine.execSeq rd ra rb s
  | .clz rd ra => Sys2Proof.Machine.execClz rd ra s
  | .popc rd ra => Sys2Proof.Machine.execPopc rd ra s
  | .addi rd ra imm => Sys2Proof.Machine.execAddi rd ra imm s
  | .andi rd ra imm => Sys2Proof.Machine.execAndi rd ra imm s
  | .ori rd ra imm => Sys2Proof.Machine.execOri rd ra imm s
  | .xori rd ra imm => Sys2Proof.Machine.execXori rd ra imm s
  | .shli rd ra sh => Sys2Proof.Machine.execShli rd ra sh s
  | .shri rd ra sh => Sys2Proof.Machine.execShri rd ra sh s
  | .srai rd ra sh => Sys2Proof.Machine.execSrai rd ra sh s
  | .slti rd ra imm => Sys2Proof.Machine.execSlti rd ra imm s
  | .lui rd imm => Sys2Proof.Machine.execLui rd imm s
  | .ld t rd base off => Sys2Proof.Machine.execLd t rd base off s
  | .st t data base off => Sys2Proof.Machine.execSt t data base off s
  | .lda t rd base sc => Sys2Proof.Machine.execLda t rd base sc s
  | .stl t data base sc => Sys2Proof.Machine.execStl t data base sc s
  | .amo op w64 sc rd ra rb => Sys2Proof.Machine.execAmo op w64 sc rd ra rb s
  | .cas w64 sc rd ra rb => Sys2Proof.Machine.execCas w64 sc rd ra rb s
  | .fence k sc => Sys2Proof.Machine.execFence k sc s
  | .addp rd ra rb => Sys2Proof.Machine.execAddp rd ra rb s
  | .addpe rd ra rb => Sys2Proof.Machine.execAddpe rd ra rb s
  | .pfmt rd ra rb => Sys2Proof.Machine.execPfmt rd ra rb s
  | .pget rd ra sel => Sys2Proof.Machine.execPget rd ra sel s
  | .beq ra rb off => Sys2Proof.Machine.execBeq ra rb off s
  | .bne ra rb off => Sys2Proof.Machine.execBne ra rb off s
  | .blt ra rb off => Sys2Proof.Machine.execBlt ra rb off s
  | .bge ra rb off => Sys2Proof.Machine.execBge ra rb off s
  | .bltn ra rb off => Sys2Proof.Machine.execBltn ra rb off s
  | .bgen ra rb off => Sys2Proof.Machine.execBgen ra rb off s
  | .jal off => Sys2Proof.Machine.execJal off s
  | .jalr rd ra off => Sys2Proof.Machine.execJalr rd ra off s
  | .loop ra body => Sys2Proof.Machine.execLoop ra body s
  | .loopi cnt body => Sys2Proof.Machine.execLoopi cnt body s
  | .send rd ra rb n => Sys2Proof.Machine.execSend rd ra rb n s
  | .rap t op ordered sc rd ra rb => Sys2Proof.Machine.execRap t op ordered sc rd ra rb s
  | .bind e prio ra rb => Sys2Proof.Machine.execBind e prio ra rb s
  | .arm e barrier ra => Sys2Proof.Machine.execArm e barrier ra s
  | .enab e on => Sys2Proof.Machine.execEnab e on s
  | .arrv e rd ra rb => Sys2Proof.Machine.execArrv e rd ra rb s
  | .waitb e ra rb => Sys2Proof.Machine.execWaitb e ra rb s
  | .endAct retire => Sys2Proof.Machine.execEnd retire s
  | .mfs rd idx => Sys2Proof.Machine.execMfs rd idx s
  | .mts idx ra => Sys2Proof.Machine.execMts idx ra s
  | .synce eng => Sys2Proof.Machine.execSynce eng s
  | .trap code => Sys2Proof.Machine.execTrap code s
  | .bkpt code => Sys2Proof.Machine.execBkpt code s
  | .vld k t vd xa m => Sys2Proof.Machine.execVld k t vd xa m s
  | .vst k t vs xa m => Sys2Proof.Machine.execVst k t vs xa m s
  | .vlds k t vd xa xs m => Sys2Proof.Machine.execVlds k t vd xa xs m s
  | .vsts k t vs xa xs m => Sys2Proof.Machine.execVsts k t vs xa xs m s
  | .vgth k t vd xa vb kn strict m => Sys2Proof.Machine.execVgth k t vd xa vb kn strict m s
  | .vsct k t vs xa vb m => Sys2Proof.Machine.execVsct k t vs xa vb m s
  | .vadd k t vd va vb m r => Sys2Proof.Machine.execVadd k t vd va vb m r s
  | .vsub k t vd va vb m r => Sys2Proof.Machine.execVsub k t vd va vb m r s
  | .vmul k t vd va vb m r => Sys2Proof.Machine.execVmul k t vd va vb m r s
  | .vmin k t vd va vb m => Sys2Proof.Machine.execVmin k t vd va vb m s
  | .vmax k t vd va vb m => Sys2Proof.Machine.execVmax k t vd va vb m s
  | .vabs k t vd va m => Sys2Proof.Machine.execVabs k t vd va m s
  | .vneg k t vd va m => Sys2Proof.Machine.execVneg k t vd va m s
  | .vfma k t vd va vb vc m r => Sys2Proof.Machine.execVfma k t vd va vb vc m r s
  | .vcmp k t kd va vb c m => Sys2Proof.Machine.execVcmp k t kd va vb c m s
  | .vsel k t vd va vb sel => Sys2Proof.Machine.execVsel k t vd va vb sel s
  | .vcvt k td ts vd va part m r => Sys2Proof.Machine.execVcvt k td ts vd va part m r s
  | .vexp2 k t vd va m r => Sys2Proof.Machine.execVexp2 k t vd va m r s
  | .vlog2 k t vd va m r => Sys2Proof.Machine.execVlog2 k t vd va m r s
  | .vrcp k t vd va m r => Sys2Proof.Machine.execVrcp k t vd va m r s
  | .vsqrt k t vd va m r => Sys2Proof.Machine.execVsqrt k t vd va m r s
  | .vrcpa k t vd va m => Sys2Proof.Machine.execVrcpa k t vd va m s
  | .vrsqa k t vd va m => Sys2Proof.Machine.execVrsqa k t vd va m s
  | .vredx k t vd va acc m => Sys2Proof.Machine.execVredx k t vd va acc m s
  | .vredm k t vd va isMin m => Sys2Proof.Machine.execVredm k t vd va isMin m s
  | .vredf k vd va m r => Sys2Proof.Machine.execVredf k vd va m r s
  | .vxadd k vd va => Sys2Proof.Machine.execVxadd k vd va s
  | .vxrnd k t vd va lane r => Sys2Proof.Machine.execVxrnd k t vd va lane r s
  | .vxscan k t xd va vb vc m => Sys2Proof.Machine.execVxscan k t xd va vb vc m s
  | .vrng k vd xs xq xi m => Sys2Proof.Machine.execVrng k vd xs xq xi m s
  | .vshf k t vd va vb m => Sys2Proof.Machine.execVshf k t vd va vb m s
  | .vbc k t vd xa m => Sys2Proof.Machine.execVbc k t vd xa m s
  | .viota k t vd xa m => Sys2Proof.Machine.execViota k t vd xa m s
  | .vmx k op => Sys2Proof.Machine.execVmx k op s
  | .kop k op => Sys2Proof.Machine.execKop k op s
  | .qhist k t xh va m => Sys2Proof.Machine.execQhist k t xh va m s
  | .qscale k xd xh xp => Sys2Proof.Machine.execQscale k xd xh xp s
  | .qpack k p t xa va xc => Sys2Proof.Machine.execQpack k p t xa va xc s
  | .qunpk k t p vd xa => Sys2Proof.Machine.execQunpk k t p vd xa s
  | .vptag k op => Sys2Proof.Machine.execVptag k op s
  | .mlda k t l xa xs => Sys2Proof.Machine.execMlda k t l xa xs s
  | .mldb k t l xa xs => Sys2Proof.Machine.execMldb k t l xa xs s
  | .mgth k t l xa vb xs => Sys2Proof.Machine.execMgth k t l xa vb xs s
  | .mmac k acc la lb => Sys2Proof.Machine.execMmac k acc la lb s
  | .mzero k acc => Sys2Proof.Machine.execMzero k acc s
  | .madv k zero => Sys2Proof.Machine.execMadv k zero s
  | .mspl k acc xa => Sys2Proof.Machine.execMspl k acc xa s
  | .mfil k acc xa => Sys2Proof.Machine.execMfil k acc xa s
  | .mdrn k t acc xa xs xr adv r => Sys2Proof.Machine.execMdrn k t acc xa xs xr adv r s
  | .mepi k xa => Sys2Proof.Machine.execMepi k xa s
  | .mrtg k op => Sys2Proof.Machine.execMrtg k op s
  | .mstat k xd stray clr => Sys2Proof.Machine.execMstat k xd stray clr s
  | .cpy k xd xs xn xc => Sys2Proof.Machine.execCpy k xd xs xn xc s
  | .cpyg k xd xb xi xc strict => Sys2Proof.Machine.execCpyg k xd xb xi xc strict s
  | .cpyr k xt xs xn xc => Sys2Proof.Machine.execCpyr k xt xs xn xc s
  | .cpym k xr xs xn xc => Sys2Proof.Machine.execCpym k xr xs xn xc s
  | .cpyc k t op xd xs xn xc => Sys2Proof.Machine.execCpyc k t op xd xs xn xc s
  | .claim k xd xq xb xc n key => Sys2Proof.Machine.execClaim k xd xq xb xc n key s
  | .cbdef k b xa xg xp => Sys2Proof.Machine.execCbdef k b xa xg xp s
  | .cbadv k xd b n => Sys2Proof.Machine.execCbadv k xd b n s
  | .cpyx wait toks => Sys2Proof.Machine.execCpyx wait toks s
  | .twait wait xd => Sys2Proof.Machine.execTwait wait xd s
  | .vectorOpStart c => Sys2Proof.Machine.execVectorOpStart c s
  | .vectorOpComplete c => Sys2Proof.Machine.execVectorOpComplete c s
  | .matrixOpStart c => Sys2Proof.Machine.execMatrixOpStart c s
  | .matrixOpComplete c => Sys2Proof.Machine.execMatrixOpComplete c s
  | .copyOpStart c => Sys2Proof.Machine.execCopyOpStart c s
  | .copyOpComplete c k => Sys2Proof.Machine.execCopyOpComplete c k s
  | .delivery n => Sys2Proof.Machine.execDelivery n s
  | .arrival n => Sys2Proof.Machine.execArrival n s
  | .landing n => Sys2Proof.Machine.execLanding n s
  | .activationStart c => Sys2Proof.Machine.execActivationStart c s
  | .runQueuePromotion c lvl => Sys2Proof.Machine.execRunQueuePromotion c lvl s
  | .hangFault c => Sys2Proof.Machine.execHangFault c s
  | .storePerform c => Sys2Proof.Machine.execStorePerform c s
  | .remoteStoreArrival n => Sys2Proof.Machine.execRemoteStoreArrival n s
  | .rapApply n => Sys2Proof.Machine.execRapApply n s
  | .rapSequenceTimeout c j => Sys2Proof.Machine.execRapSequenceTimeout c j s
  | .remoteRequest n => Sys2Proof.Machine.execRemoteRequest n s
  | .stairRequestTimeout n => Sys2Proof.Machine.execStairRequestTimeout n s
  | .pageWalkComplete die n => Sys2Proof.Machine.execPageWalkComplete die n s
  | .pinExpiry c n => Sys2Proof.Machine.execPinExpiry c n s
  | .invalidationStart die slot v => Sys2Proof.Machine.execInvalidationStart die slot v s
  | .invalidationDone die slot => Sys2Proof.Machine.execInvalidationDone die slot s
  | .mergeWindowExpiry stack n => Sys2Proof.Machine.execMergeWindowExpiry stack n s
  | .bankHoldExpiry stack bank => Sys2Proof.Machine.execBankHoldExpiry stack bank s
  | .rowRefresh stack row => Sys2Proof.Machine.execRowRefresh stack row s
  | .statsClear stack => Sys2Proof.Machine.execStatsClear stack s
  | .traceClear c => Sys2Proof.Machine.execTraceClear c s
  | .faultPacket c => Sys2Proof.Machine.execFaultPacket c s
  | .bankPacket c => Sys2Proof.Machine.execBankPacket c s
  | .resume c => Sys2Proof.Machine.execResume c s
  | .resumeWithSkip c => Sys2Proof.Machine.execResumeWithSkip c s
  | .killActivation c => Sys2Proof.Machine.execKillActivation c s
  | .killJob c => Sys2Proof.Machine.execKillJob c s
  | .migrateAndResume c dst => Sys2Proof.Machine.execMigrateAndResume c dst s
  | .migrationHandover c => Sys2Proof.Machine.execMigrationHandover c s
  | .proofDigestCompare c => Sys2Proof.Machine.execProofDigestCompare c s
  | .processKill asid => Sys2Proof.Machine.execProcessKill asid s
  | .retireScratchpadBank c idx => Sys2Proof.Machine.execRetireScratchpadBank c idx s
  | .retireVectorBank c idx => Sys2Proof.Machine.execRetireVectorBank c idx s
  | .retireAccumulatorTile c idx => Sys2Proof.Machine.execRetireAccumulatorTile c idx s
  | .evacuationComplete c => Sys2Proof.Machine.execEvacuationComplete c s
  | .inFieldTestFail district => Sys2Proof.Machine.execInFieldTestFail district s
  | .launchSubmit asid q v => Sys2Proof.Machine.execLaunchSubmit asid q v s
  | .lqEntsWrite asid q v => Sys2Proof.Machine.execLqEntsWrite asid q v s
  | .queueErrorClear asid q => Sys2Proof.Machine.execQueueErrorClear asid q s
  | .descriptorRead asid q => Sys2Proof.Machine.execDescriptorRead asid q s
  | .launchPlacement asid q seq => Sys2Proof.Machine.execLaunchPlacement asid q seq s
  | .districtWakeComplete district => Sys2Proof.Machine.execDistrictWakeComplete district s
  | .districtGate district => Sys2Proof.Machine.execDistrictGate district s
  | .launchComplete asid q seq => Sys2Proof.Machine.execLaunchComplete asid q seq s
  | .cancelLaunch asid q seq => Sys2Proof.Machine.execCancelLaunch asid q seq s
  | .cancelGraph asid q seq => Sys2Proof.Machine.execCancelGraph asid q seq s
  | .cancelJob asid => Sys2Proof.Machine.execCancelJob asid s
  | .nmovi hi a imm => Sys2Proof.Machine.execNmovi hi a imm s
  | .nadd a b c => Sys2Proof.Machine.execNadd a b c s
  | .naddi a b imm => Sys2Proof.Machine.execNaddi a b imm s
  | .nsub a b c => Sys2Proof.Machine.execNsub a b c s
  | .nmul a b c => Sys2Proof.Machine.execNmul a b c s
  | .nslt uns a b c => Sys2Proof.Machine.execNslt uns a b c s
  | .br cond a b off => Sys2Proof.Machine.execBr cond a b off s
  | .jmp off => Sys2Proof.Machine.execJmp off s
  | .call a off => Sys2Proof.Machine.execCall a off s
  | .ret b => Sys2Proof.Machine.execRet b s
  | .cnew c seqn model => Sys2Proof.Machine.execCnew c seqn model s
  | .cfork c src seqn => Sys2Proof.Machine.execCfork c src seqn s
  | .ctrim c len => Sys2Proof.Machine.execCtrim c len s
  | .cfree c => Sys2Proof.Machine.execCfree c s
  | .clen dst c => Sys2Proof.Machine.execClen dst c s
  | .cget dst c sel => Sys2Proof.Machine.execCget dst c sel s
  | .cbind c model => Sys2Proof.Machine.execCbind c model s
  | .sld ids dst addr => Sys2Proof.Machine.execSld ids dst addr s
  | .sst src addr => Sys2Proof.Machine.execSst src addr s
  | .scat dst x y => Sys2Proof.Machine.execScat dst x y s
  | .ssub dst src off len => Sys2Proof.Machine.execSsub dst src off len s
  | .slen dst src => Sys2Proof.Machine.execSlen dst src s
  | .tokz dst src c => Sys2Proof.Machine.execTokz dst src c s
  | .detok dst src c => Sys2Proof.Machine.execDetok dst src c s
  | .append text c str => Sys2Proof.Machine.execAppend text c str s
  | .genu ids c out => Sys2Proof.Machine.execGenu ids c out s
  | .score text dst c str => Sys2Proof.Machine.execScore text dst c str s
  | .choose text dst c first n q => Sys2Proof.Machine.execChoose text dst c first n q s
  | .setgen c addr => Sys2Proof.Machine.execSetgen c addr s
  | .setfr c stack auto st depth => Sys2Proof.Machine.execSetfr c stack auto st depth s
  | .qcmp dst x y => Sys2Proof.Machine.execQcmp dst x y s
  | .qrnd t r dst src => Sys2Proof.Machine.execQrnd t r dst src s
  | .waitc cond dst addr val => Sys2Proof.Machine.execWaitc cond dst addr val s
  | .waitcReread p => Sys2Proof.Machine.execWaitcReread p s
  | .programDoorbell p => Sys2Proof.Machine.execProgramDoorbell p s
  | .stat clr dst => Sys2Proof.Machine.execStat clr dst s
  | .enda code => Sys2Proof.Machine.execEnda code s
  | .trapa code => Sys2Proof.Machine.execTrapa code s
  | .programLoad p ld => Sys2Proof.Machine.execProgramLoad p ld s
  | .programResume p skip => Sys2Proof.Machine.execProgramResume p skip s
  | .longInstructionReissue p => Sys2Proof.Machine.execLongInstructionReissue p s
  | .bindingWithdrawal b => Sys2Proof.Machine.execBindingWithdrawal b s
  | .compositorTablesRegister b t => Sys2Proof.Machine.execCompositorTablesRegister b t s
  | .automatonRegister id asid va => Sys2Proof.Machine.execAutomatonRegister id asid va s
  | .samplerReply row v => Sys2Proof.Machine.execSamplerReply row v s
  | .samplingTimeout row => Sys2Proof.Machine.execSamplingTimeout row s
  | .serviceDone sq => Sys2Proof.Machine.execServiceDone sq s
  | .fmCtlWrite v => Sys2Proof.Machine.execFmCtlWrite v s
  | .bootStageVerify image => Sys2Proof.Machine.execBootStageVerify image s
  | .attestationRequest nonce => Sys2Proof.Machine.execAttestationRequest nonce s
  | .droopDetect district => Sys2Proof.Machine.execDroopDetect district s
  | .droopRecovery district => Sys2Proof.Machine.execDroopRecovery district s
  | .registerWrite r v => Sys2Proof.Machine.execRegisterWrite r v s
  | .illegalInstruction pointer => Sys2Proof.Machine.execIllegalInstruction pointer s
  | .unassignedOpcode field => Sys2Proof.Machine.execUnassignedOpcode field s
  | .hostPortAttach ranges => Sys2Proof.Machine.execHostPortAttach ranges s
  | .modelBindingRegister b r => Sys2Proof.Machine.execModelBindingRegister b r s
  | .samplerTemplateRegister t => Sys2Proof.Machine.execSamplerTemplateRegister t s
  | .galleyPoolGrant pages => Sys2Proof.Machine.execGalleyPoolGrant pages s
  | .liveMigration c dst => Sys2Proof.Machine.execLiveMigration c dst s
  | .dieCacheSliceRetirement die slice => Sys2Proof.Machine.execDieCacheSliceRetirement die slice s
  | .nop => Sys2Proof.Machine.execNop s
  | .impressionTrigger => Sys2Proof.Machine.execImpressionTrigger s
  | .yield => Sys2Proof.Machine.execYield s
  | .stepForm => Sys2Proof.Machine.execStepForm s
  | .frisketMasks => Sys2Proof.Machine.execFrisketMasks s
  | .stepGraphPlace => Sys2Proof.Machine.execStepGraphPlace s
  | .stepCommit => Sys2Proof.Machine.execStepCommit s
  | .coldReset => Sys2Proof.Machine.execColdReset s
  | .powerCapStretch => Sys2Proof.Machine.execPowerCapStretch s
  | .fetchFault => Sys2Proof.Machine.execFetchFault s
  | .agentFetchFault => Sys2Proof.Machine.execAgentFetchFault s
  | .powerWithinCap => Sys2Proof.Machine.execPowerWithinCap s

end Sys2Proof.Machine
end

