-- ==== Sys2Proof/Machine/Step.lean ====
section
/-! DEFINITION. One step of the device: the unit that the agenda names moves. -/

namespace Sys2Proof.Machine

/-- One step (log entry 2): the cycle counter goes on, and the named cell, program or unit makes its move. A cell or program
that runs nothing leaves the state as it is. -/
def step (s : State) : Host.Outcome State Fault Refusal :=
  match s.nextUnit with
  | (.cell c, s1) => match s1.fetchCell c with
    | some i => exec i { s1.touchFetch c with actCell := c }
    | none => .next s1
  | (.prog p, s1) => match s1.fetchProg p with
    | some i => exec i { s1.issuing p i with actProg := p }
    | none => .next s1
  | (.event i, s1) => if isEvent i then exec i s1 else .fault .notAnEvent

/-- The state with an instruction placed where the next step fetches: in cell 0 at its pc, or in program 0 at its pc where the
word is a Crium word (log entries 10 and 19). -/
def State.withFetchWord (s : State) (nbits w : Nat) : State :=
  if wordIsCrium nbits w then s.placeCrium (BitVec.ofNat 64 w) else s.placeDamvon (leBytes 8 (w % 2 ^ nbits))

end Sys2Proof.Machine
end

