-- ==== Sys2Proof/Safety.lean ====
section
/-! DEFINITION. What a safe step and a safe run are: the device goes on. A cell's or a program's own fault is a next state (R133,
R348), so only a name for what the device does not do ends a run. -/

namespace Sys2Proof.Machine

/-- A step answers a next state. -/
def SafeStep (s : State) : Prop := ∃ t, step s = .next t

/-- `n` steps answer a next state. -/
def SafeRun : Nat → State → Prop
  | 0, _ => True
  | n + 1, s => ∃ t, step s = .next t ∧ SafeRun n t

/-- Every act that an agenda names is one that the device makes. -/
def agendaOk (s : State) : Prop := ∀ i, Act.event i ∈ s.agenda → isEvent i = true

end Sys2Proof.Machine
end

