-- ==== Sys2Proof/Certificates/Slice0/Obligations.lean ====
section
/-! DEFINITION. The statements for the provers, with the words they use. Each says in its docstring which rules of spec/ it formalises. -/

namespace Sys2Proof.Spec

open Machine

/-! ## Words of the scalar core's statements -/

/-- No operation of an engine owes one of these registers (R226, R270, R295). -/
def Free (s : State) (rs : List XReg) : Prop := (s.ctx s.actCell).owing rs = none

/-- An x register of the cell that moves. -/
def xv (s : State) (r : XReg) : Word := s.readX s.actCell r

/-- The state after rd := v and the move of the pc behind a single word. -/
def wrote (s : State) (rd : XReg) (v : Word) : State := (s.writeX s.actCell rd v).advance s.actCell 4

/-- The values of R200 for the operations on two registers. -/
def intOps : List ((XReg → XReg → XReg → Instr) × (Word → Word → Word)) :=
  [(.add, fun a b => BitVec.ofNat 64 (a.toNat + b.toNat)),
   (.sub, fun a b => BitVec.ofInt 64 ((a.toNat : Int) - b.toNat)),
   (.mul, fun a b => BitVec.ofNat 64 (a.toNat * b.toNat)),
   (.mulh, fun a b => BitVec.ofInt 64 (a.toInt * b.toInt / 2 ^ 64)),
   (.mulhn, fun a b => BitVec.ofNat 64 (a.toNat * b.toNat / 2 ^ 64)),
   (.div, fun a b => if b = 0 then 0 else BitVec.ofInt 64 (a.toInt.tdiv b.toInt)),
   (.divn, fun a b => if b = 0 then 0 else BitVec.ofNat 64 (a.toNat / b.toNat)),
   (.rem, fun a b => if b = 0 then a else BitVec.ofInt 64 (a.toInt - b.toInt * a.toInt.tdiv b.toInt)),
   (.remn, fun a b => if b = 0 then a else BitVec.ofNat 64 (a.toNat % b.toNat)),
   (.and, fun a b => a &&& b),
   (.or, fun a b => a ||| b),
   (.xor, fun a b => a ^^^ b),
   (.andn, fun a b => a &&& ~~~b),
   (.shl, fun a b => BitVec.ofNat 64 (a.toNat * 2 ^ (b.toNat % 64))),
   (.shr, fun a b => BitVec.ofNat 64 (a.toNat / 2 ^ (b.toNat % 64))),
   (.sra, fun a b => BitVec.ofInt 64 (a.toInt / 2 ^ (b.toNat % 64))),
   (.min, fun a b => if a.toInt ≤ b.toInt then a else b),
   (.minn, fun a b => if a.toNat ≤ b.toNat then a else b),
   (.max, fun a b => if a.toInt ≤ b.toInt then b else a),
   (.maxn, fun a b => if a.toNat ≤ b.toNat then b else a),
   (.slt, fun a b => if a.toInt < b.toInt then 1 else 0),
   (.sltn, fun a b => if a.toNat < b.toNat then 1 else 0),
   (.seq, fun a b => if a = b then 1 else 0)]

/-- The values of R200 for the operations on one register: a bit i from the top counts as leading while the word is below
2^(63 − i). -/
def intOps1 : List ((XReg → XReg → Instr) × (Word → Word)) :=
  [(.clz, fun a => BitVec.ofNat 64 ((List.range 64).filter (fun i => a.toNat < 2 ^ (63 - i))).length),
   (.popc, fun a => BitVec.ofNat 64 ((List.range 64).filter (fun i => a.getLsbD i)).length)]

/-- The values of R201: the immediate is sign-extended for ADDI and SLTI and zero-extended for the logical operations. -/
def immOps : List ((XReg → XReg → BitVec 16 → Instr) × (Word → BitVec 16 → Word)) :=
  [(.addi, fun a i => BitVec.ofInt 64 (a.toInt + i.toInt)),
   (.andi, fun a i => a &&& BitVec.ofNat 64 i.toNat),
   (.ori, fun a i => a ||| BitVec.ofNat 64 i.toNat),
   (.xori, fun a i => a ^^^ BitVec.ofNat 64 i.toNat),
   (.slti, fun a i => if a.toInt < i.toInt then 1 else 0)]

/-- The shifts by an immediate (R201). -/
def shiftOps : List ((XReg → XReg → BitVec 6 → Instr) × (Word → Nat → Word)) :=
  [(.shli, fun a n => BitVec.ofNat 64 (a.toNat * 2 ^ n)),
   (.shri, fun a n => BitVec.ofNat 64 (a.toNat / 2 ^ n)),
   (.srai, fun a n => BitVec.ofInt 64 (a.toInt / 2 ^ n))]

/-- The size column of R41 by format code: bytes of an element, or of a block of 16 elements for a PB format. -/
def fmtBytes (fmt : Nat) : Nat := [1, 1, 2, 4, 1, 2, 4, 2, 4, 6, 10, 16, 80, 4].getD fmt 0

/-- The fields of a fat pointer (R60). -/
def ptrAddr (p : Word) : Nat := p.toNat % 2 ^ 52
def ptrFmt (p : Word) : Nat := p.toNat / 2 ^ 52 % 16
def ptrBll (p : Word) : Nat := p.toNat / 2 ^ 56 % 32

/-- The checks that R202 takes from R60: bits [63:61], fmt, and bll of a PB format. -/
def ptrGood (p : Word) : Prop :=
  p.toNat / 2 ^ 61 = 0 ∧ ptrFmt p < 14 ∧ (9 ≤ ptrFmt p ∧ ptrFmt p ≤ 11 → 4 ≤ ptrBll p)

/-- The bytes that ADDPE adds for an element count (R61); none where the count is no multiple of a PB format's 16. -/
def ptrBytes (p : Word) (n : Int) : Option Int :=
  if 9 ≤ ptrFmt p ∧ ptrFmt p ≤ 11 then (if 16 ∣ n then some (n / 16 * fmtBytes (ptrFmt p)) else none)
  else some (n * fmtBytes (ptrFmt p))

/-- A pointer operation that moves the address by d bytes comes to this (R61, R202): rd with bits [63:52] kept, or the pointer
fault where the pointer is bad, there is no byte count, or the address leaves 0 to 2^52 − 1. -/
def PtrMoves (s : State) (i : Instr) (rd : XReg) (p : Word) (d : Option Int) : Prop :=
  (ptrGood p → ∀ n, d = some n → 0 ≤ (ptrAddr p : Int) + n → (ptrAddr p : Int) + n < 2 ^ 52 →
    exec i s = .next (wrote s rd (BitVec.ofInt 64 ((p.toNat : Int) + n)))) ∧
  ((¬ ptrGood p ∨ d = none ∨ ∃ n, d = some n ∧ ¬ (0 ≤ (ptrAddr p : Int) + n ∧ (ptrAddr p : Int) + n < 2 ^ 52)) →
    exec i s = .next (s.scalarFault s.actCell 0x03 0))

/-- The conditions of R207. -/
def branchOps : List ((XReg → XReg → BitVec 16 → Instr) × (Word → Word → Bool)) :=
  [(.beq, fun a b => a = b), (.bne, fun a b => a ≠ b), (.blt, fun a b => a.toInt < b.toInt),
   (.bge, fun a b => b.toInt ≤ a.toInt), (.bltn, fun a b => a.toNat < b.toNat), (.bgen, fun a b => b.toNat ≤ a.toNat)]

/-! ## Frames -/

/-- Everything of the device is as before but the moving cell's x register rd, pc, loop levels and run state. -/
structure CoreOnly (s t : State) (rd : XReg) : Prop where
  regs : ∀ r, r ≠ rd → t.readX s.actCell r = s.readX s.actCell r
  core : { t.core s.actCell with x := (s.core s.actCell).x, pc := (s.core s.actCell).pc, loops := (s.core s.actCell).loops,
                                 run := (s.core s.actCell).run } = s.core s.actCell
  ctx : { t.ctx s.actCell with core := s.core s.actCell } = s.ctx s.actCell
  cell : { t.cell s.actCell with ctx := s.ctx s.actCell } = s.cell s.actCell
  others : ∀ c, c ≠ s.actCell → t.cell c = s.cell c
  bytes : ∀ a, t.readB a = s.readB a
  rest : { t with cells := s.cells } = s

/-- An instruction of the register-only group with the x register that it may write, x0 for one that writes none: the integer and
pointer operations, branches, jumps, loops, MFS, NOP, SYNCE, TRAP, BKPT, and what runs where decode or fetch fails. -/
inductive RegOnly : Instr → XReg → Prop where
  | add (rd ra rb : XReg) : RegOnly (.add rd ra rb) rd
  | sub (rd ra rb : XReg) : RegOnly (.sub rd ra rb) rd
  | mul (rd ra rb : XReg) : RegOnly (.mul rd ra rb) rd
  | mulh (rd ra rb : XReg) : RegOnly (.mulh rd ra rb) rd
  | mulhn (rd ra rb : XReg) : RegOnly (.mulhn rd ra rb) rd
  | div (rd ra rb : XReg) : RegOnly (.div rd ra rb) rd
  | divn (rd ra rb : XReg) : RegOnly (.divn rd ra rb) rd
  | rem (rd ra rb : XReg) : RegOnly (.rem rd ra rb) rd
  | remn (rd ra rb : XReg) : RegOnly (.remn rd ra rb) rd
  | and (rd ra rb : XReg) : RegOnly (.and rd ra rb) rd
  | or (rd ra rb : XReg) : RegOnly (.or rd ra rb) rd
  | xor (rd ra rb : XReg) : RegOnly (.xor rd ra rb) rd
  | andn (rd ra rb : XReg) : RegOnly (.andn rd ra rb) rd
  | shl (rd ra rb : XReg) : RegOnly (.shl rd ra rb) rd
  | shr (rd ra rb : XReg) : RegOnly (.shr rd ra rb) rd
  | sra (rd ra rb : XReg) : RegOnly (.sra rd ra rb) rd
  | min (rd ra rb : XReg) : RegOnly (.min rd ra rb) rd
  | minn (rd ra rb : XReg) : RegOnly (.minn rd ra rb) rd
  | max (rd ra rb : XReg) : RegOnly (.max rd ra rb) rd
  | maxn (rd ra rb : XReg) : RegOnly (.maxn rd ra rb) rd
  | slt (rd ra rb : XReg) : RegOnly (.slt rd ra rb) rd
  | sltn (rd ra rb : XReg) : RegOnly (.sltn rd ra rb) rd
  | seq (rd ra rb : XReg) : RegOnly (.seq rd ra rb) rd
  | addp (rd ra rb : XReg) : RegOnly (.addp rd ra rb) rd
  | addpe (rd ra rb : XReg) : RegOnly (.addpe rd ra rb) rd
  | pfmt (rd ra rb : XReg) : RegOnly (.pfmt rd ra rb) rd
  | clz (rd ra : XReg) : RegOnly (.clz rd ra) rd
  | popc (rd ra : XReg) : RegOnly (.popc rd ra) rd
  | addi (rd ra : XReg) (i : BitVec 16) : RegOnly (.addi rd ra i) rd
  | andi (rd ra : XReg) (i : BitVec 16) : RegOnly (.andi rd ra i) rd
  | ori (rd ra : XReg) (i : BitVec 16) : RegOnly (.ori rd ra i) rd
  | xori (rd ra : XReg) (i : BitVec 16) : RegOnly (.xori rd ra i) rd
  | slti (rd ra : XReg) (i : BitVec 16) : RegOnly (.slti rd ra i) rd
  | shli (rd ra : XReg) (i : BitVec 6) : RegOnly (.shli rd ra i) rd
  | shri (rd ra : XReg) (i : BitVec 6) : RegOnly (.shri rd ra i) rd
  | srai (rd ra : XReg) (i : BitVec 6) : RegOnly (.srai rd ra i) rd
  | lui (rd : XReg) (i : BitVec 16) : RegOnly (.lui rd i) rd
  | pget (rd ra : XReg) (sel : PgetSel) : RegOnly (.pget rd ra sel) rd
  | beq (ra rb : XReg) (off : BitVec 16) : RegOnly (.beq ra rb off) 0
  | bne (ra rb : XReg) (off : BitVec 16) : RegOnly (.bne ra rb off) 0
  | blt (ra rb : XReg) (off : BitVec 16) : RegOnly (.blt ra rb off) 0
  | bge (ra rb : XReg) (off : BitVec 16) : RegOnly (.bge ra rb off) 0
  | bltn (ra rb : XReg) (off : BitVec 16) : RegOnly (.bltn ra rb off) 0
  | bgen (ra rb : XReg) (off : BitVec 16) : RegOnly (.bgen ra rb off) 0
  | jal (off : BitVec 26) : RegOnly (.jal off) 31
  | jalr (rd ra : XReg) (off : BitVec 14) : RegOnly (.jalr rd ra off) rd
  | loop (ra : XReg) (body : BitVec 14) : RegOnly (.loop ra body) 0
  | loopi (cnt body : BitVec 12) : RegOnly (.loopi cnt body) 0
  | mfs (rd : XReg) (idx : BitVec 10) : RegOnly (.mfs rd idx) rd
  | nop : RegOnly .nop 0
  | synce (e : BitVec 3) : RegOnly (.synce e) 0
  | trap (code : BitVec 8) : RegOnly (.trap code) 0
  | bkpt (code : BitVec 8) : RegOnly (.bkpt code) 0
  | illegal (p : Bool) : RegOnly (.illegalInstruction p) 0
  | fetchFault : RegOnly .fetchFault 0

end Sys2Proof.Spec

open Sys2Proof Sys2Proof.Machine Sys2Proof.Spec

/-! ## Integer operations, pointers, control -/

/-- R200: each operation writes rd from the 64-bit values of ra and rb. -/
def Spec.IntegerResults : Prop :=
  (∀ p ∈ intOps, ∀ (rd ra rb : XReg) (s : State), Free s [rd, ra, rb] →
    exec (p.1 rd ra rb) s = .next (wrote s rd (p.2 (xv s ra) (xv s rb)))) ∧
  (∀ p ∈ intOps1, ∀ (rd ra : XReg) (s : State), Free s [rd, ra] → exec (p.1 rd ra) s = .next (wrote s rd (p.2 (xv s ra))))

/-- R201: the immediate operations. -/
def Spec.ImmediateResults : Prop :=
  (∀ p ∈ immOps, ∀ (rd ra : XReg) (imm : BitVec 16) (s : State), Free s [rd, ra] →
    exec (p.1 rd ra imm) s = .next (wrote s rd (p.2 (xv s ra) imm))) ∧
  (∀ p ∈ shiftOps, ∀ (rd ra : XReg) (n : BitVec 6) (s : State), Free s [rd, ra] →
    exec (p.1 rd ra n) s = .next (wrote s rd (p.2 (xv s ra) n.toNat))) ∧
  (∀ (rd : XReg) (imm : BitVec 16) (s : State), Free s [rd] →
    exec (.lui rd imm) s = .next (wrote s rd (BitVec.ofInt 64 (imm.toInt * 2 ^ 16))))

/-- R202, R61: pointer arithmetic, PFMT and PGET. -/
def Obligations.PointerResults : Prop :=
  ∀ (rd ra rb : XReg) (s : State),
    (Free s [rd, ra, rb] →
      PtrMoves s (.addp rd ra rb) rd (xv s ra) (some (xv s rb).toInt) ∧
      PtrMoves s (.addpe rd ra rb) rd (xv s ra) (ptrBytes (xv s ra) (xv s rb).toInt) ∧
      ∃ v : Word, exec (.pfmt rd ra rb) s = .next (wrote s rd v) ∧ ptrAddr v = ptrAddr (xv s ra) ∧
        v.toNat / 2 ^ 52 % 2 ^ 9 = (xv s rb).toNat % 2 ^ 9 ∧ v.toNat / 2 ^ 61 = (xv s ra).toNat / 2 ^ 61) ∧
    (Free s [rd, ra] →
      exec (.pget rd ra .addr) s = .next (wrote s rd (BitVec.ofNat 64 (ptrAddr (xv s ra)))) ∧
      exec (.pget rd ra .fmt) s = .next (wrote s rd (BitVec.ofNat 64 (ptrFmt (xv s ra)))) ∧
      exec (.pget rd ra .bll) s = .next (wrote s rd (BitVec.ofNat 64 (ptrBll (xv s ra)))))

/-- R207: a branch goes to pc + 4 × offset where its condition holds, and on to pc + 4 otherwise. -/
def Spec.Branches : Prop :=
  ∀ p ∈ branchOps, ∀ (ra rb : XReg) (off : BitVec 16) (s : State), Free s [ra, rb] →
    exec (p.1 ra rb off) s = .next (
      if p.2 (xv s ra) (xv s rb) then s.jump s.actCell (BitVec.ofInt 52 (s.pc s.actCell + 4 * off.toInt)).toNat
      else s.advance s.actCell 4)

/-- R208: JAL and JALR. JALR reads ra before it writes rd. -/
def Spec.Jumps : Prop :=
  (∀ (off : BitVec 26) (s : State), Free s [31] →
    exec (.jal off) s = .next ((s.writeX s.actCell 31 (BitVec.ofNat 64 ((s.pc s.actCell + 4) % 2 ^ 52))).jump s.actCell
      (BitVec.ofInt 52 (s.pc s.actCell + 4 * off.toInt)).toNat)) ∧
  (∀ (rd ra : XReg) (off : BitVec 14) (s : State), Free s [rd, ra] →
    exec (.jalr rd ra off) s = .next ((s.writeX s.actCell rd (BitVec.ofNat 64 ((s.pc s.actCell + 4) % 2 ^ 52))).jump s.actCell
      ((BitVec.ofInt 64 ((xv s ra).toNat + 4 * off.toInt)).toNat / 4 * 4 % 2 ^ 52)))

/-- The states that R209 gives a loop instruction with count n and a body of b words. -/
def Spec.LoopDoes (s : State) (i : Instr) (n b : Nat) : Prop :=
  let c := s.actCell
  let a := s.pc c
  (n = 0 → exec i s = .next (s.advance c (4 + 4 * b))) ∧
  (n ≠ 0 → (2 ≤ (s.core c).loops.length ∨ ∃ l, (s.core c).loops = [l] ∧ l.stop.toNat < a + 4 + 4 * b) →
    exec i s = .next (s.scalarFault c 0x01 0)) ∧
  (n ≠ 0 → ((s.core c).loops = [] ∨ ∃ l, (s.core c).loops = [l] ∧ a + 4 + 4 * b ≤ l.stop.toNat) →
    exec i s = .next (s.updCore c (fun k => { k with
      loops := ⟨BitVec.ofNat 32 n, BitVec.ofNat 32 (a + 4), BitVec.ofNat 32 (a + 4 + 4 * b)⟩ :: k.loops
      pc := BitVec.ofNat 52 (a + 4) })))

/-- R209: LOOP and LOOPI, the end of a body, and the levels that a taken jump leaves live. -/
def Spec.Loops : Prop :=
  (∀ (ra : XReg) (body : BitVec 14) (s : State), Free s [ra] →
    Spec.LoopDoes s (.loop ra body) ((xv s ra).toNat % 2 ^ 32) body.toNat) ∧
  (∀ (cnt body : BitVec 12) (s : State), Spec.LoopDoes s (.loopi cnt body) cnt.toNat body.toNat) ∧
  (∀ (k : Core) (len : Nat),
    let p := (k.pc + BitVec.ofNat 52 len).toNat
    (k.loops = [] → k.advance len = { k with pc := BitVec.ofNat 52 p }) ∧
    ∀ l t, k.loops = l :: t →
      (p ≠ l.stop.toNat → k.advance len = { k with pc := BitVec.ofNat 52 p }) ∧
      (p = l.stop.toNat → 1 < l.left.toNat →
        k.advance len = { k with loops := { l with left := l.left - 1 } :: t, pc := BitVec.ofNat 52 l.start.toNat }) ∧
      (p = l.stop.toNat → l.left.toNat ≤ 1 → k.advance len = { k with loops := t }.advance len)) ∧
  (∀ (k : Core) (target : BitVec 52),
    (k.jump target.toNat).pc = target ∧ (k.jump target.toNat).loops <:+ k.loops ∧
    (∀ l ∈ (k.jump target.toNat).loops, l.start.toNat ≤ target.toNat ∧ target.toNat < l.stop.toNat) ∧
    ∀ ls, ls <:+ k.loops → (∀ l ∈ ls, l.start.toNat ≤ target.toNat ∧ target.toNat < l.stop.toNat) →
      ls <:+ (k.jump target.toNat).loops)

/-- What the register-only instructions leave alone (R185, R200 to R202, R207 to R210, R217; R133 where one faults). -/
def Obligations.RegisterOnlyFrame : Prop :=
  ∀ (i : Instr) (rd : XReg) (s t : State), RegOnly i rd → exec i s = .next t → CoreOnly s t rd

/-! ## The scalar core's memory -/

/-- A scalar access of n bytes at byte address a of the cell's own scratchpad that nothing hinders: the cell runs, registers are free, address in the
window, aligned, at or above the execute-only boundary, its line not poisoned, no injected error armed on the die (R66, R89, R203). -/
def Spec.OwnAccess (s : State) (rs : List XReg) (base : Word) (off : Int) (n a : Nat) : Prop :=
  let c := s.actCell
  (s.core c).run = .running ∧ Free s rs ∧ ((base.toNat % 2 ^ 52 : Nat) : Int) + off = a ∧ a % n = 0 ∧ (s.core c).xoTop ≤ a ∧ a < (s.cell c).fpCap ∧
  a < 0x80000 ∧ s.poisoned ((spBase c + a) / 64) = false ∧ (s.die (dieOfCell c)).einjArm = false

/-- No store or packet of the cell that is on its way or held meets some bytes (R139, R109), and no engine operation that is under way races
with an access of the scalar core (0) or of an engine there (R108). -/
def Spec.Settled (s : State) (c eng pa n : Nat) : Prop :=
  (∀ q ∈ s.pendingStores c ++ s.pendingWrites c, q.1 + q.2.length ≤ pa ∨ pa + n ≤ q.1) ∧ s.rapAhead c pa n = false ∧
  s.racing c eng pa n = []

/-- No element of an operation that engine eng's head operation races with lies among some bytes (R108). -/
def Spec.Alone (s : State) (c eng pa n : Nat) : Prop :=
  ∀ h ∈ (s.ctx c).out.shadow, (s.ctx c).races eng h = true → h.pa + h.new.length ≤ pa ∨ pa + n ≤ h.pa

/-- The register value of n loaded bytes, as a number v below 2^(8n), sign-extended or zero-extended (R203). -/
def Spec.extended (signed : Bool) (n v : Nat) : Word :=
  if signed && decide (2 ^ (8 * n - 1) ≤ v) then BitVec.ofInt 64 ((v : Int) - 2 ^ (8 * n)) else BitVec.ofNat 64 v

/-- Bytes and sign of the load types (R170, R203), and bytes of the store types. -/
def Spec.ldShape : LdTy → Nat × Bool
  | .s8 => (1, true) | .s16 => (2, true) | .s32 => (4, true) | .d64 => (8, false)
  | .n8 => (1, false) | .n16 => (2, false) | .n32 => (4, false)
def Spec.stSize : StTy → Nat
  | .w8 => 1 | .w16 => 2 | .w32 => 4 | .w64 => 8

/-- Scopes that an acquire clears foreign lines at (R100): device and wider. -/
def Spec.deviceOrWider : Scope → Bool
  | .cell | .die => false
  | .device | .pod | .system => true

/-- R203, R204 for the local scratchpad: LD and LDA write rd with the value; an LDA of device scope or wider drops the foreign lines
(R100), where no store of the cell is pending there and no engine operation races (R95, R139, R108). The last clause covers every place
that a load resolves to on this device (R80): it gives what `scalarRead` reads there. -/
def Obligations.Loads : Prop :=
  (∀ (t : LdTy) (rd base : XReg) (off : BitVec 12) (a : Nat) (s : State),
    let n := (Spec.ldShape t).1
    let v := Spec.extended (Spec.ldShape t).2 n (s.readNat (spBase s.actCell + a) n)
    Spec.OwnAccess s [rd, base] (xv s base) off.toInt n a → (s.ctx s.actCell).out.sb = [] →
    Spec.Settled s s.actCell 0 (spBase s.actCell + a) n →
    exec (.ld t rd base off) s = .next (wrote s rd v)) ∧
  (∀ (t : LdTy) (rd base : XReg) (sc : Scope) (a : Nat) (s : State),
    let n := (Spec.ldShape t).1
    let v := Spec.extended (Spec.ldShape t).2 n (s.readNat (spBase s.actCell + a) n)
    Spec.OwnAccess s [rd, base] (xv s base) 0 n a → (s.ctx s.actCell).out.sb = [] →
    Spec.Settled s s.actCell 0 (spBase s.actCell + a) n →
    exec (.lda t rd base sc) s = .next (wrote (if Spec.deviceOrWider sc then s.dropForeign s.actCell else s) rd v)) ∧
  (∀ (t : LdTy) (rd base : XReg) (off : BitVec 12) (a : Nat) (l : Loc) (b : List Byte) (s s1 : State),
    let n := (Spec.ldShape t).1
    Free s [rd, base] → (((xv s base).toNat % 2 ^ 52 : Nat) : Int) + off.toInt = a → a % n = 0 → a + n ≤ 2 ^ 52 →
    s.resolve s.actCell .load false a = .ok l → (∀ pa, l.place ≠ .remote pa) →
    sbForward s.actCell (s.ctx s.actCell).out.sb l.place n = none → s.rapAhead s.actCell (l.place.pa s.actCell) n = false →
    s.scalarRead s.actCell l n = (b, false, s1) →
    exec (.ld t rd base off) s = .next ((s1.writeX s.actCell rd (Spec.extended (Spec.ldShape t).2 n (leNat b))).advance
      s.actCell 4))

/-- R203, R95: ST and STL of the local scratchpad put the bytes into the store buffer, and no byte of memory changes before
STORE_PERFORM. An ST to any other place does the same with its physical address. -/
def Obligations.StoresBuffer : Prop :=
  (∀ (t : StTy) (data base : XReg) (off : BitVec 12) (a : Nat) (s : State),
    let c := s.actCell
    let e : SbEntry := ⟨s.nextOrd c, true, a, a, leBytes (Spec.stSize t) (xv s data).toNat⟩
    Spec.OwnAccess s [data, base] (xv s base) off.toInt (Spec.stSize t) a → (s.ctx c).out.sb.length < 16 →
    exec (.st t data base off) s =
      .next (((s.updOut c (fun o => { o with sb := o.sb ++ [e] })).bumpOrd c).advance c 4)) ∧
  (∀ (t : StTy) (data base : XReg) (sc : Scope) (a : Nat) (s : State),
    let c := s.actCell
    let e : SbEntry := ⟨s.nextOrd c, true, a, a, leBytes (Spec.stSize t) (xv s data).toNat⟩
    Spec.OwnAccess s [data, base] (xv s base) 0 (Spec.stSize t) a → (s.ctx c).out.sb.length < 16 →
    exec (.stl t data base sc) s =
      .next (((s.updOut c (fun o => { o with sb := o.sb ++ [e] })).bumpOrd c).advance c 4)) ∧
  (∀ (t : StTy) (data base : XReg) (off : BitVec 12) (a : Nat) (l : Loc) (s : State),
    let c := s.actCell
    let n := Spec.stSize t
    let e : SbEntry := ⟨s.nextOrd c, false, l.place.pa c, a, leBytes n (xv s data).toNat⟩
    Free s [data, base] → (((xv s base).toNat % 2 ^ 52 : Nat) : Int) + off.toInt = a → a % n = 0 → a + n ≤ 2 ^ 52 →
    s.resolve c .store false a = .ok l → l.place.isOwn = false → (∀ pa, l.place ≠ .remote pa) →
    (s.ctx c).out.sb.length < 16 → (s.core c).run = .running →
    exec (.st t data base off) s =
      .next (((s.updOut c (fun o => { o with sb := o.sb ++ [e] })).bumpOrd c).advance c 4))

/-- Bytes that a STORE_PERFORM of cell c leaves as they are: all outside [pa, pa + n). -/
def Spec.OnlyBytes (s t : State) (pa n : Nat) : Prop := ∀ a, (a < pa ∨ pa + n ≤ a) → t.readB a = s.readB a

/-- No store or arithmetic packet of the cell is on its way (R94, R109). -/
def Spec.Quiet (s : State) (c : Nat) : Prop := s.storesOut c = false ∧ s.rapsOut c = false

/-- R95, R139: STORE_PERFORM writes the bytes of the store buffer's head. A store to the cell's own scratchpad performs at its bank, and
a retriable activation first journals the old 64 bytes of each line it did not hold yet. A store to this device's memory by a
non-retriable activation performs at its home. One by a retriable activation joins the held items instead, with no byte changed. No engine
operation under way races with the bytes (R108). -/
def Spec.StorePerforms : Prop :=
  ∀ (c : Nat) (e : SbEntry) (rest : List SbEntry) (s : State), (s.ctx c).out.sb = e :: rest → s.netStore c = none →
    (s.cell c).moving = none → Memory.wf s.mem = true →
    (e.own = true → Spec.Quiet s c → s.journalFull c e.addr e.bytes.length = false →
      s.racing c 0 (spBase c + e.addr) e.bytes.length = [] →
      ∃ t, exec (.storePerform c) s = .next t ∧ (t.ctx c).out.sb = rest ∧
        t.read (spBase c + e.addr) e.bytes.length = e.bytes ∧ Spec.OnlyBytes s t (spBase c + e.addr) e.bytes.length ∧
        ((s.ctx c).retriable = true → e.bytes ≠ [] → ∀ l ∈ s.newLines c e.addr e.bytes.length,
          (l, s.read (spBase c + l * 64) 64, s.poisoned (spBase c / 64 + l)) ∈ (t.ctx c).out.journal)) ∧
    (e.own = false → (s.ctx c).retriable = false → Spec.Quiet s c → e.addr < 0x8000000000 → s.portRow e.addr = none →
      s.racing c 0 e.addr e.bytes.length = [] →
      ∃ t, exec (.storePerform c) s = .next t ∧ (t.ctx c).out.sb = rest ∧ t.read e.addr e.bytes.length = e.bytes ∧
        Spec.OnlyBytes s t e.addr e.bytes.length) ∧
    (e.own = false → (s.ctx c).retriable = true →
      heldSize (s.ctx c).out.held + (s.storePacket c e.addr e.va e.bytes).size ≤ 65536 →
      exec (.storePerform c) s = .next (s.updOut c (fun o => { o with sb := rest, held := insHeld o.held ⟨e.ord, s.storePacket c e.addr e.va e.bytes⟩ })))

/-- The access instructions with their base register, offset and bytes, and the registers they name. -/
inductive Spec.AccessForm : Instr → List XReg → XReg → Int → Nat → Prop where
  | ld (t : LdTy) (rd b : XReg) (off : BitVec 12) : AccessForm (.ld t rd b off) [rd, b] b off.toInt (Spec.ldShape t).1
  | st (t : StTy) (d b : XReg) (off : BitVec 12) : AccessForm (.st t d b off) [d, b] b off.toInt (Spec.stSize t)
  | lda (t : LdTy) (rd b : XReg) (sc : Scope) : AccessForm (.lda t rd b sc) [rd, b] b 0 (Spec.ldShape t).1
  | stl (t : StTy) (d b : XReg) (sc : Scope) : AccessForm (.stl t d b sc) [d, b] b 0 (Spec.stSize t)
  | amo (op : AmoOp) (w64 : Bool) (sc : Scope) (rd ra rb : XReg) :
      AccessForm (.amo op w64 sc rd ra rb) [rd, ra, rb] ra 0 (if w64 then 8 else 4)
  | cas (w64 : Bool) (sc : Scope) (rd ra rb : XReg) : AccessForm (.cas w64 sc rd ra rb) [rd, ra, rb] ra 0 (if w64 then 8 else 4)

/-- R203, R204, R205: an address that is misaligned or outside 0 to 2^52 − 1 raises the access fault with that address, and a store,
AMO or CAS to the bellboard window raises it too. Nothing else happens. -/
def Obligations.AccessFaults : Prop :=
  (∀ i rs b off n, Spec.AccessForm i rs b off n → ∀ s : State, Free s rs →
    let a : Int := ((xv s b).toNat % 2 ^ 52 : Nat) + off
    (a % n ≠ 0 ∨ a < 0 ∨ 2 ^ 52 < a + n) → exec i s = .next (s.scalarFault s.actCell 0x13 (BitVec.ofInt 64 a))) ∧
  (∀ i rs b off n, Spec.AccessForm i rs b off n → ∀ s : State, Free s rs → (s.cell s.actCell).walked = [] →
    let a : Int := ((xv s b).toNat % 2 ^ 52 : Nat) + off
    a % n = 0 → 0x80000 ≤ a → a < 0x88000 → (∀ t rd off, i ≠ .ld t rd b off) → (∀ t rd sc, i ≠ .lda t rd b sc) →
    ∃ t, exec i s = .next t ∧ t.core s.actCell = (s.scalarFault s.actCell 0x13 (BitVec.ofInt 64 a)).core s.actCell ∧ t.mem = s.mem)

/-- The new value of an AMO on w-bit values (R205). -/
def Spec.amoValue (op : AmoOp) (w old v : Nat) : Nat :=
  let sg := fun (x : Nat) => if x < 2 ^ (w - 1) then (x : Int) else x - 2 ^ w
  match op with
  | .swap => v
  | .add => (old + v) % 2 ^ w
  | .and => old &&& v
  | .or => old ||| v
  | .xor => old ^^^ v
  | .min => if sg v ≤ sg old then v else old
  | .max => if sg v ≤ sg old then old else v
  | .minn => if v ≤ old then v else old
  | .maxn => if v ≤ old then old else v

/-- What R205 gives a read-modify-write of n bytes at an address of the own scratchpad: `new` at the address and no other byte
changed, and the old value in rd, zero-extended. -/
def Spec.RmwDoes (s : State) (i : Instr) (rd : XReg) (n a : Nat) (new : Nat → Nat) : Prop :=
  let c := s.actCell
  ∃ t, exec i s = .next t ∧ t.readNat (spBase c + a) n = new (s.readNat (spBase c + a) n) ∧
    Spec.OnlyBytes s t (spBase c + a) n ∧
    t.core c = ((s.core c).writeX rd (BitVec.ofNat 64 (s.readNat (spBase c + a) n))).advance 4

/-- R205 on the own scratchpad: AMO always writes, CAS writes where the old value is that of rd. Earlier stores and packets have
performed (R96), nothing that the cell holds and no engine operation under way meets the bytes (R139, R108), and the journal of a retriable
activation holds the line or has a place for it (R139). -/
def Spec.AtomicsLocal : Prop :=
  ∀ (w64 : Bool) (sc : Scope) (rd ra rb : XReg) (a : Nat) (s : State),
    let n := if w64 then 8 else 4
    Spec.OwnAccess s [rd, ra, rb] (xv s ra) 0 n a → (s.ctx s.actCell).out.sb = [] → Spec.Quiet s s.actCell →
    Memory.wf s.mem = true → (s.ctx s.actCell).out.journal.length < 64 → Spec.Settled s s.actCell 0 (spBase s.actCell + a) n →
    (∀ op, Spec.RmwDoes s (.amo op w64 sc rd ra rb) rd n a (fun old =>
      Spec.amoValue op (8 * n) old ((xv s rb).toNat % 2 ^ (8 * n)))) ∧
    Spec.RmwDoes s (.cas w64 sc rd ra rb) rd n a (fun old =>
      if old = (xv s rd).toNat % 2 ^ (8 * n) then (xv s rb).toNat % 2 ^ (8 * n) else old)

/-- R99, R100, R206, R140: an acquire fence drops foreign lines at device scope or wider and keeps the activation retriable; a release
or full fence of cell scope goes on once the stores and packets that are not held have performed, and until then it stalls: the store buffer,
its stores and its packets are not all done; a wider one does so in a non-retriable activation, and makes a retriable activation
non-retriable, outside proof mode. -/
def Obligations.Fences : Prop :=
  ∀ (k : FenceKind) (sc : Scope) (s : State),
    let c := s.actCell
    (k = .acq → exec (.fence k sc) s = .next ((if Spec.deviceOrWider sc then s.dropForeign c else s).advance c 4)) ∧
    (k ≠ .acq → sc = .cell → (s.core c).run = .running → (s.ctx c).out.sb = [] → Spec.Quiet s c →
      exec (.fence k sc) s = .next (s.advance c 4)) ∧
    (k ≠ .acq → sc ≠ .cell → (s.core c).run = .running → (s.ctx c).retriable = false → (s.ctx c).out.sb = [] → Spec.Quiet s c →
      exec (.fence k sc) s = .next ((if k = .full ∧ Spec.deviceOrWider sc = true then s.dropForeign c else s).advance c 4)) ∧
    (k ≠ .acq → (sc = .cell ∨ (s.ctx c).retriable = false) → (s.core c).run = .running → ((s.ctx c).out.sb ≠ [] ∨ ¬ Spec.Quiet s c) →
      exec (.fence k sc) s = .next s) ∧
    (k ≠ .acq → sc ≠ .cell → (s.ctx c).proof = false →
      ∃ t, exec (.fence k sc) s = .next t ∧ (t.ctx c).retriable = false)

/-- Engines, Imposer, other cells' contexts and every special register of the core are as before. -/
structure Spec.KeepsCore (s t : State) : Prop where
  vec : (t.ctx s.actCell).vec = (s.ctx s.actCell).vec
  mat : (t.ctx s.actCell).mat = (s.ctx s.actCell).mat
  cop : (t.ctx s.actCell).cop = (s.ctx s.actCell).cop
  launch : (t.ctx s.actCell).launch = (s.ctx s.actCell).launch
  tok : (t.core s.actCell).tok = (s.core s.actCell).tok
  hnd : (t.core s.actCell).hnd = (s.core s.actCell).hnd
  trig : (t.core s.actCell).trig = (s.core s.actCell).trig
  idAct : (t.core s.actCell).idAct = (s.core s.actCell).idAct
  xoTop : (t.core s.actCell).xoTop = (s.core s.actCell).xoTop
  floor : (t.cell s.actCell).floor = (s.cell s.actCell).floor
  trace : (t.cell s.actCell).trace = (s.cell s.actCell).trace
  others : ∀ c, c ≠ s.actCell → t.ctx c = s.ctx c
  imp : t.imp = s.imp

/-- The bellboard too is as before. -/
structure Spec.KeepsRest (s t : State) : Prop extends Spec.KeepsCore s t where
  bell : (t.ctx s.actCell).bell = (s.ctx s.actCell).bell

/-- R203 to R206, R211, R212, R140: what the memory and message instructions leave alone. LD, LDA, ST, STL, FENCE, SEND and RAP change no
byte of memory: stores perform later, those that the end of retriability sends out too (R140). AMO and CAS change at most the bytes at the
place their address resolves to. No x register but rd of LD, LDA, AMO and CAS changes. -/
def Obligations.MemoryFrame : Prop :=
  (∀ (t : LdTy) (rd b : XReg) (off : BitVec 12) (s u : State), exec (.ld t rd b off) s = .next u →
    (∀ r, r ≠ rd → u.readX s.actCell r = xv s r) ∧ (∀ a, u.readB a = s.readB a) ∧ Spec.KeepsRest s u) ∧
  (∀ (t : StTy) (d b : XReg) (off : BitVec 12) (s u : State), exec (.st t d b off) s = .next u →
    (∀ r, u.readX s.actCell r = xv s r) ∧ (∀ a, u.readB a = s.readB a) ∧ Spec.KeepsRest s u) ∧
  (∀ (t : LdTy) (rd b : XReg) (sc : Scope) (s u : State), exec (.lda t rd b sc) s = .next u →
    (∀ r, r ≠ rd → u.readX s.actCell r = xv s r) ∧ (∀ a, u.readB a = s.readB a) ∧ Spec.KeepsCore s u) ∧
  (∀ (t : StTy) (d b : XReg) (sc : Scope) (s u : State), exec (.stl t d b sc) s = .next u →
    (∀ r, u.readX s.actCell r = xv s r) ∧ (∀ a, u.readB a = s.readB a) ∧ Spec.KeepsCore s u) ∧
  (∀ (k : FenceKind) (sc : Scope) (s u : State), exec (.fence k sc) s = .next u →
    (∀ r, u.readX s.actCell r = xv s r) ∧ (∀ a, u.readB a = s.readB a) ∧ Spec.KeepsCore s u) ∧
  (∀ (rd ra rb : XReg) (n : BitVec 3) (s u : State), exec (.send rd ra rb n) s = .next u →
    (∀ r, u.readX s.actCell r = xv s r) ∧ (∀ a, u.readB a = s.readB a) ∧ Spec.KeepsCore s u) ∧
  (∀ (t : RapTy) (op : RapOp) (ordered : Bool) (sc : Scope) (rd ra rb : XReg) (s u : State),
    exec (.rap t op ordered sc rd ra rb) s = .next u →
    (∀ r, u.readX s.actCell r = xv s r) ∧ (∀ a, u.readB a = s.readB a) ∧ Spec.KeepsCore s u) ∧
  (∀ i rs b off n, Spec.AccessForm i rs b off n → ∀ (rd : XReg) (s u : State),
    ((∃ op w sc rb, i = .amo op w sc rd b rb) ∨ ∃ w sc rb, i = .cas w sc rd b rb) → exec i s = .next u →
    (∀ r, r ≠ rd → u.readX s.actCell r = xv s r) ∧
    ∀ a, (∀ va l, scalarAddr (xv s b) 0 n = some va → s.resolve s.actCell .both false va = .ok l →
        a < l.place.pa s.actCell ∨ l.place.pa s.actCell + n ≤ a) → u.readB a = s.readB a)

/-! ## Messages and the bellboard -/

/-- R193, R194: `settle` and `complete` turn as the loops of the rules do: one round takes the count up by a reload of 1 or more. An arrival
of a arrivals and b bytes takes the count down by a and pend up by b, each within its bounds, and completes; where the phase stays open
these are all that changes. -/
def Spec.BellboardLoops : Prop :=
  (∀ e : Entry, 0 < e.count → e.settle = (e, 0)) ∧
  (∀ e : Entry, e.count ≤ 0 → (e.enable && e.bound) = false → e.settle = ({ e with pending := true }, 0)) ∧
  (∀ e : Entry, e.count ≤ 0 → (e.enable && e.bound) = true → 1 ≤ e.reload →
    let r := Entry.settle { e with count := e.count + e.reload, pending := false }
    e.settle = (r.1, r.2 + 1)) ∧
  (∀ e : Entry, (0 < e.count ∨ e.pend ≠ 0) → e.complete = (e, 0)) ∧
  (∀ e : Entry, e.count ≤ 0 → e.pend = 0 → 1 ≤ e.reload →
    let r := Entry.complete { e with count := e.count + e.reload, phase := !e.phase, parked := false }
    e.complete = (r.1, r.2 + if e.parked then 1 else 0)) ∧
  (∀ (e : Entry) (d : Nat) (p : List Word), e.barrier = true →
    e.deliver d p = Entry.complete { e with count := max (e.count - d) (-(2 ^ 31)), pend := clampInt (-(2 ^ 47)) (2 ^ 47 - 1) e.pend }) ∧
  (∀ (e : Entry) (d : Nat) (p : List Word), e.barrier = false → p.length ≤ 4 →
    let e1 := { e with args := Vector.ofFn (fun i => p.getD i.val (e.args[i])) }
    e.deliver d p = if d = 0 then (e1, 0) else Entry.settle { e1 with count := max (e.count - d) (-(2 ^ 31)) }) ∧
  (∀ (e : Entry) (a b : Int),
    let n := max (-(2 ^ 31)) (e.count - a)
    let p := max (-(2 ^ 47)) (min (2 ^ 47 - 1) (e.pend + b))
    e.arrive a b = Entry.complete { e with count := n, pend := p } ∧
    ((0 < n ∨ p ≠ 0) → e.arrive a b = ({ e with count := n, pend := p }, 0)) ∧
    (n ≤ 0 → p = 0 → 0 < n + e.reload → e.arrive a b =
      ({ e with count := n + e.reload, pend := 0, phase := !e.phase, parked := false }, if e.parked then 1 else 0))) ∧
  (∀ (e : Entry) (b : Nat), e.barrier = true →
    e.land b = Entry.complete { e with pend := clampInt (-(2 ^ 47)) (2 ^ 47 - 1) (e.pend - b) })

/-- A destination value that names a cell of this device (R198, mode 0b00). -/
def Spec.cellDest (cell : Nat) : Word := BitVec.ofNat 64 cell

/-- The packet of a SEND from the moving cell to a cell t of this device (R211). -/
def Spec.sendPacket (s : State) (t : Nat) (ctl : Word) (pay : List Word) : Packet :=
  ⟨s.actCell, (s.ctx s.actCell).launch.map (·.key), 0, t, scopeOf s.actCell t 0,
    .msg (ctl.toNat % 512) (ctl.toNat / 2 ^ 32 % 2 ^ 31) pay, s.now⟩

/-- A cell with no partner of a proof pair (R143). -/
def Spec.Unpaired (s : State) (t : Nat) : Prop := ∀ l, (s.ctx t).launch = some l → l.partner = none

/-- The cell that a cell's number leads the moving cell's items to: the one that a forwarding entry of its launch names (R149; that the source's
launch picks the entry is DEDUCED, log entry 18). -/
def Spec.leadsTo (s : State) (t : Nat) : Nat := s.forward ((s.ctx s.actCell).launch.map (·.key)) t

/-- R211, R139, R140: a SEND of a retriable activation holds its message of 16 + 8n bytes where the outgoing buffer has the place, one
of a non-retriable activation sends it at once, and a remote ARRV sends its arrival alike (R214), each to the cell that the number leads to
(R149); R198: a destination value that names no cell raises the access fault with the value. A pair of cells under proof mode is not part
of the first two clauses. -/
def Spec.Sends : Prop :=
  ∀ (rd ra rb : XReg) (n : BitVec 3) (t : Nat) (s : State),
    let c := s.actCell
    let pay := (List.range n.toNat).map (fun i => xv s (rb + BitVec.ofNat 5 i))
    let p := Spec.sendPacket s (Spec.leadsTo s t) (xv s rd) pay
    Free s ([rd, ra] ++ payRegs rb n) →
    (t < 3072 → xv s ra = Spec.cellDest t → (s.ctx c).proof = false → Spec.Unpaired s (Spec.leadsTo s t) → (s.core c).run = .running →
      p.size = 16 + 8 * n.toNat ∧
      ((s.ctx c).retriable = true → heldSize (s.ctx c).out.held + p.size ≤ 65536 →
        exec (.send rd ra rb n) s =
          .next (((s.updOut c (fun o => { o with held := insHeld o.held ⟨s.nextOrd c, p⟩ })).bumpOrd c).advance c 4)) ∧
      ((s.ctx c).retriable = false → (s.ctx c).out.sb = [] →
        exec (.send rd ra rb n) s = .next ((State.bumpOrd { s with net := s.net ++ [p] } c).advance c 4))) ∧
    (t < 3072 → ra ≠ 0 → xv s ra = Spec.cellDest t → (s.ctx c).proof = false → Spec.Unpaired s (Spec.leadsTo s t) → (s.core c).run = .running → ∀ e8 : BitVec 8,
      let q := { p with body := .arrive e8.toNat ((xv s rb).toNat % 2 ^ 48 : Nat) }
      Free s [rd, ra, rb] →
      ((s.ctx c).retriable = true → heldSize (s.ctx c).out.held + 16 ≤ 65536 →
        exec (.arrv e8 rd ra rb) s = .next ((((s.updOut c (fun o =>
          { o with held := insHeld o.held ⟨s.nextOrd c, q⟩ })).bumpOrd c).writeX c rd 0).advance c 4)) ∧
      ((s.ctx c).retriable = false → (s.ctx c).out.sb = [] →
        exec (.arrv e8 rd ra rb) s = .next (((State.bumpOrd { s with net := s.net ++ [q] } c).writeX c rd 0).advance c 4))) ∧
    ((3072 ≤ t → t < 4096 → xv s ra = Spec.cellDest t → exec (.send rd ra rb n) s = .next (s.scalarFault c 0x13 (xv s ra))) ∧
     ((xv s ra).toNat / 2 ^ 62 = 3 → exec (.send rd ra rb n) s = .next (s.scalarFault c 0x13 (xv s ra))) ∧
     ((xv s ra).toNat / 2 ^ 41 % 2 ^ 21 ≠ 0 → exec (.send rd ra rb n) s = .next (s.scalarFault c 0x13 (xv s ra))))

/-- R212, R139: a RAP to an element of the own scratchpad holds its packet while the activation is retriable and sends it at once
otherwise; the operand's value travels with it: val[31:0], or the 80-byte image at a local scratchpad address, which no store or packet of the
cell is ahead of. The model's choice: bits [63:52] of ra, and of the rb of RAP.xa, are dropped (DESIGN CHOICE, log entry 84). -/
def Spec.RapPackets : Prop :=
  ∀ (t : RapTy) (op : RapOp) (ordered : Bool) (sc : Scope) (rd ra rb : XReg) (a : Nat) (bytes : List Byte) (s : State),
    let c := s.actCell
    let p : Packet := ⟨c, (s.ctx c).launch.map (·.key), 0, c, sc,
      .rap t op (if ordered then some (BitVec.ofNat 16 (xv s rd).toNat) else none) (spBase c + a) a bytes, s.now⟩
    (s.core c).run = .running → (s.die (dieOfCell c)).einjArm = false → Free s [rd, ra, rb] → (xv s ra).toNat % 2 ^ 52 = a → (s.core c).xoTop ≤ a →
    a + (if t = .xa then 80 else 4) ≤ (s.cell c).fpCap → a < 0x80000 → a % (if t = .xa then 64 else 4) = 0 →
    ¬ (t = .f32 ∧ op = .add ∧ ordered = false ∧ 1 ≤ (s.ctx c).det) → (s.ctx c).out.sb = [] →
    (t ≠ .xa → bytes = leBytes 4 ((xv s rb).toNat % 2 ^ 32)) →
    (t = .xa → let v : Nat := (xv s rb).toNat % 2 ^ 52
      v % 64 = 0 ∧ (s.core c).xoTop ≤ v ∧ v + 80 ≤ (s.cell c).fpCap ∧ Spec.Settled s c 0 (spBase c + v) 80 ∧ s.poisoned ((spBase c + v) / 64) = false ∧
      s.poisoned ((spBase c + v) / 64 + 1) = false ∧ bytes = s.read (spBase c + v) 80) →
    ((s.ctx c).retriable = true → heldSize (s.ctx c).out.held + p.size ≤ 65536 →
      exec (.rap t op ordered sc rd ra rb) s =
        .next (((s.updOut c (fun o => { o with held := insHeld o.held ⟨s.nextOrd c, p⟩ })).bumpOrd c).advance c 4)) ∧
    ((s.ctx c).retriable = false →
      exec (.rap t op ordered sc rd ra rb) s = .next ((State.bumpOrd { s with net := s.net ++ [p] } c).advance c 4))

/-- An own event takes entry e of the moving cell from `old` to `new` with n firings, and the pc goes on: while the activation is
retriable the change is recorded and the firings are held (R139, R196), else they are queued as they occur (R140). Nothing else of the
cell's registers or of memory changes. -/
def Spec.OwnEvent (s t : State) (e : Nat) (new : Entry) (n : Nat) (x : Core) : Prop :=
  let c := s.actCell
  let old := (s.ctx c).entry e
  (t.ctx c).entry e = { new with deferred := ((t.ctx c).entry e).deferred } ∧
  (∀ j, j ≠ e → (t.ctx c).entry j = (s.ctx c).entry j) ∧
  t.core c = x.advance 4 ∧ t.mem = s.mem ∧ t.net = s.net ∧ (t.ctx c).out.held = (s.ctx c).out.held ∧
  ((s.ctx c).retriable = true → (t.ctx c).entry e = new ∧ (t.ctx c).rq = (s.ctx c).rq ∧
    (t.ctx c).out.firings = (s.ctx c).out.firings ++ List.replicate n (new.firing e s.now false) ∧
    Tab.find (t.ctx c).out.record e = some ((Tab.get EntryRec.empty (s.ctx c).out.record e).note old new)) ∧
  ((s.ctx c).retriable = false → (t.ctx c).out.firings = (s.ctx c).out.firings ∧ (t.ctx c).out.record = (s.ctx c).out.record ∧
    (((s.ctx c).rq.toList.getD (new.prio.toNat % 4) []).length + n ≤ 64 →
      (t.ctx c).rq.toList.getD (new.prio.toNat % 4) [] =
        (s.ctx c).rq.toList.getD (new.prio.toNat % 4) [] ++ List.replicate n (new.firing e s.now false) ∧
      (t.ctx c).entry e = new))

/-- R213, R214: BIND, ARM, ENAB and a local ARRV act on one entry of the own bellboard as the rules say. -/
def Spec.BellboardInstructions : Prop :=
  ∀ (e : BitVec 9) (e8 : BitVec 8) (prio : BitVec 2) (ra rb rd : XReg) (s : State),
    let c := s.actCell
    let en := (s.ctx c).entry e.toNat
    let eb := (s.ctx c).entry e8.toNat
    (Free s [ra, rb] →
      let r : Int := max 1 (min (2 ^ 31 - 1) (xv s rb).toInt)
      let e1 := { en with reload := r, prio := prio }
      let out := if en.barrier then (e1, 0)
        else Entry.settle { e1 with handler := (xv s ra).toNat / 4 % 2 ^ 17 * 4, bound := true }
      ∃ t, exec (.bind e prio ra rb) s = .next t ∧ Spec.OwnEvent s t e.toNat out.1 out.2 (s.core c)) ∧
    (Free s [ra] → ∀ barrier : Bool,
      let count : Int := ((xv s ra).truncate 32 : BitVec 32).toInt
      let e1 := { en with count := count, barrier := barrier, pending := false, pend := 0 }
      let out := if barrier then e1.complete else e1.settle
      ∃ t, exec (.arm e barrier ra) s = .next t ∧ Spec.OwnEvent s t e.toNat out.1 out.2 (s.core c)) ∧
    (∀ on : Bool,
      let e1 := { en with enable := on }
      let out := if on && !en.barrier then e1.settle else (e1, 0)
      ∃ t, exec (.enab e on) s = .next t ∧ Spec.OwnEvent s t e.toNat out.1 out.2 (s.core c)) ∧
    (Free s [rd, 0, rb] →
      let b : Nat := (xv s rb).toNat % 2 ^ 48
      let out := if eb.barrier then eb.arrive 1 b else eb.deliver 1 []
      let ph : Word := if eb.barrier && eb.phase then 1 else 0
      ∃ t, exec (.arrv e8 rd 0 rb) s = .next t ∧ Spec.OwnEvent s t e8.toNat out.1 out.2 ((s.core c).writeX rd ph))

/-- The cell is ready to end its activation: no engine operation is queued, in flight or faulted, the store buffer is empty, no withdrawal of a
unit is due (R153), and its launch runs without proof mode and is not cancelled (R199). -/
def Spec.CanEnd (s : State) : Prop :=
  let x := s.ctx s.actCell
  x.vec.queue = [] ∧ x.mat.queue = [] ∧ x.cop.queue = [] ∧ x.cop.flight = [] ∧ x.vec.fault = none ∧ x.mat.fault = none ∧
  x.cop.fault = none ∧ x.out.sb = [] ∧ (s.cell s.actCell).floor.due = [] ∧
  ∀ l, x.launch = some l → l.proof = false ∧ l.cancelled = false ∧ l.cut = false

/-- What the end of an activation leaves (R199, R216): held items released in order, nothing running, loop state, journal and record
discarded. -/
def Spec.Ended (s t : State) : Prop :=
  let c := s.actCell
  t.net = s.net ++ (s.ctx c).out.held.map (fun h => { h.pkt with since := s.now }) ∧ (t.core c).run = .idle ∧ (t.core c).act = none ∧ (t.core c).loops = [] ∧
  (t.ctx c).out.held = [] ∧ (t.ctx c).out.firings = [] ∧ (t.ctx c).out.journal = [] ∧ (t.ctx c).out.record = [] ∧ t.mem = s.mem

/-- R216, R199, R122: END; with retire the cell leaves its launch. -/
def Spec.EndOfActivation : Prop :=
  ∀ (s : State) (retire : Bool), Spec.CanEnd s →
    ∃ t, exec (.endAct retire) s = .next t ∧ Spec.Ended s t ∧
      (retire = false → (t.ctx s.actCell).launch = (s.ctx s.actCell).launch) ∧
      (retire = false → (s.ctx s.actCell).out.firings = [] → (t.ctx s.actCell).rq = (s.ctx s.actCell).rq) ∧
      (retire = false → ∀ f, (s.ctx s.actCell).out.firings = [f] →
        ((s.ctx s.actCell).rq.toList.getD (f.prio % 4) []).length < 64 →
        (t.ctx s.actCell).rq.toList.getD (f.prio % 4) [] =
          (s.ctx s.actCell).rq.toList.getD (f.prio % 4) [] ++ [{ f with since := s.now }]) ∧
      (retire = true → (s.ctx s.actCell).launch.isSome = true →
        (t.ctx s.actCell).launch = none ∧ (t.ctx s.actCell).bell = [] ∧ (t.ctx s.actCell).rq = Vector.replicate 4 [])

/-- R215: WAITB faults on an entry that is no barrier or holds a parked continuation; else it ends the activation and parks its
continuation, or fires it where the phase has completed. -/
def Spec.WaitOnBarrier : Prop :=
  ∀ (e : BitVec 8) (ra rb : XReg) (s : State), Free s [ra, rb, 1, 2, 3, 4] →
    let c := s.actCell
    let en := (s.ctx c).entry e.toNat
    let args : Vector Word 4 := #v[xv s 1, xv s 2, xv s 3, xv s 4]
    let h := (xv s rb).toNat / 4 % 2 ^ 17 * 4
    ((en.barrier = false ∨ en.parked = true) →
      exec (.waitb e ra rb) s = .next (s.scalarFault c 0x13 (BitVec.ofNat 64 (0x80000 + 64 * e.toNat)))) ∧
    (en.barrier = true → en.parked = false → Spec.CanEnd s → (s.ctx c).out.firings = [] →
      ∃ t, exec (.waitb e ra rb) s = .next t ∧ Spec.Ended s t ∧
        (en.phase = (xv s ra).getLsbD 0 →
          (t.ctx c).entry e.toNat = { en with handler := h, args := args, parked := true } ∧ (t.ctx c).rq = (s.ctx c).rq) ∧
        (en.phase ≠ (xv s ra).getLsbD 0 → ((s.ctx c).rq.toList.getD en.prio.toNat []).length < 64 →
          (t.ctx c).entry e.toNat = en ∧
          (t.ctx c).rq.toList.getD en.prio.toNat [] = (s.ctx c).rq.toList.getD en.prio.toNat [] ++
            [⟨h, en.prio.toNat, args, e.toNat, true, false, en.wide, s.now, none⟩]))

/-! ## Special registers, system instructions, scalar faults -/

/-- The fault packet of a scalar fault of the moving cell (R134): engine 0, its pc, the activation's and the launch's identity. -/
def Spec.scalarPacket (s : State) (cause : Nat) (addr : Word) : FaultPkt :=
  let x := s.ctx s.actCell
  { cell := s.actCell, cause := cause, eng := 0, nonretry := decide (∃ a, x.core.act = some a ∧ a.retriable = false),
    proof := decide (∃ l, x.launch = some l ∧ l.proof = true), second := false, idAct := x.core.idAct, idLaunch := x.idLaunch,
    pc := BitVec.ofNat 64 x.core.pc.toNat, addr := addr, index := 0 }

/-- The cell freezes at its pc with the packet that it will send, and nothing else changes (R133). -/
def Spec.frozenAt (s : State) (cause : Nat) (addr : Word) : State :=
  s.updCore s.actCell (fun k => { k with run := .frozen (Spec.scalarPacket s cause addr) false s.now })

/-- The special registers of R186 whose value a launch l gives, by index (R124). -/
def Spec.identity (l : LCtx) : List (Nat × Nat) :=
  [(0x000, l.cx), (0x001, l.cy), (0x002, l.nx), (0x003, l.ny), (0x004, l.offM), (0x005, l.offN), (0x006, l.offK), (0x007, l.extM),
   (0x008, l.extN), (0x009, l.extK), (0x00a, l.live),
   (0x00b, 2 ^ 48 * l.key.asid + 2 ^ 38 * (if l.fb then 1 else 0) + 2 ^ 32 * l.key.queue + l.key.seq)]

/-- The other special registers of R186 that do not depend on timing. -/
def Spec.specials (s : State) : List (Nat × Word) :=
  let cl := s.cell s.actCell
  let k := s.core s.actCell
  [(0x00c, k.idAct), (0x00d, BitVec.ofNat 64 s.actCell), (0x00e, s.idNode),
   (0x010, BitVec.ofNat 64 (2 ^ 19 * cl.floor.scratch.length + 2 ^ 16 * cl.floor.vector.length + 2 ^ 13 * cl.floor.accum.length +
      2 ^ 11 * cl.floor.sscratch.length + 2 ^ 10 * cl.floor.svector.length + 2 ^ 9 * cl.floor.saccum.length)),
   (0x011, BitVec.ofNat 64 (32768 * cl.floor.scratch.length)), (0x012, BitVec.ofNat 64 (8 * cl.floor.vector.length)),
   (0x018, BitVec.ofNat 64 k.xoTop), (0x019, k.trig), (0x01b, BitVec.ofNat 64 s.now),
   (0x020, (if cl.trace.en then 1 else 0) + (if cl.trace.ovf then 4 else 0)), (0x021, BitVec.ofNat 64 cl.trace.head.toNat),
   (0x022, BitVec.ofNat 64 cl.trace.sel.toNat)]

/-- R210, R186, R124: MFS writes rd with the register's value, and completes at every index. -/
def Spec.SpecialReads : Prop :=
  ∀ (rd : XReg) (s : State), Free s [rd] →
    (∀ l, (s.ctx s.actCell).launch = some l → ∀ p ∈ Spec.identity l,
      exec (.mfs rd (BitVec.ofNat 10 p.1)) s = .next (wrote s rd (BitVec.ofNat 64 p.2))) ∧
    ((s.cell s.actCell).floor.evac = none → ∀ p ∈ Spec.specials s,
      exec (.mfs rd (BitVec.ofNat 10 p.1)) s = .next (wrote s rd p.2)) ∧
    (∀ idx, ∃ v, exec (.mfs rd idx) s = .next (wrote s rd v))

/-- No operation of any engine is queued, in flight or faulted. -/
def Spec.EnginesIdle (s : State) : Prop :=
  let x := s.ctx s.actCell
  x.vec.queue = [] ∧ x.mat.queue = [] ∧ x.cop.queue = [] ∧ x.cop.flight = [] ∧ x.vec.fault = none ∧ x.mat.fault = none ∧
  x.cop.fault = none

/-- R210, R190, R113, R6: MTS to xo.top checks its value, waits for the store buffer, for stores and packets to the own scratchpad and for the engines, and moves the boundary; MTS to
tr.ctl and tr.sel writes their RW fields; MTS to any other register changes nothing. -/
def Spec.SpecialWrites : Prop :=
  ∀ (ra : XReg) (s : State), Free s [ra] →
    let c := s.actCell
    let v := xv s ra
    let ok := v.toNat < 2 ^ 19 ∧ v.toNat % 64 = 0 ∧ 64 ≤ v.toNat ∧ v.toNat ≤ (s.cell c).footprint
    (¬ ok → exec (.mts 0x018 ra) s = .next (s.scalarFault c 0x13 v)) ∧
    (ok → (s.ctx c).out.sb = [] → s.selfBound c = false → Spec.EnginesIdle s →
      exec (.mts 0x018 ra) s = .next ((s.updCore c (fun k => { k with xoTop := v.toNat })).advance c 4)) ∧
    (ok → ((s.ctx c).out.sb ≠ [] ∨ s.selfBound c = true) → exec (.mts 0x018 ra) s = .next s) ∧
    (∃ t, exec (.mts 0x020 ra) s = .next t ∧ (t.cell c).trace.en = v.getLsbD 0 ∧
      (v.getLsbD 1 = true → (t.cell c).trace.ring = [] ∧ (t.cell c).trace.head = 0 ∧ (t.cell c).trace.seqn = 0) ∧
      (v.getLsbD 1 = false → (t.cell c).trace.ring = (s.cell c).trace.ring ∧ (t.cell c).trace.head = (s.cell c).trace.head) ∧
      ((t.cell c).trace.ovf = ((s.cell c).trace.ovf && !v.getLsbD 2)) ∧ t.core c = (s.core c).advance 4 ∧ t.mem = s.mem) ∧
    (∃ t, exec (.mts 0x022 ra) s = .next t ∧ (t.cell c).trace.sel = BitVec.ofNat 8 v.toNat ∧ t.core c = (s.core c).advance 4 ∧
      t.mem = s.mem) ∧
    (∀ idx : BitVec 10, idx ≠ 0x018 → idx ≠ 0x020 → idx ≠ 0x022 → exec (.mts idx ra) s = .next (s.advance c 4))

/-- Engine e of the moving cell will go on by itself: it has not faulted, and its head operation has started or has no open wait. -/
def Spec.EngineGoes (s : State) (e : Nat) : Prop :=
  ((s.ctx s.actCell).engFault e) = none ∧ ∃ o rest, (s.ctx s.actCell).engQueue e = o :: rest ∧ (o.started = true ∨ o.waits = [])

/-- What a scalar fault of the moving cell comes to (R133): the cell freezes once what its engines run has completed, and stands still until
then. -/
def Spec.haltedAt (s : State) (cause : Nat) (addr : Word) : State :=
  if s.quiet s.actCell = true then Spec.frozenAt s cause addr else s

/-- R217, R133, R134, R178, R179, R182: NOP moves on; SYNCE moves on once the named engines are idle; TRAP, BKPT and the faults of
decode and fetch freeze the cell at its pc with their packet, once what its engines have been given before has completed: with idle engines
at once, and not while one goes on. The model's choice: an engine that has faulted, or waits for an arming that is open, is waited for no more
(DEDUCED, log entry 101). -/
def Obligations.SystemInstructions : Prop :=
  ∀ (s : State) (eng : BitVec 3) (code : BitVec 8),
    (Spec.EnginesIdle s → s.quiet s.actCell = true) ∧
    (∀ e, 1 ≤ e → e ≤ 3 → Spec.EngineGoes s e → s.quiet s.actCell = false) ∧
    (∀ cause addr, s.scalarFault s.actCell cause addr = Spec.haltedAt s cause addr) ∧
    exec .nop s = .next (s.advance s.actCell 4) ∧
    ((∀ e ∈ synceEngines eng, (s.ctx s.actCell).engBusy e = false ∧ (s.ctx s.actCell).engFault e = none) →
      exec (.synce eng) s = .next (s.advance s.actCell 4)) ∧
    exec (.trap code) s = .next (Spec.haltedAt s 0x04 (BitVec.ofNat 64 code.toNat)) ∧
    exec (.bkpt code) s = .next (Spec.haltedAt s 0x05 (BitVec.ofNat 64 code.toNat)) ∧
    exec (.illegalInstruction false) s = .next (Spec.haltedAt s 0x01 0) ∧
    exec (.illegalInstruction true) s = .next (Spec.haltedAt s 0x03 0) ∧
    exec .fetchFault s = .next (Spec.haltedAt s 0x02 0)

/-- The scalar instructions that name x registers, with the registers that they name: integer, immediate and pointer operations, branches and
jumps, the loop, memory accesses, messages and the bellboard, MFS and MTS. -/
inductive Spec.Names : Instr → List XReg → Prop where
  | int (p) (h : p ∈ intOps) (rd ra rb : XReg) : Names (p.1 rd ra rb) [rd, ra, rb]
  | int1 (p) (h : p ∈ intOps1) (rd ra : XReg) : Names (p.1 rd ra) [rd, ra]
  | imm (p) (h : p ∈ immOps) (rd ra : XReg) (i : BitVec 16) : Names (p.1 rd ra i) [rd, ra]
  | shift (p) (h : p ∈ shiftOps) (rd ra : XReg) (n : BitVec 6) : Names (p.1 rd ra n) [rd, ra]
  | lui (rd : XReg) (i : BitVec 16) : Names (.lui rd i) [rd]
  | addp (rd ra rb : XReg) : Names (.addp rd ra rb) [rd, ra, rb]
  | addpe (rd ra rb : XReg) : Names (.addpe rd ra rb) [rd, ra, rb]
  | pfmt (rd ra rb : XReg) : Names (.pfmt rd ra rb) [rd, ra, rb]
  | pget (rd ra : XReg) (sel : PgetSel) : Names (.pget rd ra sel) [rd, ra]
  | branch (p) (h : p ∈ branchOps) (ra rb : XReg) (off : BitVec 16) : Names (p.1 ra rb off) [ra, rb]
  | jal (off : BitVec 26) : Names (.jal off) [31]
  | jalr (rd ra : XReg) (off : BitVec 14) : Names (.jalr rd ra off) [rd, ra]
  | loop (ra : XReg) (body : BitVec 14) : Names (.loop ra body) [ra]
  | access (i rs b off n) (h : Spec.AccessForm i rs b off n) : Names i rs
  | send (rd ra rb : XReg) (n : BitVec 3) : Names (.send rd ra rb n) ([rd, ra] ++ payRegs rb n)
  | rap (t op ordered sc) (rd ra rb : XReg) : Names (.rap t op ordered sc rd ra rb) [rd, ra, rb]
  | bind (e prio) (ra rb : XReg) : Names (.bind e prio ra rb) [ra, rb]
  | arm (e barrier) (ra : XReg) : Names (.arm e barrier ra) [ra]
  | arrv (e) (rd ra rb : XReg) : Names (.arrv e rd ra rb) [rd, ra, rb]
  | waitb (e) (ra rb : XReg) : Names (.waitb e ra rb) [ra, rb, 1, 2, 3, 4]
  | mfs (rd : XReg) (idx : BitVec 10) : Names (.mfs rd idx) [rd]
  | mts (idx : BitVec 10) (ra : XReg) : Names (.mts idx ra) [ra]

/-- R226, R133: a scalar instruction that names a register which an engine operation will write stalls, changing nothing; where that
engine has faulted it stops there, frozen with the engine's packet at its own pc, once what the other engines run has completed, and stands
still until then. -/
def Obligations.OwedRegistersStall : Prop :=
  ∀ (i : Instr) (rs : List XReg) (e : Nat) (s : State), Spec.Names i rs → (s.ctx s.actCell).owing rs = some e →
    ((s.ctx s.actCell).engFault e = none → exec i s = .next s) ∧
    (∀ f, (s.ctx s.actCell).engFault e = some f → s.quiet s.actCell = false → exec i s = .next s) ∧
    (∀ f, (s.ctx s.actCell).engFault e = some f → s.quiet s.actCell = true → ∃ t q, exec i s = .next t ∧
      (t.core s.actCell).run = .frozen q false s.now ∧ q.pc = BitVec.ofNat 64 (s.pc s.actCell) ∧ q.cause = f.cause ∧ q.eng = f.eng ∧
      q.addr = f.addr ∧ CoreOnly s t 0)

/-! ## One step of the device -/

/-- The state in which the first entry of an agenda moves (the model's own agenda and cycle count, log entries 2 and 3). -/
def Spec.moving (s : State) (rest : List Act) : State :=
  { s with agenda := rest, tick := s.tick + 1, now := s.now + Config.stepCycles s.tick }

/-- The boot has ended well: the fourth image is verified and none is refused (R407). -/
def Spec.Booted (s : State) : Prop := s.bsDone.getLsbD 3 = true ∧ s.faultPin = false

/-- A cell that fetches: it runs, is not in migration, and the boot has let it go. -/
def Spec.Fetches (s : State) (c : Nat) : Prop := (s.core c).run = .running ∧ (s.cell c).moving = none ∧ Spec.Booted s

/-- The state in which a cell's instruction runs: the reads of its fetch have reached the bank (R89). -/
def Spec.fetched (s : State) (rest : List Act) (c : Nat) : State :=
  { (Spec.moving s rest).touchFetch c with actCell := c }

/-- The state in which a program's instruction runs; the plans that read registers of a program that writes one are discarded (R319). -/
def Spec.issuing (s : State) (rest : List Act) (p : Nat) (i : Instr) : State :=
  { Spec.moving s rest with actProg := p, imp := if writesPlanned i then
      { s.imp with plans := s.imp.plans.filter (fun q => q.1 ≠ p && !q.2.reads.contains p) } else s.imp }

/-- The word of a cell's own scratchpad at an offset. -/
def Spec.code (s : State) (c off : Nat) : BitVec 32 := BitVec.ofNat 32 (s.readNat (spBase c + off) 4)

/-- A step of a cell runs the instruction that the words at its pc decode to: one word, or two for a double word. -/
def Obligations.CellStep : Prop :=
  ∀ (c : Nat) (rest : List Act) (i : Instr) (s : State), s.agenda = .cell c :: rest → Spec.Fetches s c →
    s.pc c < (s.core c).xoTop → s.pc c ≤ 0x7fffc →
    (isDouble (Spec.code s c (s.pc c)) = false → decodeDamvon (s.ctx c).vregs (Spec.code s c (s.pc c)) 0 = .ok i →
      step s = exec i (Spec.fetched s rest c)) ∧
    (isDouble (Spec.code s c (s.pc c)) = true → s.pc c + 4 < (s.core c).xoTop →
      (∀ l ∈ (s.core c).loops, l.stop.toNat ≠ s.pc c + 4) →
      decodeDamvon (s.ctx c).vregs (Spec.code s c (s.pc c)) (Spec.code s c (s.pc c + 4)) = .ok i →
      step s = exec i (Spec.fetched s rest c))

/-- R178, R179, R182, R183: where decode or fetch fails, the step freezes the cell at its pc with the fault's packet, once what its engines run
has completed (R133). -/
def Obligations.FetchAndDecodeFaults : Prop :=
  ∀ (c : Nat) (rest : List Act) (s : State), s.agenda = .cell c :: rest → Spec.Fetches s c →
    let m := Spec.fetched s rest c
    let w0 := Spec.code s c (s.pc c)
    let w1 := if isDouble w0 then Spec.code s c (s.pc c + 4) else 0
    ((s.core c).xoTop ≤ s.pc c ∨ 0x7fffc < s.pc c → step s = .next (Spec.haltedAt m 0x02 0)) ∧
    (s.pc c < (s.core c).xoTop → s.pc c ≤ 0x7fffc →
      (isDouble w0 = true → (s.core c).xoTop ≤ s.pc c + 4 → step s = .next (Spec.haltedAt m 0x02 0)) ∧
      (isDouble w0 = true → s.pc c + 4 < (s.core c).xoTop → (∃ l ∈ (s.core c).loops, l.stop.toNat = s.pc c + 4) →
        step s = .next (Spec.haltedAt m 0x01 0)) ∧
      ((isDouble w0 = true → s.pc c + 4 < (s.core c).xoTop ∧ ∀ l ∈ (s.core c).loops, l.stop.toNat ≠ s.pc c + 4) →
        (decodeDamvon (s.ctx c).vregs w0 w1 = .illegal → step s = .next (Spec.haltedAt m 0x01 0)) ∧
        (decodeDamvon (s.ctx c).vregs w0 w1 = .pointer → step s = .next (Spec.haltedAt m 0x03 0))))

/-- A step of an agent program runs the instruction that the word at its pc decodes to (R343, R345); a bad word or pc runs what R347
and R345 say. -/
def Spec.ProgramStep : Prop :=
  ∀ (p : Nat) (rest : List Act) (g : Prog) (s : State), s.agenda = .prog p :: rest → Tab.find s.imp.progs p = some g → g.run = .ready →
    Spec.Booted s →
    let m := { Spec.moving s rest with actProg := p }
    (∀ w, g.pc.toNat % 8 = 0 → g.image[g.pc.toNat / 8]? = some w →
      (∀ i, decodeCrium w = .ok i → step s = exec i (Spec.issuing s rest p i)) ∧
      (decodeCrium w = .unassigned → step s = exec (.unassignedOpcode false) m) ∧
      (decodeCrium w = .field → step s = exec (.unassignedOpcode true) m)) ∧
    ((g.pc.toNat % 8 ≠ 0 ∨ g.image[g.pc.toNat / 8]? = none) → step s = exec .agentFetchFault m)

/-- A step of the rest of the device runs the event that the agenda names; an encoded instruction is no event; and a cell or program
that runs nothing lets only the cycle count go on (R133, R345). -/
def Spec.EventStep : Prop :=
  ∀ (rest : List Act) (s : State),
    (∀ i, s.agenda = .event i :: rest → isEvent i = true → step s = exec i (Spec.moving s rest)) ∧
    (∀ i, s.agenda = .event i :: rest → isEvent i = false → step s = .fault .notAnEvent) ∧
    (∀ c, s.agenda = .cell c :: rest → (s.core c).run ≠ .running → step s = .next (Spec.moving s rest)) ∧
    (∀ p, s.agenda = .prog p :: rest → (∀ g, Tab.find s.imp.progs p = some g → g.run ≠ .ready) →
      step s = .next (Spec.moving s rest))

/-! ## Activations -/

/-- The firing that starts next on a cell (R128): the head f of level l, with every level above it empty. -/
def Spec.StartsNext (s : State) (c l : Nat) (f : Firing) (rest : List Firing) : Prop :=
  l < 4 ∧ (s.ctx c).rq.toList.getD l [] = f :: rest ∧ ∀ k, l < k → (s.ctx c).rq.toList.getD k [] = []

/-- No entry of the cell has a deferred firing. -/
def Spec.NothingDeferred (s : State) (c : Nat) : Prop := ∀ e, ((s.ctx c).entry e).deferred = 0

/-- R185, R199, R128, R187, R139: ACTIVATION_START takes the head of the highest non-empty level: x1 to x4 hold its argument words and
every other x register zero, the pc is its handler, loop state is empty, tokens are complete, the activation is retriable, and act.trig
says how it started. The cell has the capacity of its launch and no withdrawal of a unit is due. -/
def Obligations.ActivationStart : Prop :=
  ∀ (c l : Nat) (f : Firing) (rest : List Firing) (s : State), Spec.StartsNext s c l f rest → Spec.NothingDeferred s c →
    (s.core c).run = .idle → (s.cell c).moving = none → Spec.Booted s → (s.cell c).floor.due = [] → (s.ctx c).out.sb = [] →
    Spec.Unpaired s c → (s.cell c).overCapacity = false →
    ∃ t, exec (.activationStart c) s = .next t ∧
      (∀ r, t.readX c r = if r = 1 then f.args[0] else if r = 2 then f.args[1] else if r = 3 then f.args[2]
        else if r = 4 then f.args[3] else 0) ∧
      t.pc c = f.handler % 2 ^ 52 ∧ (t.core c).loops = [] ∧ (∀ i, ((t.ctx c).token i).complete = true) ∧ (t.core c).run = .running ∧
      (t.core c).trig = BitVec.ofNat 64 (f.entry % 512 + (if f.start then 2 ^ 14 else 0) + (if f.cont then 2 ^ 15 else 0)) ∧
      (∃ a, (t.core c).act = some a ∧ a.retriable = true ∧ a.began = s.now) ∧
      (t.ctx c).rq.toList.getD l [] = rest ∧ (t.ctx c).vec = (s.ctx c).vec ∧ (t.ctx c).bell = (s.ctx c).bell ∧ t.mem = s.mem

/-- R128, R129: an activation that has waited 65,536 cycles moves to the tail of the next level and its wait restarts, one that has not
stays; an activation that ran for more cycles than its launch's watchdog raises the hang fault, one that has not goes on. -/
def Spec.PromotionAndHang : Prop :=
  (∀ (c l : Nat) (f : Firing) (rest : List Firing) (s : State), l < 3 → (s.ctx c).rq.toList.getD l [] = f :: rest →
    (f.since + 65536 ≤ s.now → ((s.ctx c).rq.toList.getD (l + 1) []).length < 64 → Spec.NothingDeferred s c →
      ∃ t, exec (.runQueuePromotion c l) s = .next t ∧ (t.ctx c).rq.toList.getD l [] = rest ∧
        (t.ctx c).rq.toList.getD (l + 1) [] = (s.ctx c).rq.toList.getD (l + 1) [] ++ [{ f with prio := l + 1, since := s.now }] ∧
        t.core c = s.core c ∧ t.mem = s.mem) ∧
    (s.now < f.since + 65536 → exec (.runQueuePromotion c l) s = .next s)) ∧
  (∀ (c : Nat) (a : Activation) (l : LCtx) (s : State), (s.core c).run = .running → (s.core c).act = some a →
    (s.ctx c).launch = some l →
    (l.watchdog < s.now - a.began → exec (.hangFault c) s = .next (s.scalarFault c 0x08 0)) ∧
    (s.now - a.began ≤ l.watchdog → exec (.hangFault c) s = .next s))

/-! ## The network -/

/-- Packet i of the network may move now, and leads to cell t of this device. -/
def Spec.Arrives (s : State) (i t : Nat) (p : Packet) : Prop :=
  s.net[i]? = some p ∧ s.mayPass (s.net.take i) p = true ∧ p.node = 0 ∧ s.target p = t

/-- An item's event on entry e of cell t: the entry goes to `out`, its firings are queued as they occur (R195, R196), and the item has
left the network. -/
def Spec.ItemDone (s u : State) (i t e : Nat) (out : Entry × Nat) : Prop :=
  u.net = s.net.eraseIdx i ∧ u.mem = s.mem ∧ u.core t = s.core t ∧
  (((s.ctx t).rq.toList.getD (out.1.prio.toNat % 4) []).length + out.2 ≤ 64 →
    (u.ctx t).entry e = out.1 ∧
    (u.ctx t).rq.toList.getD (out.1.prio.toNat % 4) [] =
      (s.ctx t).rq.toList.getD (out.1.prio.toNat % 4) [] ++ List.replicate out.2 (out.1.firing e s.now false))

/-- R193, R194, R122, R130: DELIVERY, ARRIVAL and LANDING act on the entry of the cell they reach; at a cell that holds no launch or a
cancelled one, or that has retired from the item's launch, the item is dropped. An item waits for a cell whose start message is still to come
(R127, R258). That the entry keeps whether a delivery since its last firing had device scope or wider (field `wide`) is the model's way to R101
(log entry 66). -/
def Obligations.Items : Prop :=
  ∀ (i t : Nat) (p : Packet) (e : Nat) (s : State), Spec.Arrives s i t p →
    let wide := decide (p.cls = .device ∨ p.cls = .pod ∨ p.cls = .system)
    let old := { (s.ctx t).entry e with wide := ((s.ctx t).entry e).wide || wide }
    (s.takesItems t = true → s.retiredFrom p.launch t = false → s.sleepyCell t = true →
      ((∃ d pay, p.body = .msg e d pay) → exec (.delivery i) s = .next s) ∧ ((∃ b : Int, p.body = .arrive e b) → exec (.arrival i) s = .next s) ∧
      ((∃ b : Nat, p.body = .land e b) → exec (.landing i) s = .next s)) ∧
    (s.takesItems t = true → s.retiredFrom p.launch t = false → s.sleepyCell t = false → ((s.ctx t).entry e).deferred < 2 ^ 32 - 1 →
      (∀ d pay, p.body = .msg e d pay →
        ∃ u, exec (.delivery i) s = .next u ∧ Spec.ItemDone s u i t e (old.deliver d pay)) ∧
      (∀ b : Int, p.body = .arrive e b →
        ∃ u, exec (.arrival i) s = .next u ∧
          Spec.ItemDone s u i t e (if old.barrier then old.arrive 1 b.toNat else old.deliver 1 [])) ∧
      (∀ b : Nat, p.body = .land e b →
        ∃ u, exec (.landing i) s = .next u ∧ Spec.ItemDone s u i t e (if old.barrier then old.land b else old.deliver b []))) ∧
    (s.takesItems t = false ∨ s.retiredFrom p.launch t = true →
      ∀ q ∈ [((∃ d pay, p.body = .msg e d pay : Prop), Instr.delivery i), (∃ b : Int, p.body = .arrive e b, .arrival i),
        (∃ b : Nat, p.body = .land e b, .landing i)], q.1 →
      ∃ u, exec q.2 s = .next u ∧ u.net = s.net.eraseIdx i ∧ u.ctx t = s.ctx t ∧ u.mem = s.mem)

/-- Bytes of a scratchpad that the window may write: at or above xo.top, below fp.cap (R71, R189). -/
def Spec.Open (s : State) (t off n : Nat) : Prop := (s.core t).xoTop ≤ off ∧ off + n ≤ (s.cell t).fpCap

/-- R112, R71, R189: a store that arrives through the scratchpad window, with which no engine operation of its issuer races (R108), changes
its bytes and no others; one that meets bytes which the
window may not write changes none and raises the access fault at its issuer, a running cell of its launch, once no operation of the issuer's
engines is under way; until then it waits (R133). -/
def Spec.RemoteStores : Prop :=
  ∀ (i t : Nat) (p : Packet) (pa va : Nat) (b : List Byte) (s : State), Spec.Arrives s i t p → p.body = .store pa va b → p.dst < 4096 →
    let off := pa - spBase p.dst
    (Memory.wf s.mem = true → Spec.Open s t off b.length → s.racing p.src 0 (spBase t + off) b.length = [] →
      ∃ u, exec (.remoteStoreArrival i) s = .next u ∧ u.net = s.net.eraseIdx i ∧
        u.read (spBase t + off) b.length = b ∧ Spec.OnlyBytes s u (spBase t + off) b.length) ∧
    (¬ Spec.Open s t off b.length → p.src < 3072 → (s.core p.src).run = .running → p.launch ≠ none →
      (s.ctx p.src).launch.map (·.key) = p.launch → s.opsRun p.src = true → exec (.remoteStoreArrival i) s = .next s) ∧
    (¬ Spec.Open s t off b.length → p.src < 3072 → (s.core p.src).run = .running → p.launch ≠ none →
      (s.ctx p.src).launch.map (·.key) = p.launch → s.opsRun p.src = false →
      ∃ u q, exec (.remoteStoreArrival i) s = .next u ∧ u.net = s.net.eraseIdx i ∧ u.mem = s.mem ∧
        (u.core p.src).run = .frozen q false s.now ∧ q.cause = 0x13 ∧ q.eng = 0 ∧ q.addr = BitVec.ofNat 64 va)

/-- The new value of a 32-bit integer element (R212). -/
def Spec.rapValue (signed : Bool) (op : RapOp) (old v : Nat) : Nat :=
  let less := fun (x y : Nat) => if signed then decide ((BitVec.ofNat 32 x).toInt < (BitVec.ofNat 32 y).toInt) else decide (x < y)
  match op with
  | .add => (old + v) % 2 ^ 32
  | .min => if less v old then v else old
  | .max => if less old v then v else old

/-- R212, R110, R111: an unordered integer packet, with which no engine operation of its issuer races (R108), applies its operation to the
element at its bank, an ordered one does so where its
sequence is the expected one, which then rises by one, and else waits in the holding buffer; no other byte changes. A packet that has
waited 2^20 cycles goes with a bank packet of cause 0x19. -/
def Spec.RemoteArithmetic : Prop :=
  (∀ (i t : Nat) (p : Packet) (ty : RapTy) (op : RapOp) (q : Option (BitVec 16)) (pa va : Nat) (v : List Byte) (s : State),
    Spec.Arrives s i t p → p.body = .rap ty op q pa va v → (ty = .s32 ∨ ty = .n32) → v.length = 4 → Memory.wf s.mem = true →
    let off := pa - spBase p.dst
    Spec.Open s t off 4 → s.racing p.src 0 (spBase t + off) 4 = [] →
    let want := Tab.get 0 (s.ctx t).rapExp (off / 32768)
    ((q = none ∨ (q = some want ∧ (s.ctx t).rapWait = [])) →
      ∃ u, exec (.rapApply i) s = .next u ∧ u.net = s.net.eraseIdx i ∧
        u.readNat (spBase t + off) 4 = Spec.rapValue (decide (ty = .s32)) op (s.readNat (spBase t + off) 4) (leNat v) ∧
        Spec.OnlyBytes s u (spBase t + off) 4 ∧
        (q ≠ none → Tab.get 0 (u.ctx t).rapExp (off / 32768) = want + 1)) ∧
    (∀ n, q = some n → n ≠ want → (s.ctx t).rapWait.length < 64 →
      ∃ u, exec (.rapApply i) s = .next u ∧ u.net = s.net.eraseIdx i ∧ u.mem = s.mem ∧
        (u.ctx t).rapWait = (s.ctx t).rapWait ++ [⟨p, s.now⟩])) ∧
  (∀ (c j : Nat) (w : RapWait) (ty : RapTy) (op : RapOp) (q : Option (BitVec 16)) (pa va : Nat) (v : List Byte) (s : State),
    (s.ctx c).rapWait[j]? = some w → w.pkt.body = .rap ty op q pa va v →
    (w.since + 2 ^ 20 ≤ s.now → ∃ u f, exec (.rapSequenceTimeout c j) s = .next u ∧ (u.ctx c).rapWait = (s.ctx c).rapWait.eraseIdx j ∧
      (u.cell c).bankPk = (s.cell c).bankPk ++ [f] ∧ f.cell = c ∧ f.cause = 0x19 ∧ f.eng = 4 ∧ f.idAct = 0 ∧ f.pc = 0 ∧
      f.addr = BitVec.ofNat 64 (pa - spBase w.pkt.dst) ∧ f.index = BitVec.ofNat 64 w.pkt.src ∧ u.mem = s.mem) ∧
    (s.now < w.since + 2 ^ 20 → exec (.rapSequenceTimeout c j) s = .next s))

/-- R69, R410: a request to another device completes with success where that device serves the address in time, and with failure where it
has not completed 16,777,216 cycles after its issue. -/
def Spec.StairRequests : Prop :=
  ∀ (i : Nat) (r : StairReq) (s : State), s.stair[i]? = some r → r.done = none →
    (Spec.Booted s → s.now < r.since + 16777216 → ∃ t, exec (.remoteRequest i) s = .next t ∧
      t.stair[i]? = some { r with done := some (remoteServes r.pa) } ∧ t.mem = s.mem ∧ t.cells = s.cells) ∧
    (r.since + 16777216 ≤ s.now → ∀ e ∈ [Instr.remoteRequest i, .stairRequestTimeout i], ∃ t, exec e s = .next t ∧
      t.stair[i]? = some { r with done := some false } ∧ t.mem = s.mem ∧ t.cells = s.cells) ∧
    (s.now < r.since + 16777216 → exec (.stairRequestTimeout i) s = .next s)

/-! ## Faults and the Hall cores -/

/-- The action that R138 gives a packet by default: the event that joins the agenda, if any, and whether the Attic is told. -/
def Spec.defaultAction (s : State) (c : Nat) (p : FaultPkt) : Option Instr × Bool :=
  if p.cause = 0x04 ∨ p.cause = 0x05 then (none, true)
  else if p.cause = 0x09 then
    (match s.refuge c with
      | some d => (some (.migrateAndResume c d), false)
      | none => (some (.killJob c), false))
  else if p.cause = 0x14 ∧ p.eng = 2 ∧ (s.ctx c).operandFault = true ∧ p.nonretry = false then (some (.killActivation c), false)
  else (some (.killJob c), true)

/-- The Hall core of a cell takes packets: the boot has ended, its queue has a place and it is not frozen itself. -/
def Spec.HallTakes (s : State) (c : Nat) : Prop :=
  Spec.Booted s ∧ (s.dist (distOfCell c)).queue.length < 64 ∧ s.isFrozen (hallOf (distOfCell c)) = false

/-- R134, R138: a frozen cell's packet joins its Hall core's queue, and the Hall core decides as the table says, for a cause that system
software has not reprogrammed and a cell outside proof mode. That the action's event joins the end of the agenda at once is the model's
choice (log entries 52 and 2), and so is that the Hall cores are cells 3,072 to 3,119 (log entry 74). A full queue, or a Hall core that is frozen itself, makes the cell wait; a
Hall core's own packet goes to the Attic and acts on no cell. BANK_PACKET takes the oldest packet of a cell's network interface to the
Attic and acts on no cell. -/
def Spec.FaultPackets : Prop :=
  (∀ (c since : Nat) (p : FaultPkt) (s : State), c < 3072 → (s.core c).run = .frozen p false since → p.cell = c → p.proof = false →
    let d := distOfCell c
    (Spec.HallTakes s c → (p.eng = 3 → ∀ f fs, (s.ctx c).cop.flight = f :: fs → f.stopped = true) →
      Tab.find (s.dist d).policy p.cause = none →
      ∃ t, exec (.faultPacket c) s = .next t ∧ (t.core c).run = .frozen p true since ∧ (t.dist d).queue = (s.dist d).queue ++ [p] ∧
        t.agenda = s.agenda ++ ((Spec.defaultAction s c p).1.map Act.event).toList ∧
        t.notices = s.notices ++ (if (Spec.defaultAction s c p).2 then [.fault p] else []) ∧ t.mem = s.mem) ∧
    (64 ≤ (s.dist d).queue.length ∨ s.isFrozen (hallOf d) = true → exec (.faultPacket c) s = .next s)) ∧
  (∀ (h since : Nat) (p : FaultPkt) (s : State), 3072 ≤ h → h < 3120 → (s.core h).run = .frozen p false since →
    ∃ t, exec (.faultPacket h) s = .next t ∧ (t.core h).run = .frozen p true since ∧ t.notices = s.notices ++ [.fault p] ∧
      t.agenda = s.agenda ∧ t.dists = s.dists ∧ t.mem = s.mem) ∧
  (∀ (c : Nat) (p : FaultPkt) (rest : List FaultPkt) (s : State), (s.cell c).bankPk = p :: rest →
    (Spec.HallTakes s c →
      ∃ t, exec (.bankPacket c) s = .next t ∧ (t.cell c).bankPk = rest ∧ t.notices = s.notices ++ [.fault p] ∧ t.agenda = s.agenda ∧
        t.ctx c = s.ctx c) ∧
    (64 ≤ (s.dist (distOfCell c)).queue.length ∨ s.isFrozen (hallOf (distOfCell c)) = true → exec (.bankPacket c) s = .next s))

/-- R137: RESUME goes on from the pc with the queues as they stand, the cycles frozen not counted; RESUME_WITH_SKIP of a scalar fault
goes on behind the instruction at the pc, and of a vector or matrix fault without the operation that faulted, its token complete. Each
of the five actions does nothing to a cell that is not frozen. The model's choice: a skip passes over 8 or 4 bytes by the word that stands at
the pc, after a fetch fault too (DESIGN CHOICE, log entry 89). -/
def Spec.ResumeActions : Prop :=
  (∀ (c since : Nat) (p : FaultPkt) (sent : Bool) (s : State), (s.core c).run = .frozen p sent since → (s.core c).act ≠ none →
    (∃ t, exec (.resume c) s = .next t ∧
      t.core c = { s.core c with run := .running, act := (s.core c).act.map (fun a => { a with began := a.began + (s.now - since) }) } ∧
      (t.ctx c).vec.queue = (s.ctx c).vec.queue ∧ (t.ctx c).mat.queue = (s.ctx c).mat.queue ∧ (t.ctx c).cop.queue = (s.ctx c).cop.queue ∧
      (p.eng = 0 ∨ (t.ctx c).engFault p.eng = none ∨ 3 < p.eng) ∧ t.mem = s.mem) ∧
    (p.eng = 0 → ∃ t, exec (.resumeWithSkip c) s = .next t ∧ (t.core c).run = .running ∧ (∀ r, t.readX c r = s.readX c r) ∧
      (t.core c).pc = ((s.core c).advance (if isDouble (Spec.code s c (s.pc c)) then 8 else 4)).pc ∧ t.mem = s.mem) ∧
    (∀ o q, p.eng = 1 → (s.ctx c).vec.queue = o :: q → ∃ t, exec (.resumeWithSkip c) s = .next t ∧ (t.core c).run = .running ∧
      (t.ctx c).vec.queue = q ∧ (t.ctx c).vec.fault = none ∧ (t.core c).pc = (s.core c).pc ∧
      (∀ k, tokOf o.ins = some k → ((t.ctx c).token k.toNat).out = ((s.ctx c).token k.toNat).out.filter (· ≠ o.gen))) ∧
    (∀ o q, p.eng = 2 → (s.ctx c).mat.queue = o :: q → ∃ t, exec (.resumeWithSkip c) s = .next t ∧ (t.core c).run = .running ∧
      (t.ctx c).mat.queue = q ∧ (t.ctx c).mat.fault = none ∧ (t.core c).pc = (s.core c).pc ∧
      (∀ k, tokOf o.ins = some k → ((t.ctx c).token k.toNat).out = ((s.ctx c).token k.toNat).out.filter (· ≠ o.gen)))) ∧
  (∀ (c d : Nat) (s : State), s.isFrozen c = false →
    exec (.resume c) s = .next s ∧ exec (.resumeWithSkip c) s = .next s ∧ exec (.killActivation c) s = .next s ∧
    exec (.killJob c) s = .next s ∧ exec (.migrateAndResume c d) s = .next s)

/-- The journal of a cell puts back whole lines of the scratchpad, each at most once. -/
def Spec.JournalGood (j : List (Nat × List Byte × Bool)) : Prop :=
  (∀ r ∈ j, r.2.1.length = 64 ∧ r.1 < 8192) ∧ (j.map (·.1)).Nodup

/-- R418: an entry with the activation's own changes taken back: the changes of count and pend subtracted, each recorded field as it was before,
each own phase completion reversed, and pending computed from count, enable and bound. -/
def Spec.Undone (r : EntryRec) (old new : Entry) : Prop :=
  new.count = old.count - r.dCount ∧ new.pend = old.pend - r.dPend ∧ new.phase = (old.phase != r.flipped) ∧
  new.handler = r.handler.getD old.handler ∧ new.reload = r.reload.getD old.reload ∧ new.prio = r.prio.getD old.prio ∧
  new.enable = r.enable.getD old.enable ∧ new.bound = r.bound.getD old.bound ∧ new.barrier = r.barrier.getD old.barrier ∧
  new.parked = r.parked.getD old.parked ∧
  new.pending = (!new.barrier && decide (new.count ≤ 0) && !(new.enable && new.bound)) ∧ new.deferred = old.deferred ∧ new.args = old.args

/-- R141, R139, R418: KILL_ACTIVATION of a retriable activation outside proof mode drops the held items and firings, puts every journalled
line back and changes no other byte, undoes the bellboard record, gives the circular-buffer handles, xo.top and the matrix engine's ring,
epilogue and status back their values at the activation's start, discards the queued engine operations, and queues the activation again at its entry's priority with its words and its
number. No withdrawal of a unit is due (R153). -/
def Spec.KillRetriable : Prop :=
  ∀ (c since : Nat) (p : FaultPkt) (sent : Bool) (a : Activation) (l : LCtx) (s : State), (s.core c).run = .frozen p sent since →
    (s.core c).act = some a → a.retriable = true → (s.ctx c).launch = some l → l.partner = none → l.cancelled = false →
    Memory.wf s.mem = true → Spec.JournalGood (s.ctx c).out.journal → (s.cell c).floor.due = [] →
    (∀ k, ((s.ctx c).rq.toList.getD k []).length < 64) →
    ∃ t, exec (.killActivation c) s = .next t ∧ (t.core c).run = .idle ∧ (t.core c).act = none ∧ (t.ctx c).out.held = [] ∧
      (t.ctx c).out.firings = [] ∧ (t.ctx c).out.sb = [] ∧ (t.ctx c).out.journal = [] ∧ t.net = s.net ∧
      (t.ctx c).vec.queue = [] ∧ (t.ctx c).mat.queue = [] ∧ (t.ctx c).cop.queue = [] ∧ (t.ctx c).cop.flight = [] ∧
      (∀ r ∈ (s.ctx c).out.journal, t.read (spBase c + r.1 * 64) 64 = r.2.1) ∧
      (∀ x, (∀ r ∈ (s.ctx c).out.journal, x < spBase c + r.1 * 64 ∨ spBase c + r.1 * 64 + 64 ≤ x) → t.readB x = s.readB x) ∧
      (∀ st, (s.ctx c).out.start = some st → (t.core c).hnd = st.handles ∧ (t.core c).xoTop = st.xoTop ∧ (t.ctx c).mat.head = st.head ∧
        (t.ctx c).mat.tail = st.tail ∧ (t.ctx c).mat.epi = st.epi ∧ (t.ctx c).mat.sat = st.sat ∧ (t.ctx c).mat.cg = st.cg) ∧
      (((s.ctx c).out.record.map (·.1)).Nodup →
        (∀ e r, (e, r) ∈ (s.ctx c).out.record → Spec.Undone r ((s.ctx c).entry e) ((t.ctx c).entry e)) ∧
        ∀ e, (∀ r, (e, r) ∉ (s.ctx c).out.record) → (t.ctx c).entry e = (s.ctx c).entry e) ∧
      let lvl := ((t.ctx c).entry a.firing.entry).prio.toNat
      (t.ctx c).rq.toList.getD lvl [] = (s.ctx c).rq.toList.getD lvl [] ++ [{ a.firing with prio := lvl, idAct := some a.idAct, since := s.now }]

/-- R142: KILL_ACTIVATION of a non-retriable activation abandons it: its engine operations go, its tokens are complete, what it has
sent, written or buffered stays, its trigger is not queued again, and the Attic gets its id.act. No withdrawal of a unit is due (R153). -/
def Spec.KillAbandons : Prop :=
  ∀ (c since : Nat) (p : FaultPkt) (sent : Bool) (a : Activation) (l : LCtx) (s : State), (s.core c).run = .frozen p sent since →
    (s.core c).act = some a → a.retriable = false → (s.ctx c).launch = some l → l.partner = none → l.cancelled = false →
    (s.cell c).floor.due = [] →
    ∃ t, exec (.killActivation c) s = .next t ∧ (t.ctx c).out.sb = (s.ctx c).out.sb ∧ (t.core c).run = .idle ∧ (t.core c).act = none ∧
      (t.ctx c).vec.queue = [] ∧ (t.ctx c).mat.queue = [] ∧ (t.ctx c).cop.queue = [] ∧ (t.ctx c).cop.flight = [] ∧
      (∀ i, ((t.ctx c).token i).complete = true) ∧ t.mem = s.mem ∧ t.net = s.net ∧ (t.ctx c).bell = (s.ctx c).bell ∧
      (t.ctx c).rq = (s.ctx c).rq ∧ (t.ctx c).launch = some l ∧ t.notices = s.notices ++ [.abandoned (s.core c).idAct]

/-- A launch is neither pending nor on its way any more. -/
def Spec.Over (l : Launch) : Prop := l.status ≠ .pending ∨ l.stage = .ended

/-- A launch that R130 cancels with another: a later member of its graph that it names as a successor. -/
def Spec.Follows (l m : Launch) : Prop := m.lq = l.lq ∧ m.graph = l.graph ∧ m.desc.gidx ∈ l.succs

/-- R130, R150: CANCEL_LAUNCH, CANCEL_GRAPH and CANCEL_JOB end the pending launches they name, and leave the status of every other launch
that does not follow one of these in its graph; a job cancel also stops the reading of the job's queues. KILL_JOB and PROCESS_KILL cancel
every launch of the job and release every frozen cell of it, held items dropped; PROCESS_KILL unmaps the job's queues, whose registers go
back to reset (the model's choice, log entry 46). Each completes in every state in which launches have keys of their own; KILL_JOB
needs a frozen cell, CANCEL_GRAPH a launch that has not ended. -/
def Obligations.Cancels : Prop :=
  ∀ (asid q seq : Nat) (s : State), (s.launches.map (·.key)).Nodup →
    (∃ t, exec (.cancelLaunch asid q seq) s = .next t ∧ (∀ l ∈ t.launches, l.lq = 64 * asid + q → l.key.seq = seq → Spec.Over l) ∧
      ∀ k m, s.launchOf k = some m → ¬ (m.lq = 64 * asid + q ∧ m.key.seq = seq) →
        (∀ l ∈ s.launches, l.lq = 64 * asid + q → l.key.seq = seq → ¬ Spec.Follows l m) →
        (t.launchOf k).map (·.status) = some m.status) ∧
    (∀ l, s.launchAt (64 * asid + q) seq = some l → l.stage ≠ .ended →
      ∃ t, exec (.cancelGraph asid q seq) s = .next t ∧ (∀ m ∈ t.launches, m.lq = l.lq → m.graph = l.graph → Spec.Over m) ∧
        ∀ k m, s.launchOf k = some m → ¬ (m.lq = l.lq ∧ m.graph = l.graph) → (t.launchOf k).map (·.status) = some m.status) ∧
    (∃ t, exec (.cancelJob asid) s = .next t ∧ (∀ l ∈ t.launches, l.lq / 64 = asid → Spec.Over l) ∧
      (∀ p ∈ t.queues, p.1 / 64 = asid → p.2.cfg.getLsbD 11 = false) ∧
      ∀ k l, s.launchOf k = some l → l.lq / 64 ≠ asid → (t.launchOf k).map (·.status) = some l.status) ∧
    (∀ c l, s.isFrozen c = true → (s.ctx c).launch = some l → l.key.asid = asid →
      ∃ t, exec (.killJob c) s = .next t ∧ (∀ m ∈ t.launches, m.lq / 64 = asid → Spec.Over m) ∧
        ∀ d m, s.isFrozen d = true → (s.ctx d).launch = some m → m.key.asid = asid →
          (t.ctx d).launch = none ∧ (t.core d).run = .idle ∧ (t.ctx d).out.held = []) ∧
    (∃ t, exec (.processKill asid) s = .next t ∧ (∀ p ∈ t.queues, p.1 / 64 = asid → p.2.cfg = 0 ∧ p.2.head = p.2.tail) ∧
      (∀ l ∈ t.launches, l.lq / 64 = asid → Spec.Over l) ∧
      ∀ d m, s.isFrozen d = true → (s.ctx d).launch = some m → m.key.asid = asid →
        (t.ctx d).launch = none ∧ (t.core d).run = .idle ∧ (t.ctx d).out.held = [])

/-! ## Engines: issue -/

/-- x registers that the operation forms of VMX and MRTG read (slots F1 to F4, x0 where a slot names none) and that the
register-writing forms write (R226, R250, R251, R256, R295, R310). -/
def Spec.vmxReads : VmxOp → List XReg
  | .put _ _ _ xa | .kput _ xa => [0, xa]
  | .get .. | .kget .. => []
def Spec.vmxWrites : VmxOp → List XReg
  | .get _ _ xd _ | .kget xd _ => [xd]
  | .put .. | .kput .. => []
def Spec.kopWrites : KopOp → List XReg
  | .pop xd _ => [xd]
  | .and .. | .or .. | .xor .. | .andn .. | .not .. | .first .. | .set .. => []
def Spec.vptagWrites : VptagOp → List XReg
  | .get xd _ => [xd]
  | .set .. | .clr .. | .or .. => []
def Spec.mrtgReads : MrtgOp → List XReg
  | .put _ xa | .or _ xa => [0, xa]
  | .get .. => []
def Spec.mrtgWrites : MrtgOp → List XReg
  | .get xd _ => [xd]
  | .put .. | .or .. => []

/-- The engine instructions with their keys, engine (1 vector, 2 matrix, 3 copy), the x registers read at issue in the slot order of
R266, and the x registers their operations write. -/
inductive Spec.EngForm : Instr → EngKeys → Nat → List XReg → List XReg → Prop where
  | vld (k : EngKeys) (t : LaneTy) (vd : VReg) (xa : XReg) (m : Option KReg) : Spec.EngForm (.vld k t vd xa m) k 1 [0, xa] []
  | vst (k : EngKeys) (t : LaneTy) (vs : VReg) (xa : XReg) (m : Option KReg) : Spec.EngForm (.vst k t vs xa m) k 1 [0, xa] []
  | vlds (k : EngKeys) (t : LaneTy) (vd : VReg) (xa xs : XReg) (m : Option KReg) : Spec.EngForm (.vlds k t vd xa xs m) k 1 [0, xa, xs] []
  | vsts (k : EngKeys) (t : LaneTy) (vs : VReg) (xa xs : XReg) (m : Option KReg) : Spec.EngForm (.vsts k t vs xa xs m) k 1 [0, xa, xs] []
  | vgth (k : EngKeys) (t : GathTy) (vd : VReg) (xa : XReg) (vb : VReg) (kn : KReg) (strict : Bool) (m : Option KReg) :
      Spec.EngForm (.vgth k t vd xa vb kn strict m) k 1 [0, xa] []
  | vsct (k : EngKeys) (t : GathTy) (vs : VReg) (xa : XReg) (vb : VReg) (m : Option KReg) : Spec.EngForm (.vsct k t vs xa vb m) k 1 [0, xa] []
  | vadd (k : EngKeys) (t : LaneTy) (vd va vb : VReg) (m : Option KReg) (r : Rnd) : Spec.EngForm (.vadd k t vd va vb m r) k 1 [] []
  | vsub (k : EngKeys) (t : LaneTy) (vd va vb : VReg) (m : Option KReg) (r : Rnd) : Spec.EngForm (.vsub k t vd va vb m r) k 1 [] []
  | vmul (k : EngKeys) (t : LaneTy) (vd va vb : VReg) (m : Option KReg) (r : Rnd) : Spec.EngForm (.vmul k t vd va vb m r) k 1 [] []
  | vmin (k : EngKeys) (t : LaneTy) (vd va vb : VReg) (m : Option KReg) : Spec.EngForm (.vmin k t vd va vb m) k 1 [] []
  | vmax (k : EngKeys) (t : LaneTy) (vd va vb : VReg) (m : Option KReg) : Spec.EngForm (.vmax k t vd va vb m) k 1 [] []
  | vabs (k : EngKeys) (t : SgnTy) (vd va : VReg) (m : Option KReg) : Spec.EngForm (.vabs k t vd va m) k 1 [] []
  | vneg (k : EngKeys) (t : SgnTy) (vd va : VReg) (m : Option KReg) : Spec.EngForm (.vneg k t vd va m) k 1 [] []
  | vfma (k : EngKeys) (t : FloatTy) (vd va vb vc : VReg) (m : Option KReg) (r : Rnd) : Spec.EngForm (.vfma k t vd va vb vc m r) k 1 [] []
  | vcmp (k : EngKeys) (t : LaneTy) (kd : KReg) (va vb : VReg) (c : CmpCond) (m : Option KReg) : Spec.EngForm (.vcmp k t kd va vb c m) k 1 [] []
  | vsel (k : EngKeys) (t : LaneTy) (vd va vb : VReg) (sel : KReg) : Spec.EngForm (.vsel k t vd va vb sel) k 1 [] []
  | vcvt (k : EngKeys) (td ts : LaneTy) (vd va : VReg) (part : BitVec 4) (m : Option KReg) (r : Rnd) :
      Spec.EngForm (.vcvt k td ts vd va part m r) k 1 [] []
  | vexp2 (k : EngKeys) (t : FloatTy) (vd va : VReg) (m : Option KReg) (r : Rnd) : Spec.EngForm (.vexp2 k t vd va m r) k 1 [] []
  | vlog2 (k : EngKeys) (t : FloatTy) (vd va : VReg) (m : Option KReg) (r : Rnd) : Spec.EngForm (.vlog2 k t vd va m r) k 1 [] []
  | vrcp (k : EngKeys) (t : FloatTy) (vd va : VReg) (m : Option KReg) (r : Rnd) : Spec.EngForm (.vrcp k t vd va m r) k 1 [] []
  | vsqrt (k : EngKeys) (t : FloatTy) (vd va : VReg) (m : Option KReg) (r : Rnd) : Spec.EngForm (.vsqrt k t vd va m r) k 1 [] []
  | vrcpa (k : EngKeys) (t : FloatTy) (vd va : VReg) (m : Option KReg) : Spec.EngForm (.vrcpa k t vd va m) k 1 [] []
  | vrsqa (k : EngKeys) (t : FloatTy) (vd va : VReg) (m : Option KReg) : Spec.EngForm (.vrsqa k t vd va m) k 1 [] []
  | vredx (k : EngKeys) (t : RedTy) (vd va : VReg) (acc : Bool) (m : Option KReg) : Spec.EngForm (.vredx k t vd va acc m) k 1 [] []
  | vredm (k : EngKeys) (t : RedTy) (vd va : VReg) (isMin : Bool) (m : Option KReg) : Spec.EngForm (.vredm k t vd va isMin m) k 1 [] []
  | vredf (k : EngKeys) (vd va : VReg) (m : Option KReg) (r : Rnd) : Spec.EngForm (.vredf k vd va m r) k 1 [] []
  | vxadd (k : EngKeys) (vd va : VReg) : Spec.EngForm (.vxadd k vd va) k 1 [] []
  | vxrnd (k : EngKeys) (t : DrainTy) (vd va : VReg) (lane : BitVec 8) (r : Rnd) : Spec.EngForm (.vxrnd k t vd va lane r) k 1 [] []
  | vxscan (k : EngKeys) (t : FloatTy) (xd : XReg) (va vb vc : VReg) (m : Option KReg) : Spec.EngForm (.vxscan k t xd va vb vc m) k 1 [] [xd]
  | vrng (k : EngKeys) (vd : VReg) (xs xq xi : XReg) (m : Option KReg) : Spec.EngForm (.vrng k vd xs xq xi m) k 1 [0, xs, xq, xi] []
  | vshf (k : EngKeys) (t : LaneTy) (vd va vb : VReg) (m : Option KReg) : Spec.EngForm (.vshf k t vd va vb m) k 1 [] []
  | vbc (k : EngKeys) (t : LaneTy) (vd : VReg) (xa : XReg) (m : Option KReg) : Spec.EngForm (.vbc k t vd xa m) k 1 [0, xa] []
  | viota (k : EngKeys) (t : IntTy) (vd : VReg) (xa : XReg) (m : Option KReg) : Spec.EngForm (.viota k t vd xa m) k 1 [0, xa] []
  | vmx (k : EngKeys) (op : VmxOp) : Spec.EngForm (.vmx k op) k 1 (Spec.vmxReads op) (Spec.vmxWrites op)
  | kop (k : EngKeys) (op : KopOp) : Spec.EngForm (.kop k op) k 1 [] (Spec.kopWrites op)
  | qhist (k : EngKeys) (t : FloatTy) (xh : XReg) (va : VReg) (m : Option KReg) : Spec.EngForm (.qhist k t xh va m) k 1 [xh] []
  | qscale (k : EngKeys) (xd xh xp : XReg) : Spec.EngForm (.qscale k xd xh xp) k 1 [0, xh, xp] [xd]
  | qpack (k : EngKeys) (p : PbTy) (t : FloatTy) (xa : XReg) (va : VReg) (xc : XReg) : Spec.EngForm (.qpack k p t xa va xc) k 1 [xa, 0, xc] []
  | qunpk (k : EngKeys) (t : FloatTy) (p : PbTy) (vd : VReg) (xa : XReg) : Spec.EngForm (.qunpk k t p vd xa) k 1 [0, xa] []
  | vptag (k : EngKeys) (op : VptagOp) : Spec.EngForm (.vptag k op) k 1 [] (Spec.vptagWrites op)
  | mlda (k : EngKeys) (t : MatTy) (l : LReg) (xa xs : XReg) : Spec.EngForm (.mlda k t l xa xs) k 2 [0, xa, xs] []
  | mldb (k : EngKeys) (t : MatTy) (l : LReg) (xa xs : XReg) : Spec.EngForm (.mldb k t l xa xs) k 2 [0, xa, xs] []
  | mgth (k : EngKeys) (t : MatTy) (l : LReg) (xa : XReg) (vb : VReg) (xs : XReg) : Spec.EngForm (.mgth k t l xa vb xs) k 2 [0, xa, 0, xs] []
  | mmac (k : EngKeys) (acc : AccSel) (la lb : LReg) : Spec.EngForm (.mmac k acc la lb) k 2 [] []
  | mzero (k : EngKeys) (acc : AccSel) : Spec.EngForm (.mzero k acc) k 2 [] []
  | madv (k : EngKeys) (zero : Bool) : Spec.EngForm (.madv k zero) k 2 [] []
  | mspl (k : EngKeys) (acc : AccSel) (xa : XReg) : Spec.EngForm (.mspl k acc xa) k 2 [0, xa] []
  | mfil (k : EngKeys) (acc : AccSel) (xa : XReg) : Spec.EngForm (.mfil k acc xa) k 2 [0, xa] []
  | mdrn (k : EngKeys) (t : DrainTy) (acc : AccSel) (xa xs xr : XReg) (adv : Bool) (r : Rnd) :
      Spec.EngForm (.mdrn k t acc xa xs xr adv r) k 2 [0, xa, xs, xr] []
  | mepi (k : EngKeys) (xa : XReg) : Spec.EngForm (.mepi k xa) k 2 [xa] []
  | mrtg (k : EngKeys) (op : MrtgOp) : Spec.EngForm (.mrtg k op) k 2 (Spec.mrtgReads op) (Spec.mrtgWrites op)
  | mstat (k : EngKeys) (xd : XReg) (stray : Bool) (clr : Bool) : Spec.EngForm (.mstat k xd stray clr) k 2 [] [xd]
  | cpy (k : EngKeys) (xd xs xn xc : XReg) : Spec.EngForm (.cpy k xd xs xn xc) k 3 [xd, xs, xn, xc, xn + 1] []
  | cpyg (k : EngKeys) (xd xb xi xc : XReg) (strict : Bool) :
      Spec.EngForm (.cpyg k xd xb xi xc strict) k 3 [xd, xb, xi, xc, xi + 1, xi + 2] [xi + 2, xi + 3]
  | cpyr (k : EngKeys) (xt xs xn xc : XReg) : Spec.EngForm (.cpyr k xt xs xn xc) k 3 [xt, xs, xn, xc] []
  | cpym (k : EngKeys) (xr xs xn xc : XReg) : Spec.EngForm (.cpym k xr xs xn xc) k 3 [xr, xs, xn, xc] []
  | cpyc (k : EngKeys) (t : RapTy) (op : RapOp) (xd xs xn xc : XReg) : Spec.EngForm (.cpyc k t op xd xs xn xc) k 3 [xd, xs, xn, xc] []
  | claim (k : EngKeys) (xd xq xb xc : XReg) (n : BitVec 6) (key : Bool) : Spec.EngForm (.claim k xd xq xb xc n key) k 3 [0, xq, xb, xc] [xd]
  | cbdef (k : EngKeys) (b : BReg) (xa xg xp : XReg) : Spec.EngForm (.cbdef k b xa xg xp) k 3 [0, xa, xg, xp] []
  | cbadv (k : EngKeys) (xd : XReg) (b : BReg) (n : BitVec 8) : Spec.EngForm (.cbadv k xd b n) k 3 [] [xd]
  | cpyx (wait : BitVec 8) (toks : BitVec 8) : Spec.EngForm (.cpyx wait toks) ⟨wait, none⟩ 3 [] []

/-- Instruction i has entered the queue of engine e of the moving cell: its x values as they were, its waits on the last arming of
each named token that is not complete, its place in program order, its own token armed, and the pc behind its double word. -/
structure Spec.Issued (s t : State) (i : Instr) (k : EngKeys) (e : Nat) (xs : List XReg) : Prop where
  queued : ∃ o : EngOp, (t.ctx s.actCell).engQueue e = (s.ctx s.actCell).engQueue e ++ [o] ∧ o.ins = i ∧ o.xs = xs.map (xv s) ∧
    o.started = false ∧ o.writes = [] ∧ o.ord = s.nextOrd s.actCell ∧
    (∀ r, k.tok = some r → o.gen = ((s.ctx s.actCell).token r.toNat).gen + 1) ∧
    ∀ j g, (j, g) ∈ o.waits ↔ j < 8 ∧ k.wait.getLsbD j = true ∧ ((s.ctx s.actCell).token j).complete = false ∧
      g = ((s.ctx s.actCell).token j).gen
  apart : ∀ e', 1 ≤ e' → e' ≤ 3 → e' ≠ e → (t.ctx s.actCell).engQueue e' = (s.ctx s.actCell).engQueue e'
  armed : ∀ r, k.tok = some r → (t.ctx s.actCell).token r.toNat =
    ⟨((s.ctx s.actCell).token r.toNat).gen + 1, ((s.ctx s.actCell).token r.toNat).out ++ [((s.ctx s.actCell).token r.toNat).gen + 1],
      false, false, e⟩
  tokens : ∀ j, k.tok.map BitVec.toNat ≠ some j → (t.ctx s.actCell).token j = (s.ctx s.actCell).token j
  core : { t.core s.actCell with tok := (s.core s.actCell).tok, act := (s.core s.actCell).act } = (s.core s.actCell).advance 8
  place : (t.core s.actCell).act = (s.core s.actCell).act.map (fun a => { a with ord := a.ord + 1 })
  same : (t.ctx s.actCell).vec.v = (s.ctx s.actCell).vec.v ∧ (t.ctx s.actCell).vec.k = (s.ctx s.actCell).vec.k ∧
    (t.ctx s.actCell).vec.tag = (s.ctx s.actCell).vec.tag ∧ (t.ctx s.actCell).mat.tiles = (s.ctx s.actCell).mat.tiles ∧
    (t.ctx s.actCell).out = (s.ctx s.actCell).out ∧ (t.ctx s.actCell).bell = (s.ctx s.actCell).bell ∧
    (t.ctx s.actCell).cop.flight = (s.ctx s.actCell).cop.flight
  others : ∀ c, c ≠ s.actCell → t.cell c = s.cell c
  rest : { t with cells := s.cells } = s

/-- R166, R224, R226, R262, R295, R264: an engine instruction enters its engine's queue where no operation owes a register that it reads,
for every form of every engine instruction; a full queue of two stalls it; where its engine has faulted the cell stops there with that engine's
packet at this pc, once what the other engines run has completed, and stands still until then (R133). -/
def Obligations.EngineIssue : Prop :=
  ∀ (i : Instr) (k : EngKeys) (e : Nat) (xs ys : List XReg) (s : State), Spec.EngForm i k e xs ys →
    let x := s.ctx s.actCell
    (x.engFault e = none → x.waitFault k.wait = none → Free s xs → (x.engQueue e).length < 2 →
      ∃ t, exec i s = .next t ∧ Spec.Issued s t i k e xs) ∧
    (x.engFault e = none → x.waitFault k.wait = none → Free s xs → 2 ≤ (x.engQueue e).length → exec i s = .next s) ∧
    (∀ f, x.engFault e = some f → s.quiet s.actCell = false → exec i s = .next s) ∧
    (∀ f, x.engFault e = some f → s.quiet s.actCell = true → ∃ t q, exec i s = .next t ∧ (t.core s.actCell).run = .frozen q false s.now ∧
      q.pc = BitVec.ofNat 64 (s.pc s.actCell) ∧ q.cause = f.cause ∧ q.eng = f.eng ∧ q.addr = f.addr ∧ q.index = f.index ∧
      CoreOnly s t 0)

/-- R282, R264: TWAIT stalls while a named token is not complete, and else writes xd with the error bits [7:0] and the cancelled bits
[15:8] of the named tokens that the copy engine armed last. -/
def Spec.TokenWait : Prop :=
  ∀ (wait : BitVec 8) (xd : XReg) (s : State), Free s [xd] →
    let x := s.ctx s.actCell
    ((∀ j, j < 8 → wait.getLsbD j = true → (x.token j).complete = true) →
      ∃ v : Word, exec (.twait wait xd) s = .next ((s.writeX s.actCell xd v).advance s.actCell 8) ∧
        (∀ j, j < 8 → v.getLsbD j = (wait.getLsbD j && decide ((x.token j).eng = 3) && (x.token j).error) ∧
          v.getLsbD (8 + j) = (wait.getLsbD j && decide ((x.token j).eng = 3) && (x.token j).cancelled)) ∧
        ∀ j, 16 ≤ j → v.getLsbD j = false) ∧
    ((∃ j, j < 8 ∧ wait.getLsbD j = true ∧ (x.token j).complete = false) → x.waitFault wait = none →
      exec (.twait wait xd) s = .next s)

/-! ## The vector engine -/

/-- Operation o heads the vector queue and may start: the engine has met no fault, its waits are met, earlier scalar stores have left
the store buffer and, like earlier arithmetic packets, performed, and the cell is neither in migration nor frozen (R166, R106, R224, R133). -/
def Spec.VecReady (s : State) (c : Nat) (o : EngOp) (rest : List EngOp) : Prop :=
  (s.ctx c).vec.queue = o :: rest ∧ (s.ctx c).vec.fault = none ∧ o.started = false ∧ (∀ w ∈ o.waits, w.2 ∉ ((s.ctx c).token w.1).out) ∧
  (s.ctx c).out.sb = [] ∧ Spec.Quiet s c ∧ (s.cell c).moving = none ∧ s.isFrozen c = false

/-- The head operation has been performed, leaving the engine's registers as e has them and x writes w for its completion; its requests
to other devices are done with, and the registers as they were are kept for a gather that does not wait (R296). -/
def Spec.vecDone (s : State) (c : Nat) (o : EngOp) (rest : List EngOp) (e : VecEng) (w : List (Nat × Word)) : State :=
  (s.stairDone c 1).updVec c (fun old => { e with queue := { o with started := true, writes := w } :: rest, was := old.v, fault := none })

/-- Register vd of e' holds f in its active lanes and what e held in the others, with the tag of R222 for sources tagged src; e' is e
everywhere else. -/
def Spec.LanesAre (e e' : VecEng) (t : LaneTy) (vd : VReg) (m : Option KReg) (src : Bool) (f : Nat → Nat) : Prop :=
  (∀ l, l < t.lanes → laneOf t.width (e'.reg vd) l =
    if m.all (fun k => (e.mask k).getLsbD l) then f l % 2 ^ t.width else laneOf t.width (e.reg vd) l) ∧
  e'.vtag vd = (src || (m.isSome && e.vtag vd)) ∧ (∀ r, r ≠ vd → e'.reg r = e.reg r ∧ e'.vtag r = e.vtag r) ∧ e'.k = e.k

/-- A vector operation comes to these lanes. -/
def Spec.LanesCome (s : State) (c : Nat) (o : EngOp) (rest : List EngOp) (t : LaneTy) (vd : VReg) (m : Option KReg) (src : Bool)
    (f : Nat → Nat) : Prop :=
  Spec.VecReady s c o rest → ∃ e', exec (.vectorOpStart c) s = .next (Spec.vecDone s c o rest e' []) ∧
    Spec.LanesAre (s.ctx c).vec e' t vd m src f

/-- The integer a lane of an integer type stands for. -/
def Spec.int (t : LaneTy) (a : Nat) : Int := if t.isSigned then (BitVec.ofNat t.width a).toInt else ((a % 2 ^ t.width : Nat) : Int)

/-- The lane operations of R234 on two registers, for integer types. -/
def Spec.intLanes (t : LaneTy) (r : Rnd) :
    List ((EngKeys → VReg → VReg → VReg → Option KReg → Instr) × (Nat → Nat → Nat)) :=
  [(fun k vd va vb m => .vadd k t vd va vb m r, fun a b => a + b),
   (fun k vd va vb m => .vsub k t vd va vb m r, fun a b => (((a : Int) - b) % 2 ^ t.width).toNat),
   (fun k vd va vb m => .vmul k t vd va vb m r, fun a b => a * b),
   (fun k vd va vb m => .vmin k t vd va vb m, fun a b => if Spec.int t b < Spec.int t a then b else a),
   (fun k vd va vb m => .vmax k t vd va vb m, fun a b => if Spec.int t a < Spec.int t b then b else a)]

/-- Those for float types: one rounding of the exact result (R44, R55). -/
def Spec.floatLanes (t : FloatTy) (r : Rnd) :
    List ((EngKeys → VReg → VReg → VReg → Option KReg → Instr) × (Nat → Nat → Nat)) :=
  [(fun k vd va vb m => .vadd k t.lane vd va vb m r, fun a b => t.ofFl r (Fl.add r (t.decode a) (t.decode b))),
   (fun k vd va vb m => .vsub k t.lane vd va vb m r, fun a b => t.ofFl r (Fl.add r (t.decode a) (Fl.negate (t.decode b)))),
   (fun k vd va vb m => .vmul k t.lane vd va vb m r, fun a b => t.ofFl r (Fl.mul (t.decode a) (t.decode b))),
   (fun k vd va vb m => .vmin k t.lane vd va vb m, fun a b =>
      if (t.decode a).isNan || (t.decode b).isNan then t.nanBits else if Fl.cmp true (t.decode b) (t.decode a) < 0 then b else a),
   (fun k vd va vb m => .vmax k t.lane vd va vb m, fun a b =>
      if (t.decode a).isNan || (t.decode b).isNan then t.nanBits else if Fl.cmp true (t.decode a) (t.decode b) < 0 then b else a)]

/-- The least and greatest integer of a signed type, and saturation to them. -/
def Spec.saturate (w : Nat) (i : Int) : Nat := ((max (-(2 ^ (w - 1))) (min (2 ^ (w - 1) - 1) i)) % 2 ^ w).toNat

/-- R234, R235, R220, R222, R227: VADD, VSUB, VMUL, VMIN, VMAX, VABS, VNEG and VFMA compute each active lane from the sources as they
were, inactive lanes keep their value, and the tag follows the sources. -/
def Spec.LaneArithmetic : Prop :=
  ∀ (s : State) (c : Nat) (o : EngOp) (rest : List EngOp) (k : EngKeys) (vd va vb vc : VReg) (m : Option KReg) (r : Rnd),
    let e := (s.ctx c).vec
    (∀ t : LaneTy, t.isFloat = false → ∀ p ∈ Spec.intLanes t r, o.ins = p.1 k vd va vb m →
      Spec.LanesCome s c o rest t vd m (e.vtag va || e.vtag vb)
        (fun l => p.2 (laneOf t.width (e.reg va) l) (laneOf t.width (e.reg vb) l))) ∧
    (∀ t : FloatTy, ∀ p ∈ Spec.floatLanes t r, o.ins = p.1 k vd va vb m →
      Spec.LanesCome s c o rest t.lane vd m (e.vtag va || e.vtag vb)
        (fun l => p.2 (laneOf t.width (e.reg va) l) (laneOf t.width (e.reg vb) l))) ∧
    (∀ t : SgnTy, (SgnTy.lane t).isFloat = false → ∀ p ∈ [(Instr.vabs k t vd va m, fun a : Int => if a < 0 then -a else a),
        (Instr.vneg k t vd va m, fun a => -a)], o.ins = p.1 →
      Spec.LanesCome s c o rest (SgnTy.lane t) vd m (e.vtag va)
        (fun l => Spec.saturate (SgnTy.lane t).width (p.2 (Spec.int (SgnTy.lane t) (laneOf (SgnTy.lane t).width (e.reg va) l))))) ∧
    (∀ t : SgnTy, (SgnTy.lane t).isFloat = true → ∀ p ∈ [(Instr.vabs k t vd va m, fun w a : Nat => a % 2 ^ (w - 1)),
        (Instr.vneg k t vd va m, fun w a => if a < 2 ^ (w - 1) then a + 2 ^ (w - 1) else a - 2 ^ (w - 1))], o.ins = p.1 →
      Spec.LanesCome s c o rest (SgnTy.lane t) vd m (e.vtag va)
        (fun l => p.2 (SgnTy.lane t).width (laneOf (SgnTy.lane t).width (e.reg va) l))) ∧
    (∀ t : FloatTy, o.ins = .vfma k t vd va vb vc m r →
      Spec.LanesCome s c o rest t.lane vd m (e.vtag va || e.vtag vb || e.vtag vc) (fun l =>
        t.ofFl r (Fl.add r (Fl.mul (t.decode (laneOf t.width (e.reg va) l)) (t.decode (laneOf t.width (e.reg vb) l)))
          (t.decode (laneOf t.width (e.reg vc) l)))))

/-- R237, R248, R249, R239: VSEL, VSHF, VBC and VIOTA lane by lane, and the special cases of VEXP2, VLOG2, VRCP and VSQRT. -/
def Spec.LaneMoves : Prop :=
  ∀ (s : State) (c : Nat) (o : EngOp) (rest : List EngOp) (k : EngKeys) (vd va vb : VReg) (xa : XReg) (m : Option KReg),
    let e := (s.ctx c).vec
    let x := (o.xs.getD 1 0).toNat
    (∀ (t : LaneTy) (sel : KReg), o.ins = .vsel k t vd va vb sel →
      Spec.LanesCome s c o rest t vd none (e.vtag va || e.vtag vb)
        (fun l => laneOf t.width (if (e.mask sel).getLsbD l then e.reg va else e.reg vb) l)) ∧
    (∀ t : LaneTy, o.ins = .vshf k t vd va vb m →
      Spec.LanesCome s c o rest t vd m (e.vtag va || e.vtag vb) (fun l =>
        let i := laneOf t.width (e.reg vb) l
        if t.lanes ≤ i then 0 else laneOf t.width (e.reg va) i)) ∧
    (∀ t : LaneTy, o.ins = .vbc k t vd xa m → Spec.LanesCome s c o rest t vd m false (fun _ => x)) ∧
    (∀ t : IntTy, o.ins = .viota k t vd xa m → Spec.LanesCome s c o rest (IntTy.lane t) vd m false (fun l => x + l)) ∧
    (∀ (t : FloatTy) (r : Rnd) (p : Instr × (Nat → Option Nat)), p ∈ [
        (Instr.vexp2 k t vd va m r, fun a => if a = t.infBits then some t.infBits else if a = t.signBit true + t.infBits then some 0
          else if a % 2 ^ (t.width - 1) = 0 then some (127 * 2 ^ (t.prec - 1)) else none),
        (Instr.vlog2 k t vd va m r, fun a => if a = t.infBits then some t.infBits
          else if a % 2 ^ (t.width - 1) = 0 then some (t.signBit true + t.infBits) else if t.signBit true ≤ a then some t.nanBits else none),
        (Instr.vrcp k t vd va m r, fun a => if a % 2 ^ (t.width - 1) = t.infBits then some (a - t.infBits)
          else if a % 2 ^ (t.width - 1) = 0 then some (a + t.infBits) else none),
        (Instr.vsqrt k t vd va m r, fun a => if a = t.infBits then some a else if a % 2 ^ (t.width - 1) = 0 then some a
          else if t.signBit true ≤ a then some t.nanBits else none)] → o.ins = p.1 → Spec.VecReady s c o rest →
      ∃ e' f, exec (.vectorOpStart c) s = .next (Spec.vecDone s c o rest e' []) ∧ Spec.LanesAre e e' t.lane vd m (e.vtag va) f ∧
        ∀ l, l < t.lane.lanes → let a := laneOf t.width (e.reg va) l
          ((t.decode a).isNan = true → f l = t.nanBits) ∧ ((t.decode a).isNan = false → ∀ v, p.2 a = some v → f l = v))

/-- R236, R220, R250, R251, R256: VCMP, KOP, VMX and VPTAG. A mask register is written whole; the forms that write an x register leave
it to the operation's completion. -/
def Obligations.MasksAndMoves : Prop :=
  ∀ (s : State) (c : Nat) (o : EngOp) (rest : List EngOp) (k : EngKeys), Spec.VecReady s c o rest →
    let e := (s.ctx c).vec
    let done := fun (e' : VecEng) (w : List (Nat × Word)) => exec (.vectorOpStart c) s = .next (Spec.vecDone s c o rest e' w)
    let x := o.xs.getD 1 0
    (∀ (t : LaneTy) (kd : KReg) (va vb : VReg) (cd : CmpCond) (m : Option KReg), t.isFloat = false →
      o.ins = .vcmp k t kd va vb cd m →
      ∃ v : Word, done { e with k := e.k.set kd.toNat v } [] ∧ ∀ l, l < 64 → v.getLsbD l = (decide (l < t.lanes) &&
        m.all (fun kj => (e.mask kj).getLsbD l) &&
        (let a := Spec.int t (laneOf t.width (e.reg va) l)
         let b := Spec.int t (laneOf t.width (e.reg vb) l)
         match cd with
         | .eq => decide (a = b) | .ne => decide (a ≠ b) | .lt => decide (a < b)
         | .le => decide (a ≤ b) | .gt => decide (b < a) | .ge => decide (b ≤ a)))) ∧
    (∀ p ∈ [(fun (kd ka kb : KReg) => KopOp.and kd ka kb, fun (a b : Word) => a &&& b), (fun kd ka kb => .or kd ka kb, fun a b => a ||| b),
        (fun kd ka kb => .xor kd ka kb, fun a b => a ^^^ b), (fun kd ka kb => .andn kd ka kb, fun a b => a &&& ~~~b),
        (fun kd ka _ => .not kd ka, fun a _ => ~~~a), (fun kd _ _ => .set kd, fun _ _ => BitVec.allOnes 64)],
      ∀ kd ka kb, o.ins = .kop k (p.1 kd ka kb) → done { e with k := e.k.set kd.toNat (p.2 (e.mask ka) (e.mask kb)) } []) ∧
    (∀ kd ka, o.ins = .kop k (.first kd ka) → ∃ v : Word, done { e with k := e.k.set kd.toNat v } [] ∧
      ∀ l, l < 64 → v.getLsbD l = ((e.mask ka).getLsbD l && (List.range l).all (fun j => !(e.mask ka).getLsbD j))) ∧
    (∀ xd ka, o.ins = .kop k (.pop xd ka) →
      done e [(xd.toNat, BitVec.ofNat 64 ((List.range 64).filter (fun l => (e.mask ka).getLsbD l)).length)]) ∧
    (∀ (t : LaneTy) (l : BitVec 6) (xd : XReg) (va : VReg), o.ins = .vmx k (.get t l xd va) →
      let a := laneOf t.width (e.reg va) l.toNat
      done e [(xd.toNat, if t.isSigned then BitVec.ofInt 64 (Spec.int t a) else BitVec.ofNat 64 a)]) ∧
    (∀ (t : LaneTy) (l : BitVec 6) (vd : VReg) (xa : XReg), l.toNat < t.lanes → o.ins = .vmx k (.put t l vd xa) →
      ∃ v, done { e with v := e.v.set vd.toNat v } [] ∧
        ∀ j, j < t.lanes → laneOf t.width v j = if j = l.toNat then x.toNat % 2 ^ t.width else laneOf t.width (e.reg vd) j) ∧
    (∀ xd ka, o.ins = .vmx k (.kget xd ka) → done e [(xd.toNat, e.mask ka)]) ∧
    (∀ kd xa, o.ins = .vmx k (.kput kd xa) → done { e with k := e.k.set kd.toNat x } []) ∧
    (∀ xd va, o.ins = .vptag k (.get xd va) → done e [(xd.toNat, if e.vtag va then 1 else 0)]) ∧
    (∀ vd va : VReg, ∀ p ∈ [(VptagOp.set vd, true), (VptagOp.clr vd, false), (VptagOp.or vd va, e.vtag vd || e.vtag va)],
      o.ins = .vptag k p.1 → ∃ e', done e' [] ∧ e'.v = e.v ∧ e'.k = e.k ∧ e'.vtag vd = p.2 ∧ ∀ r, r ≠ vd → e'.vtag r = e.vtag r)

/-- A whole contiguous access of n bytes at an address of the own scratchpad that nothing hinders, by a cell without requests to other
devices (R65, R66, R231). -/
def Spec.OwnRun (s : State) (c a n : Nat) : Prop :=
  (s.core c).xoTop ≤ a ∧ a + n ≤ (s.cell c).fpCap ∧ a + n ≤ 0x80000 ∧ (s.die (dieOfCell c)).einjArm = false ∧
  (∀ r ∈ s.stair, r.cell ≠ c) ∧ ∀ l, a / 64 ≤ l → l ≤ (a + n - 1) / 64 → s.poisoned (spBase c / 64 + l) = false

/-- R219, R230, R231: VLD without a mask brings 64 bytes of the own scratchpad into vd, byte b into bits [8b + 7 : 8b], and VST writes
them back from there, in a non-retriable activation with no other byte changed, where no write of another engine under way races (R108) and, for
VLD, no store or packet of the cell is pending there (R139); an address that is no multiple of the lane size raises
the access fault, precisely, with the operation still queued. -/
def Obligations.VectorMemory : Prop :=
  ∀ (s : State) (c : Nat) (o : EngOp) (rest : List EngOp) (k : EngKeys) (t : LaneTy) (v : VReg) (xa : XReg),
    Spec.VecReady s c o rest →
    let e := (s.ctx c).vec
    let a := (o.xs.getD 1 0).toNat % 2 ^ 52
    (o.ins = .vld k t v xa none → Spec.OwnRun s c a 64 → a % (t.width / 8) = 0 → Spec.Settled s c 1 (spBase c + a) 64 →
      ∃ e', exec (.vectorOpStart c) s = .next (Spec.vecDone s c o rest e' []) ∧
        (e'.reg v).toNat = s.readNat (spBase c + a) 64 ∧ e'.vtag v = false ∧ ∀ r, r ≠ v → e'.reg r = e.reg r) ∧
    (o.ins = .vst k t v xa none → Spec.OwnRun s c a 64 → a % (t.width / 8) = 0 → (s.ctx c).retriable = false →
      Memory.wf s.mem = true → s.racing c 1 (spBase c + a) 64 = [] →
      ∃ u, exec (.vectorOpStart c) s = .next u ∧ u.readNat (spBase c + a) 64 = (e.reg v).toNat ∧
        Spec.OnlyBytes s u (spBase c + a) 64 ∧ u.core c = s.core c) ∧
    ((o.ins = .vld k t v xa none ∨ o.ins = .vst k t v xa none) → a % (t.width / 8) ≠ 0 →
      ∃ u f, exec (.vectorOpStart c) s = .next u ∧ (u.ctx c).vec = { e with fault := some f } ∧ f.cause = 0x13 ∧ f.eng = 1 ∧
        f.addr = BitVec.ofNat 64 a ∧ u.mem = s.mem ∧ u.core c = s.core c)

/-- R225, R226, R295, R264: the completion of a started vector or matrix operation writes the x registers it owes, completes its token
and frees its place in the queue; nothing happens where no operation has started. -/
def Spec.EngineCompletion : Prop :=
  ∀ (s : State) (c : Nat) (o : EngOp) (rest : List EngOp) (i : Instr) (k : EngKeys) (e : Nat) (xs ys : List XReg),
    Spec.EngForm i k e xs ys → o.ins = i →
    let ev := if e = 1 then Instr.vectorOpComplete c else Instr.matrixOpComplete c
    (e = 1 ∨ e = 2) → (s.ctx c).engQueue e = o :: rest →
    (o.started = false → exec ev s = .next s) ∧
    (o.started = true → (∀ w ∈ o.writes, w.1 < 32) → ∃ t, exec ev s = .next t ∧ (t.ctx c).engQueue e = rest ∧
      (∀ r v, o.writes = [(r, v)] → ∀ q : XReg, t.readX c q = if q.toNat = r ∧ q ≠ 0 then v else s.readX c q) ∧
      (o.writes = [] → ∀ q : XReg, t.readX c q = s.readX c q) ∧
      (∀ r, k.tok = some r → ((t.ctx c).token r.toNat).out = ((s.ctx c).token r.toNat).out.filter (· ≠ o.gen)) ∧
      (t.core c).pc = (s.core c).pc ∧ t.mem = s.mem)

/-- R132, R257, R298, R312, R133: at determinism level 3 VRCPA, VRSQA and VREDF raise 0x18, and an operation on a tile beyond a.cap
raises 0x09. The operation stays queued, the packet waits in the engine, and the scalar core goes on. -/
def Obligations.EngineFaults : Prop :=
  ∀ (s : State) (c : Nat) (o : EngOp) (rest : List EngOp) (k : EngKeys) (t : FloatTy) (vd va : VReg) (m : Option KReg) (r : Rnd),
    (Spec.VecReady s c o rest → 3 ≤ (s.ctx c).det → (o.ins = .vrcpa k t vd va m ∨ o.ins = .vrsqa k t vd va m ∨ o.ins = .vredf k vd va m r) →
      ∃ u f, exec (.vectorOpStart c) s = .next u ∧ (u.ctx c).vec = { (s.ctx c).vec with fault := some f } ∧ f.cause = 0x18 ∧ f.eng = 1 ∧
        f.cell = c ∧ u.core c = s.core c ∧ u.mem = s.mem) ∧
    ((s.ctx c).mat.queue = o :: rest → (s.ctx c).mat.fault = none → o.started = false →
      (∀ w ∈ o.waits, w.2 ∉ ((s.ctx c).token w.1).out) → (s.ctx c).out.sb = [] → Spec.Quiet s c → (s.cell c).moving = none → s.isFrozen c = false →
      ∀ (a : AReg) (la lb : LReg) (xa : XReg), (s.cell c).acap ≤ a.toNat →
      (o.ins = .mmac k (.tile a) la lb ∨ o.ins = .mzero k (.tile a) ∨ o.ins = .mspl k (.tile a) xa ∨ o.ins = .mfil k (.tile a) xa) →
      ∃ u f, exec (.matrixOpStart c) s = .next u ∧ (u.ctx c).mat = { (s.ctx c).mat with fault := some f } ∧ f.cause = 0x09 ∧ f.eng = 2 ∧
        u.core c = s.core c ∧ u.mem = s.mem)

/-! ## The matrix engine -/

/-- Operation o heads the matrix queue and may start (R166, R106, R295). -/
def Spec.MatReady (s : State) (c : Nat) (o : EngOp) (rest : List EngOp) : Prop :=
  (s.ctx c).mat.queue = o :: rest ∧ (s.ctx c).mat.fault = none ∧ o.started = false ∧ (∀ w ∈ o.waits, w.2 ∉ ((s.ctx c).token w.1).out) ∧
  (s.ctx c).out.sb = [] ∧ Spec.Quiet s c ∧ (s.cell c).moving = none ∧ s.isFrozen c = false

/-- The head operation has been performed, leaving the engine's registers as m has them and x writes w for its completion; its requests
to other devices are done with. -/
def Spec.matDone (s : State) (c : Nat) (o : EngOp) (rest : List EngOp) (m : MatEng) (w : List (Nat × Word)) : State :=
  (s.stairDone c 2).updMat c (fun _ => { m with queue := { o with started := true, writes := w } :: rest, fault := none })

/-- The tile that an operand names: by itself, or through a ring pointer (R291). -/
def Spec.named (a : AccSel) (ptr : BitVec 2) : Nat := match a with
  | .tile i => i.toNat
  | .ring => ptr.toNat

/-- Tile i of m' is t, and every other tile is as in m. -/
def Spec.OneTile (m m' : MatEng) (i : Nat) (t : Tile) : Prop :=
  m'.tile i = t ∧ (∀ j, j ≠ i → m'.tile j = m.tile j) ∧ m'.epi = m.epi ∧ m'.lists = m.lists ∧ m'.l0 = m.l0 ∧ m'.l1 = m.l1 ∧
  m'.tail = m.tail ∧ m'.sat = m.sat ∧ m'.cg = m.cg

/-- An accumulator by its row and column. -/
def Spec.acc (t : Tile) (i j : Nat) : XA := t.at (16 * i + j)

/-- R291, R297, R305, R310, R311, R293: MZERO, MADV, MRTG and MSTAT on a tile that the cell has. MRTG.put and MRTG.or need the tile
fresh or the activation non-retriable here; the other case is R140's. -/
def Obligations.TileOperations : Prop :=
  ∀ (s : State) (c : Nat) (o : EngOp) (rest : List EngOp) (k : EngKeys), Spec.MatReady s c o rest →
    let m := (s.ctx c).mat
    let acap := (s.cell c).acap
    let done := fun (m' : MatEng) (w : List (Nat × Word)) => exec (.matrixOpStart c) s = .next (Spec.matDone s c o rest m' w)
    acap ≤ 4 →
    (∀ a, Spec.named a m.head < acap → o.ins = .mzero k a → ∃ m', done m' [] ∧ Spec.OneTile m m' (Spec.named a m.head) Tile.zero ∧
      m'.fresht.getLsbD (Spec.named a m.head) = true ∧ m'.head = m.head) ∧
    (m.head.toNat < acap → o.ins = .madv k false → done { m with head := BitVec.ofNat 2 ((m.head.toNat + 1) % acap) } []) ∧
    (m.head.toNat < acap → o.ins = .madv k true → ∃ m', done m' [] ∧ m'.head.toNat = (m.head.toNat + 1) % acap ∧
      Spec.OneTile m m' ((m.head.toNat + 1) % acap) Tile.zero ∧ m'.fresht.getLsbD ((m.head.toNat + 1) % acap) = true) ∧
    (∀ xd a, a.toNat < acap → o.ins = .mrtg k (.get xd a) → done m [(xd.toNat, BitVec.ofNat 64 (m.tile a.toNat).tags.toNat)]) ∧
    (∀ (a : AReg) (xa : XReg), a.toNat < acap → (m.fresht.getLsbD a.toNat = true ∨ (s.ctx c).retriable = false) →
      let x : BitVec 16 := BitVec.ofNat 16 (o.xs.getD 1 0).toNat
      (o.ins = .mrtg k (.put a xa) → ∃ m', done m' [] ∧ Spec.OneTile m m' a.toNat { m.tile a.toNat with tags := x } ∧
        m'.head = m.head ∧ m'.fresht = m.fresht) ∧
      (o.ins = .mrtg k (.or a xa) → ∃ m', done m' [] ∧
        Spec.OneTile m m' a.toNat { m.tile a.toNat with tags := (m.tile a.toNat).tags ||| x } ∧ m'.head = m.head ∧ m'.fresht = m.fresht)) ∧
    (∀ xd clr, o.ins = .mstat k xd false clr → ∃ v : Word,
      done (if clr then { m with sat := false, cg := false } else m) [(xd.toNat, v)] ∧ v.toNat % 4 = m.head.toNat ∧
      v.toNat / 4 % 4 = m.tail.toNat ∧ v.toNat / 16 % 16 = m.fresht.toNat ∧ v.toNat / 256 % 4 = m.freshl.toNat ∧
      v.getLsbD 10 = m.sat ∧ v.getLsbD 11 = m.cg ∧ v.getLsbD 12 = false ∧ v.toNat / 2 ^ 13 = acap)

/-- A finite value in units of 2^-266 (R50); nothing for the rest, which R52 keeps in flags. -/
def Spec.units : Fl → Int
  | .fin neg m e => gridUnits neg m e
  | .inf _ | .nan => 0

/-- Adding finite values v to accumulator a is exact: within the range, X moves by their sum and the flags stay (R50, R52). -/
def Spec.Sums (a b : XA) (v : List Fl) : Prop :=
  (∀ x ∈ v, x.isFinite = true) → b = { a with x := BitVec.ofInt 576 (a.x.toInt + (v.map Spec.units).sum) }

/-- The sum leaves the range of X (R50, R52). -/
def Spec.TooFar (a : XA) (v : List Fl) : Prop :=
  (∀ x ∈ v, x.isFinite = true) ∧
  (a.x.toInt + (v.map Spec.units).sum < -2 ^ 575 ∨ 2 ^ 575 ≤ a.x.toInt + (v.map Spec.units).sum)

/-- R304, R241, R50, R52, R53: MMAC adds to each accumulator the exact sum of the products of a row of each latch, and VREDX adds the
exact values of the active lanes to its pair; where a sum leaves the range, the carry-guard fault leaves every X as it was. -/
def Obligations.ExactSums : Prop :=
  ∀ (s : State) (c : Nat) (o : EngOp) (rest : List EngOp) (k : EngKeys),
    (∀ (a : AccSel) (la lb : LReg), Spec.MatReady s c o rest → o.ins = .mmac k a la lb →
      let m := (s.ctx c).mat
      let i := Spec.named a m.head
      let n := max (m.latch la).kg (m.latch lb).kg
      let v := fun (r q : Nat) => List.zipWith Fl.mul ((m.latch la).row r n) ((m.latch lb).row q n)
      i < (s.cell c).acap → i < 4 → (m.fresht.getLsbD i = true ∨ (s.ctx c).retriable = false) →
      ((∀ r q, r < 16 → q < 16 → ∀ x ∈ v r q, x.isFinite = true) → (∀ r q, r < 16 → q < 16 → ¬ Spec.TooFar (Spec.acc (m.tile i) r q) (v r q)) →
        ∃ m', exec (.matrixOpStart c) s = .next (Spec.matDone s c o rest m' []) ∧
          (∀ r q, r < 16 → q < 16 → Spec.Sums (Spec.acc (m.tile i) r q) (Spec.acc (m'.tile i) r q) (v r q)) ∧
          (m'.tile i).tags = (m.tile i).tags ||| (m.latch la).tags ||| (if (m.latch lb).tags = 0 then 0 else BitVec.allOnes 16) ∧
          ∀ j, j ≠ i → m'.tile j = m.tile j) ∧
      ((∃ r q, r < 16 ∧ q < 16 ∧ Spec.TooFar (Spec.acc (m.tile i) r q) (v r q)) →
        ∃ u f, exec (.matrixOpStart c) s = .next u ∧ (u.ctx c).mat.fault = some f ∧ f.cause = 0x0a ∧ f.eng = 2 ∧
          (u.ctx c).mat.queue = o :: rest ∧ (u.ctx c).mat.cg = true ∧
          ∀ r q, r < 16 → q < 16 → (Spec.acc ((u.ctx c).mat.tile i) r q).x = (Spec.acc (m.tile i) r q).x)) ∧
    (∀ (t : RedTy) (vd va : VReg) (acc : Bool) (mk : Option KReg), Spec.VecReady s c o rest → vd.toNat % 2 = 0 →
      o.ins = .vredx k t vd va acc mk →
      let e := (s.ctx c).vec
      let ty := RedTy.lane t
      let v := ((List.range ty.lanes).filter (fun l => mk.all (fun kj => (e.mask kj).getLsbD l))).map
        (fun l => laneFl ty (laneOf ty.width (e.reg va) l))
      let base := if acc then e.pair vd else XA.zero
      ((∀ x ∈ v, x.isFinite = true) → ¬ Spec.TooFar base v → ∃ e', exec (.vectorOpStart c) s = .next (Spec.vecDone s c o rest e' []) ∧
        Spec.Sums base (e'.pair vd) v ∧ e'.k = e.k ∧ ∀ r : VReg, r.toNat / 2 ≠ vd.toNat / 2 → e'.reg r = e.reg r) ∧
      (Spec.TooFar base v → ∃ u f, exec (.vectorOpStart c) s = .next u ∧ (u.ctx c).vec.fault = some f ∧ f.cause = 0x0a ∧
        (u.ctx c).vec.queue = o :: rest ∧ ((u.ctx c).vec.pair vd) = { e.pair vd with cg := true }))

/-! ## The copy engine -/

/-- Operation o heads the copy queue and may start (R166, R106, R262); fewer than 16 operations are in flight, none of them
faulted, and the core runs. -/
def Spec.CopReady (s : State) (c : Nat) (o : EngOp) (rest : List EngOp) : Prop :=
  (s.ctx c).cop.queue = o :: rest ∧ (s.ctx c).cop.fault = none ∧ o.started = false ∧ (∀ w ∈ o.waits, w.2 ∉ ((s.ctx c).token w.1).out) ∧
  (s.ctx c).out.sb = [] ∧ Spec.Quiet s c ∧ (s.cell c).moving = none ∧ s.isFrozen c = false ∧ (s.ctx c).cop.flight.length < 16 ∧
  (∀ f ∈ (s.ctx c).cop.flight, f.faulted = false) ∧ (s.core c).run = .running

/-- R279: CBDEF defines its handle, or faults and leaves it, with a peer that names no cell in the packet's address (R198). R280: CBADV moves the
index, keeps its offset for completion, and a consumer's with n > 0 returns credit: a message for pentry with decrement n and no payload to
each cell that the peer names, sent at once or held with 16 bytes (R139); a producer's, or one with n = 0, sends nothing. R281: CPYX ends the named operations in flight, their tokens complete and cancelled. R271: a shape that breaks its table faults,
and the scalar core goes on (R133). -/
def Spec.CopyStart : Prop :=
  ∀ (s : State) (c : Nat) (o : EngOp) (rest : List EngOp) (k : EngKeys), Spec.CopReady s c o rest →
    (∀ (b : BReg) (xa xg xp : XReg), o.ins = .cbdef k b xa xg xp →
      let base := (o.xs.getD 1 0).toNat % 2 ^ 19
      let g := (o.xs.getD 2 0).toNat
      let peer := o.xs.getD 3 0
      let slots := g % 256 + 1
      let unit := (g / 2 ^ 16 % 1024 + 1) * 64
      let producer := g / 2 ^ 48 % 2 = 1
      let good := base % 64 = 0 ∧ g / 2 ^ 8 % 256 = 0 ∧ g / 2 ^ 26 % 64 = 0 ∧ g / 2 ^ 41 % 128 = 0 ∧ g / 2 ^ 49 = 0 ∧
        (s.destOf c peer).isSome = true ∧ (producer → base + slots * unit ≤ 524288) ∧
        (¬ producer → (s.core c).xoTop ≤ base ∧ base + slots * unit ≤ (s.cell c).fpCap)
      (good → ∃ t, exec (.copyOpStart c) s = .next t ∧ (t.core c).hnd[b.toNat] = ⟨true, decide producer, BitVec.ofNat 9 (g / 2 ^ 32), 0,
          BitVec.ofNat 8 g, BitVec.ofNat 10 (g / 2 ^ 16), BitVec.ofNat 19 base, peer⟩ ∧ (t.ctx c).cop.queue = rest ∧ t.mem = s.mem) ∧
      (¬ good → ∃ t f, exec (.copyOpStart c) s = .next t ∧ (t.core c) = s.core c ∧ (t.ctx c).cop.fault = some f ∧ f.cause = 0x13 ∧
        f.eng = 3 ∧ t.mem = s.mem ∧
        (base % 64 = 0 → g / 2 ^ 8 % 256 = 0 → g / 2 ^ 26 % 64 = 0 → g / 2 ^ 41 % 128 = 0 → g / 2 ^ 49 = 0 →
          (producer → base + slots * unit ≤ 524288) → (¬ producer → (s.core c).xoTop ≤ base ∧ base + slots * unit ≤ (s.cell c).fpCap) →
          f.addr = peer))) ∧
    (∀ (xd : XReg) (b : BReg) (n : BitVec 8), o.ins = .cbadv k xd b n →
      let h := (s.core c).hnd[b.toNat]
      let i := (h.index.toNat + n.toNat) % (h.nslot.toNat + 1)
      (h.valid = true → ∃ t f, exec (.copyOpStart c) s = .next t ∧ (t.core c).hnd[b.toNat] = { h with index := BitVec.ofNat 8 i } ∧
        (t.ctx c).cop.flight = (s.ctx c).cop.flight ++ [f] ∧
        f.xd = BitVec.ofNat 64 (h.base.toNat + i * (64 * (h.sunit.toNat + 1))) ∧ t.mem = s.mem) ∧
      (h.valid = true → (h.producer = true ∨ n = 0) → ∃ t, exec (.copyOpStart c) s = .next t ∧ t.net = s.net ∧
        (t.ctx c).out.held = (s.ctx c).out.held) ∧
      (h.valid = true → h.producer = false → n ≠ 0 → ∀ node cells q, s.destOf c h.peer = some (node, cells) → s.recipients c node cells = [q] →
        ∃ t p, exec (.copyOpStart c) s = .next t ∧ p.src = c ∧ p.node = node ∧ p.dst = q ∧ p.body = .msg h.pentry.toNat n.toNat [] ∧
          ((s.ctx c).retriable = false → t.net = s.net ++ [p] ∧ (t.ctx c).out.held = (s.ctx c).out.held) ∧
          ((s.ctx c).retriable = true → heldSize (s.ctx c).out.held + 16 ≤ 65536 →
            t.net = s.net ∧ (t.ctx c).out.held = insHeld (s.ctx c).out.held ⟨o.ord, p⟩)) ∧
      (h.valid = false → ∃ t f, exec (.copyOpStart c) s = .next t ∧ t.core c = s.core c ∧ (t.ctx c).cop.fault = some f ∧
        f.cause = 0x13)) ∧
    (∀ wait toks : BitVec 8, o.ins = .cpyx wait toks →
      let named := fun (f : Flight) => match tokOf f.op.ins with
        | some q => toks.getLsbD q.toNat
        | none => false
      ∃ t f, exec (.copyOpStart c) s = .next t ∧ (t.ctx c).cop.queue = rest ∧
        (t.ctx c).cop.flight = (s.ctx c).cop.flight.filter (fun g => !named g) ++ [f] ∧ f.op.ins = o.ins ∧ t.mem = s.mem ∧ t.net = s.net ∧
        ∀ g ∈ (s.ctx c).cop.flight, ∀ q, tokOf g.op.ins = some q → toks.getLsbD q.toNat = true →
          g.op.gen ∉ ((t.ctx c).token q.toNat).out ∧
          (g.op.gen = ((s.ctx c).token q.toNat).gen → ((t.ctx c).token q.toNat).cancelled = true)) ∧
    (∀ xd xs xn xc : XReg, o.ins = .cpy k xd xs xn xc →
      let n := (o.xs.getD 2 0).toNat
      (n % 2 ^ 32 = 0 ∨ 2 ^ 24 < n % 2 ^ 32 ∨ n / 2 ^ 32 % 2 ^ 16 = 0 ∨ n / 2 ^ 48 ≠ 0) →
      ∃ t f, exec (.copyOpStart c) s = .next t ∧ (t.ctx c).cop.fault = some f ∧ f.cause = 0x13 ∧ f.eng = 3 ∧ t.core c = s.core c ∧
        t.mem = s.mem)

/-- R262, R264, R267, R271: the one operation in flight, a CPY of a single row of n bytes within the own scratchpad, with which no write of
another engine under way races (R108) and no store or packet of the cell is pending at its source (R139), and with a completion word of 0, moves its row, completes its token and leaves; the destination holds
what the source held, and no other byte changes. -/
def Spec.CopyComplete : Prop :=
  ∀ (s : State) (c n : Nat) (f : Flight) (k : EngKeys) (xd xs xn xc : XReg),
    (s.ctx c).cop.flight = [f] → f.op.ins = .cpy k xd xs xn xc → f.op.started = true → f.stopped = false → f.resume = 0 →
    f.dropped = false → (s.cell c).moving = none → s.isFrozen c = false → (s.ctx c).retriable = false → Memory.wf s.mem = true →
    let d := (f.op.xs.getD 0 0).toNat % 2 ^ 52
    let a := (f.op.xs.getD 1 0).toNat % 2 ^ 52
    0 < n → n ≤ 2 ^ 24 → f.op.xs.getD 2 0 = BitVec.ofNat 64 (2 ^ 32 + n) → f.op.xs.getD 3 0 = 0 →
    Spec.OwnRun s c a n → Spec.Settled s c f.op.copyEng (spBase c + a) n → s.racing c f.op.copyEng (spBase c + d) n = [] →
    (s.core c).xoTop ≤ d → d + n ≤ (s.cell c).fpCap → d + n ≤ 0x80000 →
    ∃ t, exec (.copyOpComplete c 0) s = .next t ∧ (t.ctx c).cop.flight = [] ∧ t.read (spBase c + d) n = s.read (spBase c + a) n ∧
      Spec.OnlyBytes s t (spBase c + d) n ∧ t.net = s.net ∧ (∀ q : XReg, t.readX c q = s.readX c q) ∧
      ∀ r, k.tok = some r → ((t.ctx c).token r.toNat).out = ((s.ctx c).token r.toNat).out.filter (· ≠ f.op.gen)

/-! ## Translation -/

/-- Fields of a page-table entry (R79). -/
def Spec.pteTo (e : Nat) : Nat := e / 2 ^ 8 % 2 ^ 44 * 2 ^ 8

/-- Reads of a walk to a level-4 page of 64 KiB: entries r (ASID table), a, b, d, e as the tables hold them, each table in local HBM
and aligned, no reserved bit, no leaf above (R80). -/
structure Spec.Walk4 (s : State) (die asid va r a b d e : Nat) : Prop where
  root : r = s.readNat ((s.die die).asidBase.toNat / 2 ^ 19 % 2 ^ 33 * 2 ^ 19 + asid * 8) 8
  base : (s.die die).asidBase.toNat / 2 ^ 19 % 2 ^ 33 * 2 ^ 19 < 0x8000000000
  one : a = s.readNat (Spec.pteTo r + va / 2 ^ 43 % 2 ^ 9 * 8) 8
  two : b = s.readNat (Spec.pteTo a + va / 2 ^ 33 % 2 ^ 10 * 8) 8
  three : d = s.readNat (Spec.pteTo b + va / 2 ^ 21 % 2 ^ 12 * 8) 8
  four : e = s.readNat (Spec.pteTo d + va / 2 ^ 16 % 2 ^ 5 * 8) 8
  local_ : ∀ x ∈ [r, a, b, d], Spec.pteTo x < 0x8000000000
  aligned : Spec.pteTo r % 2 ^ 12 = 0 ∧ Spec.pteTo a % 2 ^ 13 = 0 ∧ Spec.pteTo b % 2 ^ 15 = 0 ∧ Spec.pteTo d % 2 ^ 8 = 0
  valid : ∀ x ∈ [r, a, b, d], x % 2 = 1 ∧ x / 2 ^ 53 = 0
  inner : ∀ x ∈ [a, b, d], x / 2 ^ 52 % 2 = 0 ∧ x / 2 ^ 6 % 2 = 0

/-- A translation joins a cache that holds fewer than its capacity and nothing of that page. -/
def Spec.Room (cap : Nat) (l : List TEntry) (e : TEntry) : Prop :=
  l.length < cap ∧ ∀ x ∈ l, ¬ (x.asid = e.asid ∧ x.vbase = e.vbase ∧ x.size = e.size)

/-- R80, R82, R87, R86: the end of a hardware walk to a 64 KiB page. A valid entry becomes the translation of the page with its flag bits
in the die's table and at the waiting cell, pinned where a gather waits; an invalid one fails with cause 0x10, held as a fault pin
where a gather waits and for the waiting access otherwise. A die-wide invalidation that runs is another statement's; no miss waits for a
walker here (R83). -/
def Spec.PageWalks : Prop :=
  ∀ (s : State) (die c asid gran r a b d e : Nat) (gather : Bool) (w : Machine.Walk) (ws : List Machine.Walk),
    (s.die die).walks = w :: ws → w.asid = asid → w.gran = gran → w.cells = [(c, gather)] → w.discard = false → w.svc = none →
    (∀ i ∈ (s.die die).inv.toList, i.busy = false) → (∀ p ∈ s.cells, p.2.misses = []) → Spec.Walk4 s die asid (gran * 65536) r a b d e → (s.cell c).pinCount < 32 →
    let t : TEntry := ⟨asid, gran * 65536, 65536, Spec.pteTo e, BitVec.ofNat 8 e, none⟩
    (e % 2 = 1 → e / 2 ^ 53 = 0 → e / 2 ^ 6 % 2 = 0 → Spec.pteTo e % 65536 = 0 → Spec.Room 131072 (s.die die).llt t →
      Spec.Room 64 (s.cell c).utlb t → ∃ u, exec (.pageWalkComplete die 0) s = .next u ∧ (u.die die).walks = ws ∧
        (u.die die).llt = (s.die die).llt ++ [t] ∧
        (u.cell c).utlb = (s.cell c).utlb ++ [{ t with pin := if gather then some s.now else none }] ∧ u.mem = s.mem) ∧
    (e % 2 = 0 → ∃ u, exec (.pageWalkComplete die 0) s = .next u ∧ (u.die die).walks = ws ∧ (u.die die).llt = (s.die die).llt ∧
      (gather = true → (u.cell c).pins = (s.cell c).pins ++ [⟨asid, gran, 0x10, s.now⟩] ∧ (u.cell c).walked = (s.cell c).walked) ∧
      (gather = false → (u.cell c).walked = (s.cell c).walked ++ [(asid, gran, 0x10)] ∧ (u.cell c).pins = (s.cell c).pins) ∧
      u.mem = s.mem)

/-- R87, R84: a pin ends after 65,536 cycles and not before; INVALIDATION_START marks its slot busy and drops the results of the walks
it meets; INVALIDATION_DONE waits for a store or arithmetic packet of the ASID that is on its way, and with none of them left anywhere
removes every translation it names from the die and sets done. That all go at that moment is the model's choice (log entry 22), and so
is that a global entry of the slot's own ASID stays without glob (log entry 71). -/
def Spec.PinsAndInvalidations : Prop :=
  (∀ (s : State) (c : Nat) (p : FaultPin) (ps : List FaultPin), (∀ x ∈ (s.cell c).utlb, x.pin = none) → (s.cell c).pins = p :: ps →
    (p.since + 65536 ≤ s.now → exec (.pinExpiry c 0) s = .next (s.updCell c (fun cl => { cl with pins := ps }))) ∧
    (s.now < p.since + 65536 → ∃ u, exec (.pinExpiry c 0) s = .next u ∧ (u.cell c).pins = p :: ps)) ∧
  (∀ (s : State) (die slot : Nat) (v : Word), slot < 8 →
    let i := (s.die die).inv.toList.getD slot InvSlot.reset
    (v.getLsbD 0 = true → i.busy = false → ∃ u, exec (.invalidationStart die slot v) s = .next u ∧
      (u.die die).inv.toList.getD slot InvSlot.reset = { i with busy := true, glob := v.getLsbD 1, done := i.done && !v.getLsbD 3 } ∧
      (u.die die).walks.length = (s.die die).walks.length ∧
      (∀ w ∈ (u.die die).walks, w.asid = i.asid.toNat % 65536 → w.gran * 65536 = i.base.toNat / 65536 * 65536 → w.discard = true) ∧
      u.cells = s.cells ∧ u.mem = s.mem) ∧
    (i.busy = true → (∃ p ∈ s.net, p.src < 3072 ∧ dieOfCell p.src = die ∧ p.launch.map (·.asid) = some (i.asid.toNat % 65536) ∧
        (p.body.isStore = true ∨ p.body.isRap = true)) → exec (.invalidationDone die slot) s = .next s) ∧
    (i.busy = true → s.net = [] → (∀ p ∈ s.cells, p.2.ctx.out.sb = [] ∧ p.2.ctx.out.held = [] ∧ p.2.ctx.rapWait = [] ∧ p.2.misses = []) →
      ∃ u, exec (.invalidationDone die slot) s = .next u ∧
        (u.die die).inv.toList.getD slot InvSlot.reset = { i with busy := false, done := true } ∧
        (∀ e, e ∈ (u.die die).llt ↔ e ∈ (s.die die).llt ∧
          ¬ ((e.asid = i.asid.toNat % 65536 ∧ e.flags.getLsbD 7 = false ∨ i.glob = true ∧ e.flags.getLsbD 7 = true) ∧
            e.vbase < i.base.toNat / 65536 * 65536 + (if i.len = 0 then 65536 else (i.len.toNat + 65535) / 65536 * 65536) ∧
            i.base.toNat / 65536 * 65536 < e.vbase + e.size)) ∧
        u.mem = s.mem) ∧
    (i.busy = false → exec (.invalidationDone die slot) s = .next s))

/-! ## HBM ports and die caches -/

/-- R75, R76, R77, R78, R74, R113: the end of a merge window after 8 cycles is one read burst, whose four lines the die cache then holds, unless
an older request of its bank stands at the port, behind which it waits; a bank's hold ends after rm.ctl.backoff cycles, which ps.bocyc counts; a refresh clears a row's count; STATS_CLEAR zeroes the port's
counts; TRACE_CLEAR empties a ring; a slice's lines leave it, and with no write left to do it serves no line any more. -/
def Obligations.MemoryPorts : Prop :=
  ∀ (s : State) (k i : Nat),
    (∀ blk t, (s.stack k).queue[i]? = some (.read blk t false) → (∀ h ∈ (s.stack k).holds, h.1 ≠ bankOf blk) →
      (∀ q ∈ (s.stack k).queue, ∃ b t', q = .read b t' false) →
      (s.now < t + 8 → exec (.mergeWindowExpiry k i) s = .next s) ∧
      (t + 8 ≤ s.now → (∃ q ∈ (s.stack k).queue.take i, bankOf q.blk = bankOf blk) →
        exec (.mergeWindowExpiry k i) s = .next (s.updStack k (fun x => { x with queue := x.queue.set i (.read blk t true) }))) ∧
      (t + 8 ≤ s.now → (∀ q ∈ (s.stack k).queue.take i, bankOf q.blk ≠ bankOf blk) →
        (∀ l, l / 4 = blk → ((s.die (k / 4)).lines.filter (fun p => (s.die (k / 4)).setOf p.1 = (s.die (k / 4)).setOf l)).length ≤ 12) →
        ∃ u, exec (.mergeWindowExpiry k i) s = .next u ∧ (u.stack k).queue = (s.stack k).queue.eraseIdx i ∧
          (u.stack k).rd.toNat = min ((s.stack k).rd.toNat + 1) (2 ^ 64 - 1) ∧ u.mem = s.mem ∧ u.cells = s.cells ∧
          ∀ l, l / 4 = blk → (Tab.find (u.die (k / 4)).lines l).isSome = true)) ∧
    (∀ b t, (s.stack k).holds = [(b, t)] → (∀ q ∈ (s.stack k).queue, ∃ b' t', q = .read b' t' false) →
      (t + (s.stack k).backoff.toNat ≤ s.now → ∃ u, exec (.bankHoldExpiry k b) s = .next u ∧ (u.stack k).holds = [] ∧
        (u.stack k).queue = (s.stack k).queue ∧
        (u.stack k).bocyc.toNat = min ((s.stack k).bocyc.toNat + (s.stack k).backoff.toNat) (2 ^ 64 - 1) ∧ u.mem = s.mem) ∧
      (s.now < t + (s.stack k).backoff.toNat → exec (.bankHoldExpiry k b) s = .next s)) ∧
    (∀ row, ∃ u, exec (.rowRefresh k row) s = .next u ∧ Tab.find (u.stack k).acts row = none ∧ u.mem = s.mem ∧
      ∀ r, r ≠ row → Tab.find (u.stack k).acts r = Tab.find (s.stack k).acts r) ∧
    (exec (.statsClear k) s = .next (s.updStack k (fun x =>
      { x with rd := 0, wr := 0, merge := 0, alert := 0, bocyc := 0, ce := 0, ue := 0 }))) ∧
    (∀ c, ∃ u, exec (.traceClear c) s = .next u ∧ (u.cell c).trace.ring = [] ∧ (u.cell c).trace.head = 0 ∧ (u.cell c).trace.seqn = 0 ∧
      (u.cell c).trace.en = (s.cell c).trace.en ∧ u.ctx c = s.ctx c ∧ u.mem = s.mem) ∧
    (∀ die slice, slice < 48 → ∃ u, exec (.dieCacheSliceRetirement die slice) s = .next u ∧ u.mem = s.mem ∧
      (∀ l, (s.die die).sliceAt (sliceHash l) = slice → Tab.find (u.die die).lines l = none) ∧
      ((∀ p ∈ (s.die die).lines, p.2 = false) → (∀ p ∈ s.memStacks, ∀ l, .write l ∉ p.2.queue) → slice ∈ (u.die die).deadSlices ∧
        (∀ x ∈ (s.die die).deadSlices, x ∈ (u.die die).deadSlices) ∧
        ((∃ x, x < 48 ∧ x ≠ slice ∧ x ∉ (s.die die).deadSlices) → ∀ h, h < 256 → (u.die die).sliceAt h ≠ slice)))

/-! ## Retirement, the in-field test, impressions -/

/-- R151, R152, R153, R154: retiring a physical unit that serves a logical one starts its evacuation into the first spare, or into the
unit of the highest logical one where no spare is left; a unit that serves none, or a cell with an evacuation in progress, is left
alone (the model's choice, log entry 31). After the evacuation's cycles the spare serves, and the cell's registers and memory are untouched. -/
def Spec.Retirement : Prop :=
  ∀ (s : State) (c idx : Nat),
    (∀ p ∈ [((fun f : Floor => f.scratch), (fun f : Floor => f.sscratch), Instr.retireScratchpadBank c idx, UnitKind.scratch),
        ((fun f => f.vector), (fun f => f.svector), .retireVectorBank c idx, .vector),
        ((fun f => f.accum), (fun f => f.saccum), .retireAccumulatorTile c idx, .accum)],
      let f := (s.cell c).floor
      (∀ l sp rest, f.evac = none → (p.1 f)[l]? = some idx → (∀ j, j < l → (p.1 f)[j]? ≠ some idx) → p.2.1 f = sp :: rest →
        ∃ u, exec p.2.2.1 s = .next u ∧ (u.cell c).floor.evac = some ⟨p.2.2.2, l, sp, false, s.now⟩ ∧ p.2.1 (u.cell c).floor = rest ∧
          p.1 (u.cell c).floor = p.1 f ∧ u.ctx c = s.ctx c ∧ u.mem = s.mem) ∧
      (∀ l, f.evac = none → (p.1 f)[l]? = some idx → (∀ j, j < l → (p.1 f)[j]? ≠ some idx) → p.2.1 f = [] →
        ∃ u top, exec p.2.2.1 s = .next u ∧ (p.1 f)[(p.1 f).length - 1]? = some top ∧
          (u.cell c).floor.evac = some ⟨p.2.2.2, l, top, true, s.now⟩ ∧ p.1 (u.cell c).floor = p.1 f ∧ u.ctx c = s.ctx c ∧ u.mem = s.mem) ∧
      ((f.evac ≠ none ∨ idx ∉ p.1 f) → ∃ u, exec p.2.2.1 s = .next u ∧ (u.cell c).floor = f ∧ u.ctx c = s.ctx c ∧ u.mem = s.mem)) ∧
    (∀ e : Evac, (s.cell c).floor.evac = some e → e.withdraw = false → (s.core c).act ≠ none →
      let n : Nat := match e.kind with
        | .scratch => 1024
        | .vector => 16
        | .accum => 642
      (e.since + n ≤ s.now → ∃ u, exec (.evacuationComplete c) s = .next u ∧ (u.cell c).floor.evac = none ∧
        (u.cell c).floor.due = (s.cell c).floor.due ∧ u.ctx c = s.ctx c ∧ u.mem = s.mem ∧
        (e.kind = .scratch → (u.cell c).floor.scratch = (s.cell c).floor.scratch.set e.logical e.target)) ∧
      (s.now < e.since + n → ∃ u, exec (.evacuationComplete c) s = .next u ∧ u.cell c = s.cell c ∧ u.mem = s.mem))

/-- R155, R157: a failed in-field test retires its district from placement and reports the commits in doubt, numbered from 0 (the model's
choice, log entry 32); an impression trigger latches the cycle of every block, 3,133 of them (the model's choice, log entry 7), within 64
cycles of now, once, until imp.ctl.valid is cleared. -/
def Spec.TestsAndImpressions : Prop :=
  ∀ (s : State),
    (∀ d, ∃ u, exec (.inFieldTestFail d) s = .next u ∧ (u.dist d).retired = true ∧
      u.notices = s.notices ++ [.suspect d (s.dist d).passed ((s.dist d).commit - 1)] ∧ u.cells = s.cells ∧ u.mem = s.mem) ∧
    (s.impValid = true → exec .impressionTrigger s = .next s) ∧
    (s.impValid = false → ∃ u, exec .impressionTrigger s = .next u ∧ u.impValid = true ∧ u.cells = s.cells ∧ u.mem = s.mem ∧
      ∀ b, b < 3133 → ∃ w, Tab.find u.impCyc b = some w ∧ ∃ n : Nat, n < 64 ∧ w = BitVec.ofNat 64 (s.now + n))

/-! ## Migration -/

/-- A cell of the same die that is free, healthy and large enough may take the context of c (R126, R148, R149). -/
def Spec.MayTake (s : State) (c d : Nat) (l : LCtx) : Prop :=
  (s.ctx c).launch = some l ∧ c ≠ d ∧ d < 3072 ∧ c / 1536 = d / 1536 ∧ s.isFree d = true ∧ (s.cell d).moving = none ∧
  (s.cell c).moving = none ∧ l.footprint ≤ (s.cell d).fpCap ∧ l.vregs ≤ (s.cell d).fpVcap ∧
  (s.dist (distOfCell d)).retired = false ∧ (s.cell c).fwd.length < 16

/-- R148, R149, R137: LIVE_MIGRATION starts a move that reserves its destination; MIGRATE_AND_RESUME does so for a frozen cell, which
goes on; MIGRATION_HANDOVER after footprint ÷ 64 + 512 cycles, in an awake district, takes registers, queues, bellboard, trace ring and
scratchpad to the new cell and leaves a forwarding entry, the vacated cell empty. That it all happens at once, that the vacated cell's
bytes stay and that the trace ring goes along are the model's choices (log entry 53). -/
def Spec.Migration : Prop :=
  ∀ (s : State) (c d : Nat) (l : LCtx),
    (Spec.MayTake s c d l → ∃ t, exec (.liveMigration c d) s = .next t ∧ (t.cell c).moving = some (d, s.now) ∧ (t.cell d).taken = true ∧
      t.ctx c = s.ctx c ∧ t.ctx d = s.ctx d ∧ t.mem = s.mem) ∧
    (Spec.MayTake s c d l → ∀ p sent since, (s.core c).run = .frozen p sent since → (s.core c).act ≠ none →
      ∃ t, exec (.migrateAndResume c d) s = .next t ∧ (t.cell c).moving = some (d, s.now) ∧ (t.core c).run = .running ∧
        (t.core c).pc = (s.core c).pc ∧ t.mem = s.mem) ∧
    (∀ t0, (s.cell c).moving = some (d, t0) → (s.ctx c).launch = some l → c ≠ d → c < 3072 → d < 3072 →
      (s.now < t0 + (l.footprint / 64 + 512) → exec (.migrationHandover c) s = .next s) ∧
      (t0 + (l.footprint / 64 + 512) ≤ s.now → l.cancelled = false → l.partner = none → (s.core c).run = .running →
        (s.dist (distOfCell d)).gated = false → (∀ m ∈ s.launches, c ∉ m.sleepy ∧ d ∉ m.sleepy) → (s.ctx c).rapWait = [] → (s.ctx d).rapWait = [] →
        Memory.wf s.mem = true → l.footprint ≤ 524288 →
        ∃ t, exec (.migrationHandover c) s = .next t ∧ t.core d = s.core c ∧ (t.ctx d).vec = (s.ctx c).vec ∧
          (t.ctx d).mat = (s.ctx c).mat ∧ (t.ctx d).cop = (s.ctx c).cop ∧ (t.ctx d).bell = (s.ctx c).bell ∧ (t.ctx d).rq = (s.ctx c).rq ∧
          (t.ctx d).launch = (s.ctx c).launch ∧ (t.cell d).trace = (s.cell c).trace ∧ (∀ a, a < l.footprint → t.readB (spBase d + a) = s.readB (spBase c + a)) ∧
          (∀ a, (a < spBase d ∨ spBase d + l.footprint ≤ a) → t.readB a = s.readB a) ∧ t.ctx c = Ctx.reset ∧ (t.cell c).moving = none ∧
          ⟨l.key, d⟩ ∈ (t.cell c).fwd))

/-- R143: the comparison of the digests of a proof pair. Equal digests let the pair end, with the held items of one copy; until both
have ended, nothing happens. -/
def Spec.ProofPairs : Prop :=
  ∀ (s : State) (c q : Nat) (a b : BitVec 64) (l : LCtx), c ≠ q → (s.ctx c).launch = some l → l.partner = some q →
    (∃ m, (s.ctx q).launch = some m ∧ m.key = l.key ∧ m.partner = some c) →
    (s.ctx c).out.ended = some (false, a) → (s.ctx c).out.assisted = false → (s.ctx q).out.assisted = false →
    (∀ r ∈ s.svc, r.func ≠ 6) →
    ((s.ctx q).out.ended = some (false, b) → a = b → ∃ t, exec (.proofDigestCompare c) s = .next t ∧
      (t.ctx c).out.ended = some (true, a) ∧ (t.ctx q).out.ended = some (true, b) ∧
      (t.ctx c).out.held = (if l.first then (s.ctx c).out.held else []) ∧ (t.ctx q).out.held = (if l.first then [] else (s.ctx q).out.held) ∧
      t.mem = s.mem ∧ t.net = s.net) ∧
    ((s.ctx q).out.ended = none → exec (.proofDigestCompare c) s = .next s)

/-! ## The launch unit -/

/-- Places from the head of a ring of n forward to index t (R116). -/
def Spec.ahead (head n t : Nat) : Nat := (t + n - head) % n

/-- R116: LAUNCH_SUBMIT names the end of the submitted run, and takes nothing back; LQ_ENTS_WRITE acts on a disabled empty queue only;
QUEUE_ERROR_CLEAR lets reading go on; a queue that is disabled, halted or empty reads nothing. -/
def Spec.QueueRegisters : Prop :=
  ∀ (s : State) (asid q : Nat) (v : Word),
    let i := 64 * asid + q
    let l := s.lq i
    (Spec.ahead l.head l.ents l.tail ≤ Spec.ahead l.head l.ents (v.toNat % l.ents) →
      exec (.launchSubmit asid q v) s = .next (s.updLq i (fun l => { l with tail := v.toNat % l.ents }))) ∧
    (Spec.ahead l.head l.ents (v.toNat % l.ents) < Spec.ahead l.head l.ents l.tail →
      ∃ t, exec (.launchSubmit asid q v) s = .next t ∧ t.lq i = l ∧ t.launches = s.launches) ∧
    (l.cfg.getLsbD 11 = false → l.head = l.tail → ∃ t, exec (.lqEntsWrite asid q v) s = .next t ∧ (t.lq i).head = 0 ∧ (t.lq i).tail = 0 ∧
      ((∃ k, 4 ≤ k ∧ k ≤ 16 ∧ v.toNat = 2 ^ k) → (t.lq i).ents = v.toNat) ∧
      ((∀ k, 4 ≤ k → k ≤ 16 → v.toNat ≠ 2 ^ k) → (t.lq i).ents = 16)) ∧
    ((l.cfg.getLsbD 11 = true ∨ l.head ≠ l.tail) → ∃ t, exec (.lqEntsWrite asid q v) s = .next t ∧ t.lq i = l) ∧
    (∃ t, exec (.queueErrorClear asid q) s = .next t ∧ t.lq i = { l with err := false } ∧ t.launches = s.launches) ∧
    ((l.cfg.getLsbD 11 = false ∨ l.err = true ∨ l.head = l.tail) → exec (.descriptorRead asid q) s = .next s)

/-- R116, R119, R118, R124: DESCRIPTOR_READ of an enabled queue. While its request to another device has no answer the unit waits (R410). The
model's choices: the tables are those of die 1 where lq.cfg.die is 2, else of die 0 (DESIGN CHOICE, log entry 88); a read is whole in one step
(DESIGN CHOICE, log entry 73). A grid 0 wide is cause 0x01 before any other (the model's order of checks,
log entry 29). A descriptor that cannot be read, or whose grid is 0 wide, rejects its
launch, halts the queue and records place and cause; one that is read whole, of a graph with no member over before its time, becomes a
launch of its own sequence number with the effective settings. Either moves the head on. -/
def Spec.DescriptorReads : Prop :=
  ∀ (s : State) (asid q : Nat),
    let i := 64 * asid + q
    let l := s.lq i
    let die := if l.cfg.toNat / 2 ^ 12 % 4 = 2 then 1 else 0
    let rd := s.sysRead die (l.cfg.toNat / 2 ^ 16 % 2 ^ 16) (l.base.toNat + 128 * l.head) 128
    l.cfg.getLsbD 11 = true → l.err = false → l.head ≠ l.tail →
    ((∃ e, rd.1 = .error e) → (∃ r ∈ rd.2.sysReqs, r ∉ s.sysReqs ∧ r.asked = s.tick) →
      exec (.descriptorRead asid q) s = .next { s with sysReqs := rd.2.sysReqs }) ∧
    ((∃ e, rd.1 = .error e) → (∀ r ∈ rd.2.sysReqs, r ∈ s.sysReqs) →
      ∃ t, exec (.descriptorRead asid q) s = .next t ∧ (t.lq i).err = true ∧ (t.lq i).cause = 0x04 ∧
      (t.lq i).errdesc = l.head ∧ (t.lq i).head = (l.head + 1) % l.ents ∧ (t.lq i).count = l.count + 1) ∧
    (∀ b, rd.1 = .ok b → b.getD 24 0 = 0 → ∃ t, exec (.descriptorRead asid q) s = .next t ∧ (t.lq i).err = true ∧
      (t.lq i).cause = 0x01 ∧ (t.lq i).errdesc = l.head ∧ (t.lq i).head = (l.head + 1) % l.ents) ∧
    (∀ fb binds succs code d s1, s.readDesc l die = (.ok (fb, binds, succs, code), some d, s1) → d.glast = 0 →
      l.gcut = false → (∀ m ∈ s.launches, m.lq = i → m.graph = l.gstart → m.status ≠ .rejected ∧ m.status ≠ .cancelled) →
      (∀ m ∈ s.launches, m.lq = i → m.key.seq ≠ l.count % 2 ^ 32) →
      ∃ t la, exec (.descriptorRead asid q) s = .next t ∧ t.launches = s.launches ++ [la] ∧
        la.key = ⟨l.cfg.toNat / 2 ^ 16 % 2 ^ 16, i % 64, l.count % 2 ^ 32⟩ ∧ la.status = .pending ∧ la.stage = .collected ∧
        la.prio = min d.prio (if i = 0 then 7 else l.cfg.toNat % 8) ∧ la.det = max d.det (l.cfg.toNat / 2 ^ 8 % 4) ∧
        la.proof = (decide (d.proof = 1) || l.cfg.getLsbD 10) ∧ la.dep = d.dep ∧ (t.lq i).head = (l.head + 1) % l.ents ∧
        (t.lq i).count = l.count + 1 ∧ (t.lq i).err = false)

/-- R126, R123, R189, R185: after the boot LAUNCH_PLACEMENT of a released launch without proof mode gives each cell of the chosen placement
its launch, its number and the execute-only boundary; a launch that is not released, or that waits for another queue's turn (in the order
that the model chose, log entry 77), waits, as every launch does before the boot's end (log entry 8). R121, R120: LAUNCH_COMPLETE of a
launch whose cells have all retired and whose packets have performed ends it with status done and takes one dependence from its
successor; one with a cell left, or a packet on its way (log entry 64), waits. -/
def Spec.LaunchesRun : Prop :=
  ∀ (s : State) (asid q seq : Nat) (l : Launch), s.launchAt (64 * asid + q) seq = some l → s.launchOf l.key = some l →
    ((l.stage ≠ .waiting ∨ l.status ≠ .pending ∨ l.dep ≠ 0) → exec (.launchPlacement asid q seq) s = .next s) ∧
    (s.released l = true → s.placement l = none → exec (.launchPlacement asid q seq) s = .next s) ∧
    (s.waitsTurn l = true → exec (.launchPlacement asid q seq) s = .next s) ∧
    (¬ Spec.Booted s → exec (.launchPlacement asid q seq) s = .next s) ∧
    (∀ place : List Nat, Spec.Booted s → s.released l = true → s.waitsTurn l = false → s.placement l = some (place, []) → l.proof = false → place.Nodup →
      place.length = (l.desc.startedCells (l.desc.division l.fb)).length →
      ∃ t, exec (.launchPlacement asid q seq) s = .next t ∧
        ((t.launchOf l.key).map (fun m => (m.place, m.place2, m.stage)) = some (place, [], .placed)) ∧
        ∀ n c, place[n]? = some c → ∃ x, (t.ctx c).launch = some x ∧ x.key = l.key ∧ x.number = n ∧ x.live = place.length ∧
          x.cancelled = false ∧ (t.core c).xoTop = (l.desc.codelen + 63) / 64 * 64) ∧
    (l.stage = .placed → l.retired.length ≠ (l.place ++ l.place2).length → exec (.launchComplete asid q seq) s = .next s) ∧
    ((∃ p ∈ s.net, p.launch = some l.key) → exec (.launchComplete asid q seq) s = .next s) ∧
    (l.stage = .placed → l.retired.length = (l.place ++ l.place2).length → l.status = .pending → l.desc.notify = 0 →
      (∀ p ∈ s.net, p.launch ≠ some l.key) → (∀ p ∈ s.cells, ∀ w ∈ p.2.ctx.rapWait, w.pkt.launch ≠ some l.key) →
      (l.succs = [] → exec (.launchComplete asid q seq) s = .next (s.updLaunch l.key (fun m => { m with stage := .ended, status := .done }))) ∧
      (∀ g m, l.succs = [g] → m ∈ s.launches → m.lq = l.lq → m.graph = l.graph → m.desc.gidx = g → m.key ≠ l.key →
        (∀ m' ∈ s.launches, m'.lq = l.lq → m'.graph = l.graph → m'.desc.gidx = g → m' = m) → l.desc.gidx ≠ g →
        (∀ m' ∈ s.launches, m'.key = m.key → m' = m) →
        ∃ t, exec (.launchComplete asid q seq) s = .next t ∧
          (t.launchOf l.key).map (fun x => (x.stage, x.status)) = some (.ended, .done) ∧
          (t.launchOf m.key).map (·.dep) = some (m.dep - 1)))

/-- R127: a district has woken 2,100 cycles after its wake began, and not before; it is gated where every cell of it has been free for
pp.ctl.idle cycles and pp.ctl.gate is set, in one step (DEDUCED, log entry 49). -/
def Spec.PowerGating : Prop :=
  ∀ (s : State) (d : Nat),
    (∀ t0, (s.dist d).waking = some t0 →
      (t0 + 2100 ≤ s.now → ∃ t, exec (.districtWakeComplete d) s = .next t ∧ (t.dist d).gated = false ∧ (t.dist d).waking = none) ∧
      (s.now < t0 + 2100 → exec (.districtWakeComplete d) s = .next s)) ∧
    ((s.dist d).gated = false → (s.dist d).waking = none → (∀ c ∈ cellsOfDist d, s.isFree c = true) → s.isFrozen (hallOf d) = false →
      (s.ppGate = true → (s.dist d).freeSince + s.ppIdle.toNat ≤ s.now →
        exec (.districtGate d) s = .next (s.updDist d (fun x => { x with gated := true }))) ∧
      (s.ppGate = false ∨ s.now < (s.dist d).freeSince + s.ppIdle.toNat → exec (.districtGate d) s = .next s)) ∧
    (∀ c ∈ cellsOfDist d, s.isFree c = false → exec (.districtGate d) s = .next s)

/-- R116, R118 to R121, R123, R124, R126, R127: the queues, descriptors, placement, completion and gating of the launch unit. -/
def Obligations.LaunchUnit : Prop := Spec.QueueRegisters ∧ Spec.DescriptorReads ∧ Spec.LaunchesRun ∧ Spec.PowerGating

/-! ## The device -/

/-- R6, R407, R408, R409: COLD_RESET puts every part at its reset value (the model's own agenda and step number go on, log entry 2); a
boot stage whose image verifies is done and no cell runs by that, one whose image does not asserts the fault pin with its cause, where an
image of fewer than 100 bytes counts as unreadable (the model's choice, log entry 8); an attestation report of 368 bytes begins with the
nonce; a host attaches with its bound ranges, which are kept as they are where they consist of whole lines (log entry 90). -/
def Spec.BootAndHost : Prop :=
  ∀ (s : State) (image nonce : List Byte) (h : Option (List (Nat × Nat × Nat))),
    (∃ t, exec .coldReset s = .next t ∧ { t with agenda := [], tick := 0 } = State.reset ∧ t.agenda = s.agenda) ∧
    (s.faultPin = false → s.bsStage.toNat < 3 →
      let n := s.bsStage.toNat + 1
      ∃ t, exec (.bootStageVerify image) s = .next t ∧ t.bsStage.toNat = n ∧ (∀ c, c < 3072 → t.cell c = s.cell c) ∧
        (n ≠ 3 → t.cells = s.cells ∧ t.mem = s.mem) ∧
        (image.length < 100 → t.faultPin = true ∧ t.bsCause = 3 ∧ t.bsDone = s.bsDone) ∧
        (100 ≤ image.length → s.imageSigned n image = true → Config.minVersion n ≤ Config.imageVersion image →
          t.faultPin = false ∧ t.bsDone.getLsbD n = true ∧ t.images = s.images ++ [image]) ∧
        (100 ≤ image.length → s.imageSigned n image = false → t.faultPin = true ∧ t.bsCause = 1 ∧ t.bsDone = s.bsDone) ∧
        (100 ≤ image.length → s.imageSigned n image = true → Config.imageVersion image < Config.minVersion n →
          t.faultPin = true ∧ t.bsCause = 2 ∧ t.bsDone = s.bsDone)) ∧
    (nonce.length = 48 → ∃ t r, exec (.attestationRequest nonce) s = .next t ∧ t.notices = s.notices ++ [.report (nonce ++ r)] ∧
      r.length = 320 ∧ t.cells = s.cells ∧ t.mem = s.mem) ∧
    (∃ t, exec (.hostPortAttach h) s = .next t ∧ t.host.isSome = h.isSome ∧ { t with host := s.host } = s) ∧
    ((∀ l, h = some l → ∀ r ∈ l, r.1 % 64 = 0 ∧ r.2.1 % 64 = 0) → exec (.hostPortAttach h) s = .next { s with host := h })

/-- R411, R412, R413, R414: fm.ctl takes its mode bits; a done service record of any function but walks and sampling is marked; a droop
stretches its district until it recovers, and the stretched cycles count; a cap stretches every district until power is within it. -/
def Spec.ModesAndPower : Prop :=
  ∀ (s : State) (d : Nat) (v : Word) (n : Nat),
    (exec (.fmCtlWrite v) s = .next { s with fmCtl := BitVec.ofNat 7 v.toNat }) ∧
    (∀ r, s.svc = [r] → r.sq = n → r.func ≠ 0 → r.func ≠ 5 → exec (.serviceDone n) s = .next { s with svc := [{ r with done := true }] }) ∧
    ((∀ r ∈ s.svc, r.sq ≠ n) → exec (.serviceDone n) s = .next s) ∧
    ((s.dist d).stretched = false → s.capStretch = false → exec (.droopDetect d) s =
      .next (s.updDist d (fun x => { x with stretched := true, stretchSince := s.now }))) ∧
    ((s.dist d).stretched = true → s.capStretch = false → ∃ t, exec (.droopRecovery d) s = .next t ∧ (t.dist d).stretched = false ∧
      (t.dist d).drCnt.toNat = min ((s.dist d).drCnt.toNat + (s.now - (s.dist d).stretchSince)) (2 ^ 64 - 1)) ∧
    (s.capStretch = false → ∃ t, exec .powerCapStretch s = .next t ∧ t.capStretch = true ∧ t.pcOver = true ∧ t.cells = s.cells ∧
      ∀ k, k < 48 → (s.dist k).stretched = false → (t.dist k).stretchSince = s.now) ∧
    (s.capStretch = true → ∃ t, exec .powerWithinCap s = .next t ∧ t.capStretch = false ∧ t.cells = s.cells ∧
      ∀ k, k < 48 → (s.dist k).stretched = false →
        (t.dist k).drCnt.toNat = min ((s.dist k).drCnt.toNat + (s.now - (s.dist k).stretchSince)) (2 ^ 64 - 1))

/-- R407 to R409, R411 to R414, R6: boot, attestation, the host port, function modes, services, droop and the power cap. -/
def Obligations.DeviceEvents : Prop := Spec.BootAndHost ∧ Spec.ModesAndPower

/-- R6, R127, R331, R414, R116, R156, R77: a register write sets the RW fields, a one clears a W1C field, and reserved bits take nothing. That
pc.lim takes the nearest watts and keeps its over bit while the cap stretches, and that imp.ctl.valid is bit 0, is log entry 42. -/
def Spec.MappedRegisters : Prop :=
  ∀ (s : State) (v : Word) (k die asid q : Nat),
    exec (.registerWrite .ppCtl v) s = .next { s with ppGate := v.getLsbD 40, ppIdle := BitVec.ofNat 32 (v.toNat / 2 ^ 8), ppWake := BitVec.ofNat 8 v.toNat } ∧
    exec (.registerWrite .imCfg v) s = .next (s.updImp (fun i => { i with
      quantum := BitVec.ofNat 16 (v.toNat / 2 ^ 32), chunk := BitVec.ofNat 16 (v.toNat / 2 ^ 16), stepmax := BitVec.ofNat 16 v.toNat })) ∧
    exec (.registerWrite .pcLim v) s = .next { s with
      pcOver := (s.pcOver && !v.getLsbD 16) || s.capStretch, pcWatts := BitVec.ofNat 12 (max 600 (min 2200 (v.toNat % 4096))) } ∧
    exec (.registerWrite .impCtl v) s = .next { s with impValid := s.impValid && !v.getLsbD 0 } ∧
    exec (.registerWrite (.rmCtl k) v) s = .next (s.updStack k (fun x => { x with
      en := v.getLsbD 32, backoff := BitVec.ofNat 16 (v.toNat / 2 ^ 16), thresh := BitVec.ofNat 16 v.toNat })) ∧
    exec (.registerWrite (.asidBase die) v) s = .next (s.updDie die (fun x => { x with asidBase := BitVec.ofNat 64 (v.toNat / 2 ^ 19 % 2 ^ 33 * 2 ^ 19) })) ∧
    exec (.registerWrite (.lqBase asid q) v) s = .next (s.updLq (64 * asid + q) (fun l => { l with base := BitVec.ofNat 64 (v.toNat / 128 * 128) })) ∧
    exec (.registerWrite (.lqStat asid q) v) s = .next (s.updLq (64 * asid + q) (fun l => { l with
      nfault := l.nfault && !v.getLsbD 2, err := l.err && !v.getLsbD 0 })) ∧
    (∃ t, exec (.registerWrite (.einjCtl die) v) s = .next t ∧ (t.die die).einjArm = v.getLsbD 0 ∧
      (t.die die).einjKind = BitVec.ofNat 2 (v.toNat / 2) ∧ (t.die die).einjFired = ((s.die die).einjFired && !v.getLsbD 3))

/-- The cell that dw.ctl.sel of a district names (R137). -/
def Spec.windowCell (s : State) (d : Nat) : Nat := cellOfSel d (s.dist d).sel.toNat

/-- R136, R137, R220, R222, R278, R293, R191: a Hall core's write through its debug window changes the named part of the selected frozen
cell, exactly, and a read gives it; read-only parts and cells that are not frozen take nothing, and the latter read as zero. x0 takes
nothing. A write of dw.ctl with no action selects a cell. That a write of pc sets all 52 bits of it, unaligned values too, is the model's
choice (log entry 89); that word A of a handle takes no window write, nor 0x1880, is log entry 41. -/
def Spec.DebugWindow : Prop :=
  ∀ (s : State) (d : Nat) (v : Word) (r : XReg) (k : KReg) (b : BReg),
    let c := Spec.windowCell s d
    let w := fun (off : Nat) => exec (.registerWrite (.dw d off) v) s
    let rd := fun (off : Nat) => s.readReg (.dw d off)
    (s.isFrozen c = true →
      w (8 * r.toNat) = .next (s.writeX c r v) ∧ (r = 0 → (s.writeX c r v).core c = s.core c) ∧
      w 0x100 = .next (s.updCore c (fun x => { x with pc := BitVec.ofNat 52 v.toNat })) ∧
      w (0x1800 + 8 * k.toNat) = .next (s.updVec c (fun e => { e with k := e.k.set k.toNat v })) ∧
      w 0x1840 = .next (s.updVec c (fun e => { e with tag := BitVec.ofNat 32 v.toNat })) ∧
      w 0x1880 = .next s ∧ w (0x240 + 16 * b.toNat) = .next s ∧
      (∀ e, e < 512 → ∃ t, w (0x20000 + 64 * e) = .next t ∧ ((t.ctx c).entry e).count = (BitVec.ofNat 32 v.toNat).toInt ∧
        ((t.ctx c).entry e).reload = (BitVec.ofNat 32 (v.toNat / 2 ^ 32)).toInt ∧ ((t.ctx c).entry e).handler = ((s.ctx c).entry e).handler) ∧
      rd (8 * r.toNat) = s.readX c r ∧ rd 0x100 = BitVec.ofNat 64 (s.pc c) ∧ rd (0x1800 + 8 * k.toNat) = (s.ctx c).vec.mask k ∧
      rd 0x1840 = BitVec.ofNat 64 (s.ctx c).vec.tag.toNat) ∧
    (s.isFrozen c = false → ∀ off, w off = .next s ∧ rd off = 0) ∧
    (v.toNat % 8 = 0 → exec (.registerWrite (.dwCtl d) v) s = .next (s.updDist d (fun x => { x with sel := BitVec.ofNat 6 (v.toNat / 64) }))) ∧
    (s.readReg (.dwCtl d)).getLsbD 5 = s.isFrozen c ∧ (s.readReg (.dwCtl d)).toNat / 64 = (s.dist d).sel.toNat

/-- R6, R136 and the register maps they govern: what register writes set and what the debug window reads. -/
def Obligations.RegisterWrites : Prop := Spec.MappedRegisters ∧ Spec.DebugWindow

/-! ## Agent programs -/

/-- The program that moves, and its n registers. -/
def Spec.me (s : State) : Prog := s.prog s.actProg
def Spec.rn (s : State) (r : NReg) : Word := (Spec.me s).n[r.toNat]

/-- The moving program changed, and nothing else. -/
def Spec.mine (s : State) (f : Prog → Prog) : State := s.updProg s.actProg f

/-- The instruction retires with n[a] := v, and with nothing written (R345). -/
def Spec.retires (s : State) (a : NReg) (v : Word) : State := Spec.mine s (fun g => { g with n := g.n.set a.toNat v, pc := g.pc + 8 })
def Spec.retired (s : State) : State := Spec.mine s (fun g => { g with pc := g.pc + 8 })

/-- Program status of a cause (R348, R349). -/
def Spec.statusOf : List (Nat × BitVec 8) :=
  [(0x01, 0x20), (0x02, 0x20), (0x03, 0x23), (0x04, 0x23), (0x05, 0x23), (0x06, 0x23), (0x07, 0x23), (0x08, 0x23), (0x09, 0x21),
   (0x0a, 0x21), (0x0b, 0x22)]

/-- The event record of R348. -/
def Spec.record (p status cause code pc addr : Nat) : List Byte :=
  leBytes 2 p ++ leBytes 1 status ++ leBytes 1 cause ++ leBytes 4 code ++ leBytes 8 pc ++ leBytes 8 addr ++ leBytes 8 0

/-- Program p stops with a cause: all its state kept, its status set, an event record written (R348). -/
def Spec.stopped (s : State) (p cause code addr : Nat) : State :=
  let st := (Tab.find Spec.statusOf cause).getD 0
  (s.updProg p (fun g => { g with run := .stopped, status := st })).updImp (fun i =>
    { i with events := i.events ++ [Spec.record p st.toNat cause code (s.prog p).pc.toNat addr] })

/-- The moving program stops at this instruction. -/
def Spec.Stops (s : State) (i : Instr) (cause : Nat) : Prop := exec i s = .next (Spec.stopped s s.actProg cause 0 0)

/-- The values of R353 for the operations on two registers. -/
def Spec.nOps : List ((NReg → NReg → NReg → Instr) × (Word → Word → Word)) :=
  [(.nadd, fun a b => BitVec.ofNat 64 (a.toNat + b.toNat)),
   (.nsub, fun a b => BitVec.ofInt 64 ((a.toNat : Int) - b.toNat)),
   (.nmul, fun a b => BitVec.ofNat 64 (a.toNat * b.toNat)),
   (.nslt false, fun a b => if a.toInt < b.toInt then 1 else 0),
   (.nslt true, fun a b => if a.toNat < b.toNat then 1 else 0)]

/-- R353: the integer instructions of an agent program write n[a] modulo 2^64, read before they write, and nothing else changes but pc. -/
def Spec.AgentIntegers : Prop :=
  ∀ (s : State) (a b c : NReg) (imm : BitVec 32),
    (∀ p ∈ Spec.nOps, exec (p.1 a b c) s = .next (Spec.retires s a (p.2 (Spec.rn s b) (Spec.rn s c)))) ∧
    exec (.naddi a b imm) s = .next (Spec.retires s a (BitVec.ofInt 64 ((Spec.rn s b).toInt + imm.toInt))) ∧
    exec (.nmovi false a imm) s = .next (Spec.retires s a (BitVec.ofInt 64 imm.toInt)) ∧
    exec (.nmovi true a imm) s = .next (Spec.retires s a (BitVec.ofNat 64 (imm.toNat * 2 ^ 32 + (Spec.rn s a).toNat % 2 ^ 32)))

/-- The conditions of R346. -/
def Spec.brConds : List (BrCond × (Word → Word → Bool)) :=
  [(.eq, fun a b => a = b), (.ne, fun a b => a ≠ b), (.lt, fun a b => a.toInt < b.toInt), (.ge, fun a b => b.toInt ≤ a.toInt),
   (.ltn, fun a b => a.toNat < b.toNat), (.gen, fun a b => b.toNat ≤ a.toNat)]

/-- The target of an offset (R346). -/
def Spec.target (s : State) (off : BitVec 32) : Word := BitVec.ofInt 64 ((Spec.me s).pc.toNat + 8 * off.toInt)

/-- A table by rising keys. -/
def Spec.Rising {α : Type} (t : Tab α) : Prop := (t.map (·.1)).Pairwise (· < ·)

/-- R354, R346, R375, R376, R347, R345, R348, R374: BR takes its target where the condition holds; JMP takes it always; CALL links
pc + 8; RET goes to n[b]; STAT reads the program status; TRAPA and the stops of decode and fetch stop the program with their causes;
YIELD gives the turn up. -/
def Spec.AgentControl : Prop :=
  ∀ (s : State) (a b : NReg) (off code : BitVec 32),
    (∀ p ∈ Spec.brConds, exec (.br p.1 a b off) s = .next (Spec.mine s (fun g =>
      { g with pc := if p.2 (Spec.rn s a) (Spec.rn s b) then Spec.target s off else g.pc + 8 }))) ∧
    exec (.jmp off) s = .next (Spec.mine s (fun g => { g with pc := Spec.target s off })) ∧
    exec (.call a off) s = .next (Spec.mine s (fun g => { g with n := g.n.set a.toNat (g.pc + 8), pc := Spec.target s off })) ∧
    ((Spec.rn s b).toNat % 8 = 0 → exec (.ret b) s = .next (Spec.mine s (fun g => { g with pc := Spec.rn s b }))) ∧
    ((Spec.rn s b).toNat % 8 ≠ 0 → Spec.Stops s (.ret b) 0x03) ∧
    exec (.stat false a) s = .next (Spec.retires s a ((Spec.me s).status.zeroExtend 64)) ∧
    exec (.stat true a) s = .next (Spec.mine s (fun g =>
      { g with n := g.n.set a.toNat (g.status.zeroExtend 64), pc := g.pc + 8, status := 0 })) ∧
    exec (.trapa code) s = .next (Spec.stopped s s.actProg 0x09 code.toNat 0) ∧
    Spec.Stops s (.unassignedOpcode false) 0x01 ∧ Spec.Stops s (.unassignedOpcode true) 0x02 ∧
    exec .agentFetchFault s = .next (Spec.stopped s s.actProg 0x06 0 (Spec.me s).pc.toNat) ∧
    (s.imp.ringAt (Spec.me s).cls ≠ some s.actProg →
      exec .yield s = .next (Spec.mine s (fun g => { g with deficit := 0, pc := g.pc + 8 }))) ∧
    (Spec.Rising s.imp.progs → (Spec.me s).cls < 4 → s.imp.ringAt (Spec.me s).cls = some s.actProg →
      ∃ t q, exec .yield s = .next t ∧ (t.prog s.actProg).deficit = 0 ∧ (t.prog s.actProg).pc = (Spec.me s).pc + 8 ∧
        (t.prog s.actProg).run = (Spec.me s).run ∧ t.imp.ring.toList[(Spec.me s).cls]? = some q ∧ (t.prog q).turnNew = true ∧
        (∀ u r v, s.imp.ringOf (Spec.me s).cls = u ++ s.actProg :: r :: v → q = r) ∧
        ((s.imp.ringOf (Spec.me s).cls).getLast? = some s.actProg → some q = (s.imp.ringOf (Spec.me s).cls).head?))

/-! ## Contexts -/

/-- Pages a table of share counts gives up: each count falls by 1, and a page whose count reaches 0 is free again (R325). -/
def Spec.GivesUp (i j : Imposer) (pages : List Nat) : Prop :=
  (∀ pg, Tab.get 0 j.shares pg = Tab.get 0 i.shares pg - (if pg ∈ pages then 1 else 0)) ∧
  (∀ pg, pg ∈ j.free ↔ pg ∈ i.free ∨ (pg ∈ pages ∧ Tab.get 0 i.shares pg ≤ 1))

/-- A context that holds nothing (R356). -/
def Spec.Fresh (x : Context) (p model : Nat) (seqn : Word) : Prop :=
  x.owner = p ∧ x.tokens = [] ∧ x.binding = model ∧ x.gen = 0 ∧ x.fAuto = 0xffff ∧ x.fState = 0 ∧ x.fDepth = 0 ∧ x.fStack = 0 ∧
  x.seqn = seqn ∧ x.draw = 0 ∧ x.progOp = 0 ∧ x.progDone = 0 ∧ x.progStop = 0 ∧ x.progAccept = 0 ∧ x.status = 0 ∧ x.slot = none ∧
  x.pages = [] ∧ x.reappend = false

/-- The context that a register of the moving program names. -/
def Spec.holds (s : State) (c : CReg) : Option Nat := (Spec.me s).c[c.toNat]

/-- Entries of the Cellar: live contexts without a slot (R326). -/
def Spec.cellared (s : State) : Nat := (s.imp.ctxs.filter (fun q => q.2.slot.isNone)).length

/-- A context more has room on the device and in the Cellar (R326, R327). -/
def Spec.CtxRoom (s : State) : Prop := s.imp.ctxs.length < 1050624 ∧ Spec.cellared s < 1048576

/-- R356, R357, R326, R327, R355: CNEW and CFORK make a context, or write the status that says why not, of the program alone; a destination
that names a context is first freed as CFREE frees it; CFORK of a register onto itself stops with cause 0x03, before a register that
holds none gives 0x04 (the model's choices, log entry 59). -/
def Spec.NewContexts : Prop :=
  ∀ (s : State) (c src : CReg) (r : NReg) (model : BitVec 16) (id : Nat),
    let n := s.imp.nextCtx
    (Spec.holds s c = none → (∃ b, s.binding model.toNat = some b) →
      (Spec.CtxRoom s → ∃ x, Spec.Fresh x s.actProg model.toNat (Spec.rn s r) ∧
        exec (.cnew c r model) s = .next ((Spec.mine s (fun g => { g with c := g.c.set c.toNat (some n), pc := g.pc + 8, status := 0 })).updImp
          (fun i => { i with ctxs := Tab.set i.ctxs n x, nextCtx := n + 1 }))) ∧
      (¬ Spec.CtxRoom s → exec (.cnew c r model) s = .next (Spec.mine s (fun g => { g with pc := g.pc + 8, status := 0x14 })))) ∧
    (Spec.holds s c = none → s.binding model.toNat = none →
      exec (.cnew c r model) s = .next (Spec.mine s (fun g => { g with pc := g.pc + 8, status := 0x15 }))) ∧
    (∀ u, exec (.cfree c) s = .next u → exec (.cnew c r model) s = exec (.cnew c r model) (Spec.mine u (fun g => { g with pc := (Spec.me s).pc }))) ∧
    (Spec.holds s src = none → c ≠ src → Spec.Stops s (.cfork c src r) 0x04) ∧
    Spec.Stops s (.cfork c c r) 0x03 ∧
    (c ≠ src → Spec.holds s src = some id → Spec.holds s c = none → id ≠ n → (∀ q ∈ s.svc, q.func ≠ 1) → (s.cx id).pages.Nodup →
      (∀ pg ∈ (s.cx id).pages, Tab.get 0 s.imp.shares pg < 65535) →
      (Spec.CtxRoom s → ∃ t, exec (.cfork c src r) s = .next t ∧ Spec.holds t c = some n ∧ t.cx id = s.cx id ∧
        (t.cx n).tokens = (s.cx id).tokens ∧ (t.cx n).binding = (s.cx id).binding ∧ (t.cx n).gen = (s.cx id).gen ∧
        (t.cx n).fAuto = (s.cx id).fAuto ∧ (t.cx n).fState = (s.cx id).fState ∧ (t.cx n).fDepth = (s.cx id).fDepth ∧
        (t.cx n).fStack = (s.cx id).fStack ∧ (t.cx n).draw = (s.cx id).draw ∧ (t.cx n).seqn = Spec.rn s r ∧ (t.cx n).progOp = 0 ∧
        (t.cx n).progDone = 0 ∧ (t.cx n).progStop = 0 ∧ (t.cx n).progAccept = 0 ∧ (t.cx n).status = 0 ∧ (t.cx n).slot = none ∧
        (t.cx n).pages = (s.cx id).pages ∧ (t.cx n).reappend = (s.cx id).reappend ∧
        (∀ pg, Tab.get 0 t.imp.shares pg = Tab.get 0 s.imp.shares pg + (if pg ∈ (s.cx id).pages then 1 else 0)) ∧
        (Spec.me t).status = 0 ∧ (Spec.me t).pc = (Spec.me s).pc + 8 ∧ t.mem = s.mem) ∧
      (¬ Spec.CtxRoom s →
        exec (.cfork c src r) s = .next (Spec.mine s (fun g => { g with pc := g.pc + 8, status := 0x14 }))))

/-- The fields of R320 by their selectors. -/
def Spec.fields (x : Context) : List Word :=
  [BitVec.ofNat 64 x.tokens.length, BitVec.ofNat 64 x.binding, x.gen, x.fAuto.zeroExtend 64, x.fState.zeroExtend 64, x.fDepth.zeroExtend 64,
   x.fStack, x.seqn, x.draw, x.progOp.zeroExtend 64, x.progDone.zeroExtend 64, x.progStop, x.progAccept, x.status.zeroExtend 64,
   BitVec.ofNat 64 (x.slot.getD 0xffff), BitVec.ofNat 64 x.pages.length]

/-- R358, R359, R320, R363, R364: trimming, freeing, reading, binding, and setting the fields of a context. -/
def Spec.ContextFields : Prop :=
  ∀ (s : State) (c : CReg) (dst r : NReg) (id : Nat), Spec.holds s c = some id →
    let x := s.cx id
    exec (.clen dst c) s = .next (Spec.retires s dst (BitVec.ofNat 64 x.tokens.length)) ∧
    (∀ sel, exec (.cget dst c sel) s = .next (Spec.retires s dst ((Spec.fields x).getD sel.toNat 0))) ∧
    (x.tokens.length ≤ (Spec.rn s r).toNat → exec (.ctrim c r) s = .next (Spec.retired s)) ∧
    (∀ b, Tab.find s.imp.bindings x.binding = some b → 1 ≤ b.reg.tpp → x.pages.Nodup → (Spec.rn s r).toNat < x.tokens.length →
      let k := (Spec.rn s r).toNat
      let kept := (k + b.reg.tpp - 1) / b.reg.tpp
      ∃ t, exec (.ctrim c r) s = .next t ∧ (t.cx id).tokens = x.tokens.take k ∧ (t.cx id).pages = x.pages.take kept ∧
        (t.cx id).written ≤ k - 1 ∧ ((t.cx id).reappend = true ↔ x.reappend = true ∨ b.reg.recurrent = true) ∧
        (t.cx id).fState = x.fState ∧ (t.cx id).fDepth = x.fDepth ∧ (t.cx id).fStack = x.fStack ∧ (t.cx id).draw = x.draw ∧
        Spec.GivesUp s.imp t.imp (x.pages.drop kept) ∧ Spec.me t = { Spec.me s with pc := (Spec.me s).pc + 8 } ∧ t.mem = s.mem) ∧
    (x.pages.Nodup → x.forkBest = none → x.forkCur = none →
      ∃ t, exec (.cfree c) s = .next t ∧ Spec.holds t c = none ∧ Tab.find t.imp.ctxs id = none ∧ Spec.GivesUp s.imp t.imp x.pages ∧
        (∀ j, j ≠ id → Tab.find t.imp.ctxs j = Tab.find s.imp.ctxs j) ∧ (Spec.me t).pc = (Spec.me s).pc + 8 ∧ t.mem = s.mem) ∧
    (∀ m : BitVec 16, m.toNat = x.binding → exec (.cbind c m) s = .next ((Spec.mine s (fun g => { g with status := 0, pc := g.pc + 8 })).updCx id
      (fun x => { x with status := 0 }))) ∧
    (∀ m : BitVec 16, m.toNat ≠ x.binding →
      ((s.binding m.toNat = none ∨ ∃ b, s.binding m.toNat = some b ∧ ∃ t ∈ x.tokens, b.reg.vocab ≤ t) →
        exec (.cbind c m) s = .next ((Spec.mine s (fun g => { g with status := 0x15, pc := g.pc + 8 })).updCx id
          (fun x => { x with status := 0x15 }))) ∧
      (∀ b, s.binding m.toNat = some b → (∀ t ∈ x.tokens, t < b.reg.vocab) → x.pages.Nodup →
        ∃ t, exec (.cbind c m) s = .next t ∧ (t.cx id).binding = m.toNat ∧ (t.cx id).pages = [] ∧ (t.cx id).reappend = true ∧
          (t.cx id).tokens = x.tokens ∧ (t.cx id).status = 0 ∧ (Spec.me t).status = 0 ∧ Spec.GivesUp s.imp t.imp x.pages ∧ t.mem = s.mem)) ∧
    ((Spec.rn s r).toNat % 64 = 0 → (Spec.rn s r).toNat < 2 ^ 52 →
      exec (.setgen c r) s = .next ((Spec.retired s).updCx id (fun x => { x with gen := Spec.rn s r }))) ∧
    ((Spec.rn s r).toNat % 64 ≠ 0 ∨ 2 ^ 52 ≤ (Spec.rn s r).toNat → Spec.Stops s (.setgen c r) 0x03) ∧
    (∀ auto st depth,
      let v := Spec.rn s r
      let low : Word := BitVec.ofNat 64 (v.toNat % 2 ^ (8 * depth.toNat))
      (auto ≠ 0xffff → (∀ a, Tab.find s.imp.autos auto.toNat = some a → st.toNat < a.states →
          exec (.setfr c r auto st depth) s = .next ((Spec.retired s).updCx id (fun x =>
            { x with fAuto := auto, fState := st, fDepth := depth, fStack := low }))) ∧
        ((∀ a, Tab.find s.imp.autos auto.toNat = some a → a.states ≤ st.toNat) → Spec.Stops s (.setfr c r auto st depth) 0x03)) ∧
      (auto = 0xffff → (st = 0 ∧ depth = 0 ∧ v = 0 → exec (.setfr c r auto st depth) s = .next ((Spec.retired s).updCx id (fun x =>
            { x with fAuto := 0xffff, fState := 0, fDepth := 0, fStack := 0 }))) ∧
        (¬ (st = 0 ∧ depth = 0 ∧ v = 0) → Spec.Stops s (.setfr c r auto st depth) 0x03)))

/-- R356 to R359, R320, R355, R363, R364: what agent programs do with contexts. -/
def Spec.AgentContexts : Prop := Spec.NewContexts ∧ Spec.ContextFields

/-- An instruction that needs the context of a register (R355). -/
inductive Spec.NeedsContext : Instr → CReg → Prop where
  | ctrim (c : CReg) (r : NReg) : Spec.NeedsContext (.ctrim c r) c
  | clen (d : NReg) (c : CReg) : Spec.NeedsContext (.clen d c) c
  | cget (d : NReg) (c : CReg) (sel : BitVec 6) : Spec.NeedsContext (.cget d c sel) c
  | cbind (c : CReg) (m : BitVec 16) : Spec.NeedsContext (.cbind c m) c
  | tokz (d x : SReg) (c : CReg) : Spec.NeedsContext (.tokz d x c) c
  | detok (d x : SReg) (c : CReg) : Spec.NeedsContext (.detok d x c) c
  | append (t : Bool) (c : CReg) (x : SReg) : Spec.NeedsContext (.append t c x) c
  | genu (t : Bool) (c : CReg) (x : SReg) : Spec.NeedsContext (.genu t c x) c
  | score (t : Bool) (q : QReg) (c : CReg) (x : SReg) : Spec.NeedsContext (.score t q c x) c
  | choose (t : Bool) (d : NReg) (c : CReg) (x : SReg) (k : BitVec 8) (q : QReg) : Spec.NeedsContext (.choose t d c x k q) c
  | setgen (c : CReg) (r : NReg) : Spec.NeedsContext (.setgen c r) c
  | setfr (c : CReg) (r : NReg) (auto : BitVec 16) (st : BitVec 12) (depth : BitVec 4) : Spec.NeedsContext (.setfr c r auto st depth) c

/-- R355, R365, R358: an instruction that needs a context and names a register holding none stops its program with cause 0x04; GENU,
SCORE and CHOOSE on an empty context stop it with cause 0x03; CFREE of a register holding none has no effect. -/
def Spec.ContextStops : Prop :=
  ∀ (s : State) (c : CReg),
    (Spec.holds s c = none → (∀ i, Spec.NeedsContext i c → Spec.Stops s i 0x04) ∧ exec (.cfree c) s = .next (Spec.retired s)) ∧
    (∀ id, Spec.holds s c = some id → (s.cx id).tokens = [] → ∀ (t : Bool) (x : SReg) (q : QReg) (d : NReg) (k : BitVec 8),
      Spec.Stops s (.genu t c x) 0x03 ∧ Spec.Stops s (.score t q c x) 0x03 ∧ Spec.Stops s (.choose t d c x k q) 0x03)

/-! ## Strings -/

/-- A string register of the moving program, and its change. -/
def Spec.rs (s : State) (r : SReg) : Str := (Spec.me s).s[r.toNat]
def Spec.keeps (s : State) (r : SReg) (v : Str) : State := Spec.mine s (fun g => { g with s := g.s.set r.toNat v, pc := g.pc + 8 })

/-- The string object of R37: length, data, zeros to a multiple of 8. -/
def Spec.object (x : Str) : List Byte :=
  let d : List Byte := if x.toks then (x.data.map (fun t => leBytes 4 t)).flatten else x.data.map (BitVec.ofNat 8)
  leBytes 4 d.length ++ d ++ List.replicate ((8 - (4 + d.length) % 8) % 8) 0

/-- R360, R361, R362, R352: SLD and SST move string objects from and to the process's memory, SCAT, SSUB and SLEN work on strings, TOKZ
and DETOK go by the tables of the context's binding; kinds and lengths that do not fit stop the program. That missing tables give BINDING
before the kind is looked at is the model's choice (log entry 59). While a request of SST to another device is out without an answer it
waits with no effect (R410; log entry 73). -/
def Obligations.AgentStrings : Prop :=
  ∀ (s : State) (d x y : SReg) (r dst : NReg) (c : CReg),
    let a := (Spec.rn s r).toNat
    let asid := (Spec.me s).asid
    (a % 8 ≠ 0 → Spec.Stops s (.sst x r) 0x03 ∧ ∀ ids, Spec.Stops s (.sld ids d r) 0x03) ∧
    (∀ h b s1 s2, a % 8 = 0 → s.sysRead 0 asid a 4 = (.ok h, s1) → leNat h ≤ 1048576 → s1.sysRead 0 asid (a + 4) (leNat h) = (.ok b, s2) →
      exec (.sld false d r) s = .next (Spec.keeps s2 d ⟨false, b.map BitVec.toNat⟩) ∧
      (leNat h % 4 = 0 → exec (.sld true d r) s = .next (Spec.keeps s2 d ⟨true,
        (List.range (leNat h / 4)).map (fun k => leNat ((b.drop (4 * k)).take 4))⟩)) ∧
      (leNat h % 4 ≠ 0 → exec (.sld true d r) s = .next (Spec.stopped s1 s.actProg 0x05 0 0))) ∧
    (∀ s1, a % 8 = 0 → s.sysWrite 0 asid a (Spec.object (Spec.rs s x)) = (none, s1) → s.waiters = [] →
      exec (.sst x r) s = .next (Spec.retired s1)) ∧
    (∀ e f s1, a % 8 = 0 → s.sysWrite 0 asid a (Spec.object (Spec.rs s x)) = (some (e, f), s1) → e ≠ .poison →
      ((∀ q ∈ s1.sysReqs, q ∈ s.sysReqs) → exec (.sst x r) s = .next (Spec.stopped s1 s.actProg 0x07 0 (f % 2 ^ 64))) ∧
      ((∃ q ∈ s1.sysReqs, q.asked = s.tick ∧ q ∉ s.sysReqs) → exec (.sst x r) s = .next { s with sysReqs := s1.sysReqs })) ∧
    ((Spec.rs s x).toks = (Spec.rs s y).toks → (Spec.rs s x).data.length + (Spec.rs s y).data.length ≤ 1048576 →
      exec (.scat d x y) s = .next (Spec.keeps s d ⟨(Spec.rs s x).toks, (Spec.rs s x).data ++ (Spec.rs s y).data⟩)) ∧
    ((Spec.rs s x).toks ≠ (Spec.rs s y).toks ∨ 1048576 < (Spec.rs s x).data.length + (Spec.rs s y).data.length →
      Spec.Stops s (.scat d x y) 0x05) ∧
    (∀ len, exec (.ssub d x r len) s = .next (Spec.keeps s d ⟨(Spec.rs s x).toks, ((Spec.rs s x).data.drop a).take len.toNat⟩)) ∧
    exec (.slen dst x) s = .next (Spec.retires s dst (BitVec.ofNat 64 (Spec.rs s x).data.length)) ∧
    (∀ id, Spec.holds s c = some id →
      (s.tablesOf id = none → ∀ i ∈ [Instr.tokz d x c, .detok d x c], exec i s =
        .next ((Spec.mine s (fun g => { g with status := 0x15, pc := g.pc + 8 })).updCx id (fun x => { x with status := 0x15 }))) ∧
      (∀ tb, s.tablesOf id = some tb → s.imp.modes.getLsbD 3 = false → (∀ v ∈ s.svc, v.func ≠ 3) →
        ((Spec.rs s x).toks = false → (tb.tokz (Spec.rs s x).data).length ≤ 1048576 →
          exec (.tokz d x c) s = .next (Spec.keeps s d ⟨true, tb.tokz (Spec.rs s x).data⟩)) ∧
        ((Spec.rs s x).toks = true → Spec.Stops s (.tokz d x c) 0x05) ∧
        ((Spec.rs s x).toks = true → (∀ t ∈ (Spec.rs s x).data, t < s.vocab (s.cx id).binding) → (tb.detok (Spec.rs s x).data).length ≤ 1048576 →
          exec (.detok d x c) s = .next (Spec.keeps s d ⟨false, tb.detok (Spec.rs s x).data⟩)) ∧
        ((Spec.rs s x).toks = true → (∃ t ∈ (Spec.rs s x).data, s.vocab (s.cx id).binding ≤ t) → Spec.Stops s (.detok d x c) 0x03) ∧
        ((Spec.rs s x).toks = false → Spec.Stops s (.detok d x c) 0x05)))

/-! ## Scores, waits, the end -/

/-- A q register of the moving program. -/
def Spec.rq (s : State) (r : QReg) : Score := (Spec.me s).q[r.toNat]

/-- A score that is no number (R56, R372). -/
def Spec.NoNumber (q : Score) : Prop := q.poison = true ∨ q.xa.nan = true ∨ (q.xa.pinf = true ∧ q.xa.ninf = true)

/-- −1, 0 or 1 for a finite value and the infinities (R372). -/
def Spec.high (q : Score) : Int := if q.xa.pinf then 1 else if q.xa.ninf then -1 else 0

/-- x is below y (R372). -/
def Spec.below (x y : Score) : Prop := Spec.high x < Spec.high y ∨ (Spec.high x = 0 ∧ Spec.high y = 0 ∧ x.xa.x.toInt < y.xa.x.toInt)

/-- Whether a magnitude m that lies from lo up to, not including, the next one hi goes up to it: the modes of R55. -/
def Spec.GoesUp (neg odd : Bool) (lo m hi : Nat) : Rnd → Prop
  | .rne => lo + hi < 2 * m ∨ (2 * m = lo + hi ∧ odd = true)
  | .rna => lo + hi ≤ 2 * m
  | .rtz => False
  | .rup => lo < m ∧ neg = false
  | .rdn => lo < m ∧ neg = true

/-- The magnitude that the bits k below the sign stand for, in units of 2^−266 and with f fraction bits whose least unit is 2^e (R43);
bits past the greatest finite value continue the line, as R55 rounds before it looks whether the value is too great. -/
def Spec.magnitude (f e k : Nat) : Nat := if k < 2 ^ f then k * 2 ^ e else (k % 2 ^ f + 2 ^ f) * 2 ^ (e + k / 2 ^ f - 1)

/-- R55, R56, R372: the value that QRND writes, by the first case that holds: NaN, the infinities, and a finite value rounded once, with
its sign, its overflow, and the saturation of S32. -/
def Spec.DrainsTo (s : State) (dst : NReg) (x : QReg) (r : Rnd) : Prop :=
  let q := (Spec.rq s x).xa
  let m := q.x.toInt.natAbs
  let neg := decide (q.x.toInt < 0)
  let v := fun (t : DrainTy) (n : Int) => exec (.qrnd t r dst x) s = .next (Spec.retires s dst (BitVec.ofInt 64 n))
  let nan := q.nan = true ∨ (q.pinf = true ∧ q.ninf = true)
  (∀ p ∈ [(DrainTy.f32, 23, 117), (.bf16, 7, 133)],
    let inf : Nat := 255 * 2 ^ p.2.1
    let sign : Nat := if neg then 2 ^ (p.2.1 + 8) else 0
    (nan → v p.1 (inf + 2 ^ (p.2.1 - 1))) ∧ (¬ nan → q.pinf = true → v p.1 inf) ∧ (¬ nan → q.ninf = true → v p.1 (2 ^ (p.2.1 + 8) + inf)) ∧
    (q.nan = false → q.pinf = false → q.ninf = false →
      (∀ k : Nat, k < inf → let lo := Spec.magnitude p.2.1 p.2.2 k
        let hi := Spec.magnitude p.2.1 p.2.2 (k + 1)
        lo ≤ m → m < hi →
        (Spec.GoesUp neg (k % 2 = 1) lo m hi r → v p.1 (sign + k + 1)) ∧ (¬ Spec.GoesUp neg (k % 2 = 1) lo m hi r → v p.1 (sign + k))) ∧
      (2 ^ 394 ≤ m → v p.1 (sign + (if r = .rtz ∨ (r = .rup ∧ neg = true) ∨ (r = .rdn ∧ neg = false) then inf - 1 else inf))))) ∧
  (nan → v .s32 0) ∧ (¬ nan → q.pinf = true → v .s32 (2 ^ 31 - 1)) ∧ (¬ nan → q.ninf = true → v .s32 (-2 ^ 31)) ∧
  (q.nan = false → q.pinf = false → q.ninf = false →
    let k := m / 2 ^ 266
    let up := Spec.GoesUp neg (k % 2 = 1) (k * 2 ^ 266) m ((k + 1) * 2 ^ 266) r
    let out := fun (j : Int) => v .s32 (max (-2 ^ 31) (min (2 ^ 31 - 1) (if neg then -j else j)))
    (up → out (k + 1)) ∧ (¬ up → out k))

/-- A read of WAITC for program p at address v, whose eight bytes are b (R373): the value goes to n[dst], and the instruction retires
where the condition holds, else it waits on. -/
def Spec.waits (s : State) (p : Nat) (dst : NReg) (addr val : Word) (cond : BrCond) (b : List Byte) (ok : Bool) : State :=
  s.updProg p (fun g => { g with
    n := g.n.set dst.toNat (BitVec.ofNat 64 (leNat b))
    run := if ok then .ready else .waiting dst addr val cond
    pc := if ok then g.pc + 8 else g.pc })

/-- R372, R373, R376: scores compare exactly and drain as an accumulator does; WAITC reads until its condition holds, again at every
re-read and doorbell; ENDA frees every context and ends the program with its event record. -/
def Obligations.ScoresAndWaits : Prop :=
  (∀ (s : State) (dst : NReg) (x y : QReg),
    let v := fun (w : Word) => exec (.qcmp dst x y) s = .next (Spec.retires s dst w)
    (Spec.NoNumber (Spec.rq s x) ∨ Spec.NoNumber (Spec.rq s y) → v 2) ∧
    (¬ Spec.NoNumber (Spec.rq s x) → ¬ Spec.NoNumber (Spec.rq s y) →
      (Spec.below (Spec.rq s y) (Spec.rq s x) → v 1) ∧ (Spec.below (Spec.rq s x) (Spec.rq s y) → v (BitVec.allOnes 64)) ∧
      (¬ Spec.below (Spec.rq s y) (Spec.rq s x) → ¬ Spec.below (Spec.rq s x) (Spec.rq s y) → v 0)) ∧
    (∀ r, Spec.DrainsTo s dst x r)) ∧
  (∀ (s : State) (dst addr val : NReg) (b : List Byte) (s1 : State), ∀ cn ∈ Spec.brConds,
    ((Spec.rn s addr).toNat % 8 ≠ 0 → Spec.Stops s (.waitc cn.1 dst addr val) 0x03) ∧
    ((Spec.rn s addr).toNat % 8 = 0 → s.sysRead 0 (Spec.me s).asid (Spec.rn s addr).toNat 8 = (.ok b, s1) →
      exec (.waitc cn.1 dst addr val) s = .next (Spec.waits s1 s.actProg dst (Spec.rn s addr) (Spec.rn s val) cn.1 b
        (cn.2 (BitVec.ofNat 64 (leNat b)) (Spec.rn s val))))) ∧
  (∀ (s : State) (p : Nat),
    ((∀ dst addr val cond, (s.prog p).run ≠ .waiting dst addr val cond) →
      exec (.waitcReread p) s = .next s ∧ exec (.programDoorbell p) s = .next s) ∧
    (∀ dst addr val b s1, ∀ cn ∈ Spec.brConds, (s.prog p).run = .waiting dst addr val cn.1 →
      s.sysRead 0 (s.prog p).asid addr.toNat 8 = (.ok b, s1) → ∀ i ∈ [Instr.waitcReread p, .programDoorbell p],
        exec i s = .next (Spec.waits s1 p dst addr val cn.1 b (cn.2 (BitVec.ofNat 64 (leNat b)) val)))) ∧
  (∀ (s : State) (code : BitVec 32), ∃ t, exec (.enda code) s = .next t ∧ (Spec.me t).run = .ended ∧ t.mem = s.mem ∧ t.cells = s.cells ∧
    (∀ r, Spec.holds t r = none) ∧ (∀ r id, Spec.holds s r = some id → Tab.find t.imp.ctxs id = none) ∧
    t.imp.events = s.imp.events ++ [Spec.record s.actProg 0 0x0c code.toNat (Spec.me s).pc.toNat 0])

/-! ## The long instructions -/

/-- A context on which a long instruction is issued first, with its binding registered and no block (R365). -/
structure Spec.FirstIssue (s : State) (c : CReg) (id : Nat) (b : Binding) : Prop where
  names : Spec.holds s c = some id
  bound : s.binding (s.cx id).binding = some b
  there : Tab.find s.imp.ctxs id ≠ none
  tpp : 1 ≤ b.reg.tpp
  clean : (s.cx id).accepted = none ∧ (s.cx id).reappend = false ∧ (s.cx id).progOp = 0 ∧ (s.cx id).forkBest = none ∧ (s.cx id).forkCur = none
  quiet : s.svc = [] ∧ s.imp.modes = 0

/-- The tokens of a string, by the binding's tables for text (R362, R367). -/
def Spec.Feeds (s : State) (id : Nat) (b : Binding) (text : Bool) (r : SReg) (l : List Nat) : Prop :=
  (Spec.rs s r).toks = !text ∧
  (if text then ∃ tb, s.tablesOf id = some tb ∧ l = tb.tokz (Spec.rs s r).data else l = (Spec.rs s r).data) ∧
  (∀ t ∈ l, t < b.reg.vocab) ∧ l.length ≤ 1048576 ∧ (s.cx id).tokens.length + l.length ≤ 16777215

/-- The instruction is in progress on the context, with what it feeds (R365). -/
def Spec.Begun (s t : State) (i : Instr) (id op : Nat) (feed : List (List Nat)) : Prop :=
  (Spec.me t).run = .long i ∧ (Spec.me t).pc = (Spec.me s).pc ∧ (t.cx id).progOp.toNat = op ∧ (t.cx id).progDone = 0 ∧
  (t.cx id).progAccept = 0 ∧ (t.cx id).status = 0x04 ∧ (t.cx id).feed = feed ∧ (t.cx id).tokens = (s.cx id).tokens ∧ t.mem = s.mem

/-- The instruction has retired with a status, its context's tokens as they were (R365). -/
def Spec.Finished (s t : State) (id : Nat) (status : BitVec 8) : Prop :=
  (Spec.me t).run = .ready ∧ (Spec.me t).pc = (Spec.me s).pc + 8 ∧ (Spec.me t).status = status ∧ (t.cx id).status = status ∧
  (t.cx id).progOp = 0 ∧ (t.cx id).tokens = (s.cx id).tokens

/-- The parameters of a block without stop strings or speculation (R323), and what they are read as. -/
def Spec.GoodBlock (b : List Byte) : Prop :=
  let f := fun (o n : Nat) => leNat ((b.drop o).take n)
  b.length = 256 ∧ f 8 4 < 0x7f800000 ∧ 1 ≤ f 16 4 ∧ f 16 4 ≤ 65536 ∧ 1 ≤ f 20 4 ∧ f 28 1 < 2 ∧ f 29 1 = 0 ∧ f 30 2 = 0 ∧ f 40 24 = 0 ∧ f 128 128 = 0
def Spec.Reads (b : List Byte) (g : GenBlk) : Prop :=
  let f := fun (o n : Nat) => leNat ((b.drop o).take n)
  g.seed.toNat = f 0 8 ∧ g.temp.toNat = f 8 4 ∧ g.topk = f 12 4 ∧ g.topp = f 16 4 ∧ g.maxnew = f 20 4 ∧ g.eos = f 24 4 ∧
  (g.incStop = true ↔ f 28 1 % 2 = 1) ∧ g.spec = false ∧ g.stops = []

/-- R365, R367, R368, R370, R371, R323, R362, R377: what the first issue of a long instruction does: strings are checked and fed, progress
begins, the output or score register is cleared, CHOOSE waits for its first candidate's first row; nothing to feed retires with DONE, a
broken or missing block with PARAM, missing tables or a withdrawn binding with BINDING. That CHOOSE leaves every score register as it was
until its first row, and that a lost binding is seen before the kind, is log entry 60. -/
def Spec.LongIssues : Prop :=
  ∀ (s : State) (c : CReg) (id : Nat) (b : Binding), Spec.FirstIssue s c id b →
    let g := (s.cx id).gen
    (∀ text r l, g = 0 → Spec.Feeds s id b text r l →
      (2 ≤ l.length → ∃ t, exec (.append text c r) s = .next t ∧ Spec.Begun s t (.append text c r) id 0x28 [l]) ∧
      (l = [] → ∃ t, exec (.append text c r) s = .next t ∧ Spec.Finished s t id 0x01) ∧
      (∀ y pg rest, l = [y] → (s.cx id).tokens = [] → (s.cx id).written = 0 → (s.cx id).pages = [] → s.imp.free = pg :: rest →
        ∃ t, exec (.append text c r) s = .next t ∧ (t.cx id).tokens = [y] ∧ (t.cx id).pages = [pg] ∧ (t.cx id).written = 0 ∧
          (t.cx id).status = 0x01 ∧ Tab.get 0 t.imp.shares pg = 1 ∧ (Spec.me t).pc = (Spec.me s).pc + 8 ∧ (Spec.me t).run = .ready) ∧
      ((s.cx id).tokens ≠ [] → ∀ q,
        (l ≠ [] → ∃ t, exec (.score text q c r) s = .next t ∧ Spec.Begun s t (.score text q c r) id 0x2a [l] ∧
          Spec.rq t q = ⟨XA.zero, false⟩) ∧
        (l = [] → ∃ t, exec (.score text q c r) s = .next t ∧ Spec.Finished s t id 0x01 ∧ Spec.rq t q = ⟨XA.zero, false⟩))) ∧
    (∀ text first (k : BitVec 8) q dst ls, g = 0 → (s.cx id).tokens ≠ [] → 2 ≤ k.toNat → k.toNat ≤ 16 → ls.length = k.toNat →
      (∀ j l, ls[j]? = some l → l ≠ [] ∧ Spec.Feeds s id b text (first + BitVec.ofNat 4 j) l) →
      ∃ t, exec (.choose text dst c first k q) s = .next t ∧ Spec.Begun s t (.choose text dst c first k q) id 0x2b ls ∧
        (t.cx id).progStop = 0xff00 ∧ (t.cx id).forkCur = none ∧ ∀ k, Spec.rq t k = Spec.rq s k) ∧
    (∀ ids out blk s1, (s.cx id).tokens ≠ [] → g ≠ 0 → s.sysRead 0 (Spec.me s).asid g.toNat 256 = (.ok blk, s1) → Spec.GoodBlock blk →
      ((ids = true ∨ s.tablesOf id ≠ none) → ∃ t m, exec (.genu ids c out) s = .next t ∧ Spec.Begun s t (.genu ids c out) id 0x29 [] ∧
        (t.cx id).gblk = some m ∧ Spec.Reads blk m ∧ Spec.rs t out = ⟨ids, []⟩) ∧
      (ids = false → s.tablesOf id = none → (Spec.me s).mask = 0 → ∃ t, exec (.genu ids c out) s = .next t ∧ Spec.Finished s t id 0x15)) ∧
    (∀ ids out blk s1, (s.cx id).tokens ≠ [] → g ≠ 0 → s.sysRead 0 (Spec.me s).asid g.toNat 256 = (.ok blk, s1) →
      leNat ((blk.drop 20).take 4) = 0 → ∃ t, exec (.genu ids c out) s = .next t ∧ Spec.Finished s t id 0x16) ∧
    (∀ ids out, (s.cx id).tokens ≠ [] → g = 0 → ∃ t, exec (.genu ids c out) s = .next t ∧ Spec.Finished s t id 0x16) ∧
    (∀ text r, g = 0 → (Spec.rs s r).toks = text → (text = false ∨ s.tablesOf id ≠ none) →
      ∃ t, exec (.append text c r) s = .next t ∧ (Spec.me t).run = .stopped ∧ (Spec.me t).status = 0x23 ∧ (Spec.me t).pc = (Spec.me s).pc ∧
        t.imp.events = s.imp.events ++ [Spec.record s.actProg 0x23 0x05 0 (Spec.me s).pc.toNat 0] ∧ (t.cx id).tokens = (s.cx id).tokens)

/-- A long instruction whose record of progress a re-issue continues without a block (R334, R365). -/
inductive Spec.Continues : Instr → Nat → Prop where
  | append (t : Bool) (c : CReg) (x : SReg) : Spec.Continues (.append t c x) 0x28
  | score (t : Bool) (q : QReg) (c : CReg) (x : SReg) : Spec.Continues (.score t q c x) 0x2a
  | choose (t : Bool) (d : NReg) (c : CReg) (x : SReg) (k : BitVec 8) (q : QReg) : Spec.Continues (.choose t d c x k q) 0x2b

/-- R334, R336, R337, R377: an interrupted instruction issued again continues from its record; one that is not interrupted, or a step
in progress, leaves all as it is; an issue on a binding that is gone retires with BINDING, or stops the program as TRAPPED behind
the instruction where its mask says so. -/
def Spec.LongReissues : Prop :=
  (∀ (s : State) (p : Nat), (s.imp.step ≠ none ∨ (s.prog p).longCtx = none) → exec (.longInstructionReissue p) s = .next s) ∧
  (∀ (s : State) (p id k : Nat) (i : Instr) (b : Binding), s.imp.step = none → (s.prog p).run = .long i → (s.prog p).longCtx = some id →
    (s.cx id).slot = some k →
    ((s.prog p).intr = false → exec (.longInstructionReissue p) s = .next s) ∧
    (∀ op, (s.prog p).intr = true → Spec.Continues i op → (s.cx id).progOp.toNat = op → s.binding (s.cx id).binding = some b →
      (s.cx id).accepted = none → (s.cx id).reappend = false → (s.cx id).gen = 0 →
      (op = 0x2b → (s.cx id).forkCur ≠ none ∨ (s.cx id).feed.getD ((s.cx id).progStop.toNat % 256) [] ≠ []) →
      exec (.longInstructionReissue p) s = .next ((s.updCx id (fun x => { x with gblk := none })).updProg p (fun g => { g with intr := false })))) ∧
  (∀ (s : State) (c : CReg) (id : Nat) (text : Bool) (r : SReg), Spec.holds s c = some id → s.binding (s.cx id).binding = none →
    (s.cx id).forkBest = none → (s.cx id).forkCur = none →
    ((Spec.me s).mask.getLsbD 5 = false → ∃ t, exec (.append text c r) s = .next t ∧ Spec.Finished s t id 0x15) ∧
    ((Spec.me s).mask.getLsbD 5 = true → ∃ t, exec (.append text c r) s = .next t ∧ (Spec.me t).run = .stopped ∧ (Spec.me t).status = 0x21 ∧
      (Spec.me t).pc = (Spec.me s).pc + 8 ∧ (t.cx id).status = 0x15 ∧ t.notices = s.notices ++ [.trap s.actProg] ∧
      t.imp.events = s.imp.events ++ [Spec.record s.actProg 0x21 0x0a 0x15 ((Spec.me s).pc + 8).toNat 0]))

/-- R334, R336, R337, R362, R365, R367, R368, R370, R371, R377: the issue of long instructions, and their issue again. -/
def Obligations.LongInstructions : Prop := Spec.LongIssues ∧ Spec.LongReissues

/-- A short agent instruction other than SST and CFORK, which write memory, with the n register that it may write. -/
inductive Spec.AgentQuiet : Instr → Option NReg → Prop where
  | nmovi (h : Bool) (a : NReg) (i : BitVec 32) : Spec.AgentQuiet (.nmovi h a i) (some a)
  | nadd (a b c : NReg) : Spec.AgentQuiet (.nadd a b c) (some a)
  | naddi (a b : NReg) (i : BitVec 32) : Spec.AgentQuiet (.naddi a b i) (some a)
  | nsub (a b c : NReg) : Spec.AgentQuiet (.nsub a b c) (some a)
  | nmul (a b c : NReg) : Spec.AgentQuiet (.nmul a b c) (some a)
  | nslt (u : Bool) (a b c : NReg) : Spec.AgentQuiet (.nslt u a b c) (some a)
  | br (k : BrCond) (a b : NReg) (o : BitVec 32) : Spec.AgentQuiet (.br k a b o) none
  | jmp (o : BitVec 32) : Spec.AgentQuiet (.jmp o) none
  | call (a : NReg) (o : BitVec 32) : Spec.AgentQuiet (.call a o) (some a)
  | ret (b : NReg) : Spec.AgentQuiet (.ret b) none
  | cnew (c : CReg) (r : NReg) (m : BitVec 16) : Spec.AgentQuiet (.cnew c r m) none
  | ctrim (c : CReg) (r : NReg) : Spec.AgentQuiet (.ctrim c r) none
  | cfree (c : CReg) : Spec.AgentQuiet (.cfree c) none
  | clen (a : NReg) (c : CReg) : Spec.AgentQuiet (.clen a c) (some a)
  | cget (a : NReg) (c : CReg) (sel : BitVec 6) : Spec.AgentQuiet (.cget a c sel) (some a)
  | cbind (c : CReg) (m : BitVec 16) : Spec.AgentQuiet (.cbind c m) none
  | sld (ids : Bool) (d : SReg) (r : NReg) : Spec.AgentQuiet (.sld ids d r) none
  | scat (d x y : SReg) : Spec.AgentQuiet (.scat d x y) none
  | ssub (d x : SReg) (r : NReg) (l : BitVec 32) : Spec.AgentQuiet (.ssub d x r l) none
  | slen (a : NReg) (x : SReg) : Spec.AgentQuiet (.slen a x) (some a)
  | tokz (d x : SReg) (c : CReg) : Spec.AgentQuiet (.tokz d x c) none
  | detok (d x : SReg) (c : CReg) : Spec.AgentQuiet (.detok d x c) none
  | setgen (c : CReg) (r : NReg) : Spec.AgentQuiet (.setgen c r) none
  | setfr (c : CReg) (r : NReg) (u : BitVec 16) (st : BitVec 12) (d : BitVec 4) : Spec.AgentQuiet (.setfr c r u st d) none
  | qcmp (a : NReg) (x y : QReg) : Spec.AgentQuiet (.qcmp a x y) (some a)
  | qrnd (t : DrainTy) (m : Rnd) (a : NReg) (x : QReg) : Spec.AgentQuiet (.qrnd t m a x) (some a)
  | waitc (k : BrCond) (a b v : NReg) : Spec.AgentQuiet (.waitc k a b v) (some a)
  | yield : Spec.AgentQuiet .yield none
  | stat (clr : Bool) (a : NReg) : Spec.AgentQuiet (.stat clr a) (some a)
  | enda (k : BitVec 32) : Spec.AgentQuiet (.enda k) none
  | trapa (k : BitVec 32) : Spec.AgentQuiet (.trapa k) none
  | unassignedOpcode (f : Bool) : Spec.AgentQuiet (.unassignedOpcode f) none
  | agentFetchFault : Spec.AgentQuiet .agentFetchFault none

/-- R317, R318, R353, R345: what a short agent instruction leaves alone: every byte of memory (SST: outside the string object), every
cell's registers and queues, every other program's registers and state, and every n register but its destination. -/
def Obligations.AgentFrame : Prop :=
  (∀ (s t : State) (i : Instr) (dst : Option NReg), Spec.AgentQuiet i dst → exec i s = .next t →
    (∀ a, t.readB a = s.readB a) ∧ t.cells = s.cells ∧ (∀ r, some r ≠ dst → Spec.rn t r = Spec.rn s r) ∧
    ∀ q, q ≠ s.actProg → { t.prog q with turnNew := (s.prog q).turnNew } = s.prog q) ∧
  (∀ (s t : State) (x : SReg) (r : NReg) (ps : List (Piece × Nat)),
    s.sysPieces 0 (Spec.me s).asid .store (piecesOf 0 (Spec.rn s r).toNat (Spec.object (Spec.rs s x)).length) = .ok ps →
    exec (.sst x r) s = .next t → (∀ a, (∀ p ∈ ps, a < p.2 ∨ p.2 + p.1.n ≤ a) → t.readB a = s.readB a) ∧
      (∀ c, t.ctx c = s.ctx c) ∧ (∀ q, q ≠ s.actProg → t.prog q = s.prog q) ∧ ∀ k, Spec.rn t k = Spec.rn s k)

/-! ## System software and the Imposer -/

/-- The layout of R388 for a vocabulary of V tokens. -/
def Spec.TablesFit (t : CompTables) (V : Nat) : Prop :=
  t.split.length = 256 ∧ (∀ e ∈ t.split, e.toNat < 2 ^ 9) ∧ t.byteTok.length = 256 ∧ (∀ x ∈ t.byteTok, x.toNat < V) ∧
  t.merges.length ≤ 262144 ∧ (∀ m ∈ t.merges, m.1.toNat < V ∧ m.2.1.toNat < V ∧ m.2.2.toNat < V) ∧
  (t.merges.map (fun m => (m.1, m.2.1))).Nodup ∧ V ≤ 262144 ∧ t.tokBytes.length = V ∧
  ∀ w ∈ t.tokBytes, w.toNat < 2 ^ 48 ∧ w.toNat % 2 ^ 32 + w.toNat / 2 ^ 32 ≤ t.pool.length

/-- A program as it is loaded (R317). -/
def Spec.Loaded (g : Prog) (ld : ProgLoad) : Prop :=
  g.pc = BitVec.ofNat 64 ld.entry ∧ (∀ r : NReg, g.n[r.toNat] = 0) ∧ (∀ r : SReg, g.s[r.toNat] = ⟨false, []⟩) ∧
  (∀ r : QReg, g.q[r.toNat] = ⟨XA.zero, false⟩) ∧ g.status = 0 ∧ g.cls = ld.cls ∧ g.weight = ld.weight ∧ g.mask = ld.mask ∧
  g.asid = ld.asid ∧ g.image = ld.image ∧ g.run = .ready

/-- R317, R39, R350, R388, R393, R324, R377: loading puts a program at its entry with clear registers and its declared contexts; a resume
goes on at pc or behind it, never for a killed or ended program; tables and automata are registered only where they keep their
layouts; pages join the pool once; a withdrawal ends the long instructions on its binding, at the boundary where a step runs. The model's
choices: a program number in use is not loaded again (log entry 15), a declared context has sequence number 0 (log entry 59), and
registering a binding anew drops its tables (log entry 83). -/
def Obligations.ImposerSoftware : Prop :=
  (∀ (s : State) (p : Nat) (ld : ProgLoad), p < 65536 → ld.cls < 4 → 1 ≤ ld.weight → ld.weight ≤ 255 →
    (Tab.find s.imp.progs p = none → ld.ctxs = [] → (∀ m ∈ ld.models, s.binding m ≠ none) → ∃ t, exec (.programLoad p ld) s = .next t ∧ Spec.Loaded (t.prog p) ld ∧
      (∀ r : CReg, (t.prog p).c[r.toNat] = none) ∧ (∀ q, q ≠ p → t.prog q = s.prog q) ∧ t.mem = s.mem ∧ t.cells = s.cells) ∧
    (∀ (r : CReg) b x, Tab.find s.imp.progs p = none → ld.ctxs = [(r.toNat, b)] → (∀ m ∈ ld.models, s.binding m ≠ none) →
      s.binding b = some x → Spec.CtxRoom s →
      ∃ t n, exec (.programLoad p ld) s = .next t ∧ Spec.Loaded (t.prog p) ld ∧ (t.prog p).c[r.toNat] = some n ∧
        Spec.Fresh (t.cx n) p b 0 ∧ t.mem = s.mem) ∧
    ((∃ d ∈ ld.ctxs, s.binding d.2 = none) ∨ (∃ m ∈ ld.models, s.binding m = none) →
      exec (.programLoad p ld) s = .next { s with notices := s.notices ++ [.loadError p] })) ∧
  (∀ (s : State) (p : Nat) (skip : Bool),
    ((s.prog p).run = .stopped → (s.prog p).status ≠ 0x22 → exec (.programResume p skip) s = .next (s.updProg p (fun g =>
      { g with run := .ready, pc := if skip then g.pc + 8 else g.pc }))) ∧
    ((s.prog p).run ≠ .stopped ∨ (s.prog p).status = 0x22 → exec (.programResume p skip) s = .next s)) ∧
  (∀ (s : State) (b : Nat) (r : BindingReg), ∃ t x, exec (.modelBindingRegister b r) s = .next t ∧ t.binding b = some x ∧ x.reg = r ∧
    x.tables = none ∧ (∀ k, k ≠ b → t.binding k = s.binding k) ∧ { t with imp := s.imp } = s) ∧
  (∀ (s : State) (b : Nat) (t : CompTables) (x : Binding), Tab.find s.imp.bindings b = some x →
    (Spec.TablesFit t x.reg.vocab → exec (.compositorTablesRegister b t) s = .next (s.updImp (fun i =>
      { i with bindings := Tab.set i.bindings b { x with tables := some t } }))) ∧
    (¬ Spec.TablesFit t x.reg.vocab → exec (.compositorTablesRegister b t) s = .next s)) ∧
  (∀ (s s1 s2 s3 : State) (id asid va : Nat) (h cls tr : List Byte),
    let f := fun (o n : Nat) => leNat ((h.drop o).take n)
    s.sysRead 0 asid va 64 = (.ok h, s1) → s1.sysRead 0 asid (f 8 8) (f 4 4) = (.ok cls, s2) →
    s2.sysRead 0 asid (f 16 8) (4 * f 0 2 * f 2 2) = (.ok tr, s3) →
    let e := fun (k : Nat) => leNat ((tr.drop (4 * k)).take 4)
    (1 ≤ f 0 2 → f 0 2 ≤ 4096 → 1 ≤ f 2 2 → f 2 2 ≤ 256 → f 24 40 = 0 → (∀ c ∈ cls, c.toNat < f 2 2) →
      (∀ k, k < f 0 2 * f 2 2 → e k < 2 ^ 22 ∧ e k % 4096 < f 0 2) → id ≤ 0xfffe →
      ∃ a : Automaton, exec (.automatonRegister id asid va) s = .next (s3.updImp (fun i => { i with autos := Tab.set i.autos id a })) ∧
        a.states = f 0 2 ∧ a.classes = f 2 2 ∧ a.vocab = f 4 4 ∧ a.cls = cls.map BitVec.toNat ∧
        ∀ k, k < f 0 2 * f 2 2 → a.trans[k]? = some (BitVec.ofNat 32 (e k))) ∧
    (f 0 2 = 0 ∨ 4096 < f 0 2 ∨ f 2 2 = 0 ∨ 256 < f 2 2 ∨ f 24 40 ≠ 0 ∨ (∃ c ∈ cls, f 2 2 ≤ c.toNat) →
      ∃ t, exec (.automatonRegister id asid va) s = .next t ∧ t.imp = s.imp)) ∧
  (∀ (s : State) (l : List Byte), exec (.samplerTemplateRegister l) s = .next (s.updImp (fun i => { i with sampler := some l }))) ∧
  (∀ (s : State) (pages : List Nat), ∃ t, exec (.galleyPoolGrant pages) s = .next t ∧ { t with imp := s.imp } = s ∧
    { t.imp with free := s.imp.free } = s.imp ∧
    ∀ pg, pg ∈ t.imp.free ↔ pg ∈ s.imp.free ∨ (pg ∈ pages ∧ Tab.get 0 s.imp.shares pg = 0)) ∧
  (∀ (s : State) (b : Nat),
    (s.imp.step ≠ none → exec (.bindingWithdrawal b) s = .next (s.updImp (fun i => { i with withdrawn := i.withdrawn ++ [b] }))) ∧
    (s.imp.step = none → ∃ t, exec (.bindingWithdrawal b) s = .next t ∧ t.binding b = none) ∧
    (∀ p id g, s.imp.step = none → s.imp.progs = [(p, g)] → g.longCtx = some id → (s.cx id).binding = b → g.mask.getLsbD 5 = false →
      (s.cx id).forkBest = none → (s.cx id).forkCur = none →
      ∃ t, exec (.bindingWithdrawal b) s = .next t ∧ (t.prog p).run = .ready ∧ (t.prog p).status = 0x15 ∧ (t.prog p).pc = g.pc + 8 ∧
        (t.cx id).status = 0x15 ∧ (t.cx id).tokens = (s.cx id).tokens))

/-! ## Steps -/

/-- One program p is loaded, in a long instruction on context id with a slot; nothing is assisted, withdrawn or killed, and the context's
one page holds what it may commit. -/
structure Spec.Lone (s : State) (p id : Nat) (i : Instr) (b : Binding) : Prop where
  only : ∃ g, s.imp.progs = [(p, g)] ∧ g.run = .long i ∧ g.longCtx = some id ∧ g.killed = false ∧ g.intr = false ∧ g.turnNew = true ∧
    g.cls < 4 ∧ 1 ≤ g.weight
  bound : s.binding (s.cx id).binding = some b
  calm : s.svc = [] ∧ s.fmCtl = 0 ∧ s.imp.modes = 0 ∧ s.imp.withdrawn = []
  ctx : (s.cx id).accepted = none ∧ (s.cx id).reappend = false ∧ (s.cx id).forkBest = none ∧ (s.cx id).forkCur = none ∧
    (s.cx id).owner = p
  page : ∃ pg, (s.cx id).pages = [pg] ∧ Tab.get 0 s.imp.shares pg = 1 ∧ (s.cx id).tokens.length + ((s.cx id).feed.headD []).length < b.reg.tpp

/-- R10, R328, R329, R331 to R333, R366, R367, R407, R412: stage 1. A step in progress is left alone, and nothing runs before boot stage 3; a formed step holds at most 2,048 rows
by rising slot and at most stepmax tokens, and its number is one more; where no program is in a long instruction, whatever else the
programs do, none is formed, and the function modes are taken; one APPEND of up to 17 tokens gets a row of kind 0 with all but the last, where the buffers of its step, laid out
as log entry 15 chooses, can be written. -/
def Spec.StageOne : Prop :=
  (∀ s : State, s.imp.step ≠ none ∨ ¬ Spec.Booted s → exec .stepForm s = .next s) ∧
  (∀ (s t : State) (st : StepState), s.imp.step = none → exec .stepForm s = .next t → t.imp.step = some st →
    t.imp.stepNo = s.imp.stepNo + 1 ∧ 1 ≤ st.rows.length ∧ st.rows.length ≤ 2048 ∧ st.stage = 1 ∧
    (∀ r ∈ st.rows, r.ntok = r.toks.length ∧ r.nl ≤ r.ntok) ∧ (st.rows.map (·.slot)).Pairwise (· ≤ ·) ∧
    ((∀ e ∈ s.imp.ctxs, e.1 < s.imp.nextCtx) → (∀ p id, (s.prog p).longCtx = some id → id < s.imp.nextCtx ∧ (s.cx id).owner = p) →
      (st.rows.map (·.ntok)).sum ≤ max 2048 s.imp.stepmax.toNat)) ∧
  (∀ s : State, Spec.Booted s → s.imp.step = none → (∀ e ∈ s.imp.progs, ∀ i, e.2.run ≠ .long i) → s.imp.withdrawn = [] →
    ∃ t, exec .stepForm s = .next t ∧ t.imp.step = none ∧ t.imp.modes = s.fmCtl ∧ t.imp.stepNo = s.imp.stepNo ∧ t.mem = s.mem) ∧
  (∀ (s : State) (p id k : Nat) (text : Bool) (c : CReg) (r : SReg) (b : Binding) (l : List Nat), Spec.Booted s → s.imp.step = none →
    Spec.Lone s p id (.append text c r) b → (s.cx id).slot = some k → (s.cx id).progOp = 0x28 → (s.cx id).progDone = 0 → (s.cx id).feed = [l] →
    (s.cx id).tokens = [] → (s.cx id).written = 0 → 2 ≤ l.length → l.length ≤ 17 → 16 ≤ s.imp.quantum.toNat → s.imp.bufs = [] →
    s.imp.bufBase.toNat % 65536 = 0 →
    (∀ va, s.imp.bufBase.toNat ≤ va → va < s.imp.bufBase.toNat + 192 + 5 * l.length → ∃ pa, s.sysPlace 0 0 va .store = .ok pa ∧ s.isHere pa = true) →
    ∃ t st row, exec .stepForm s = .next t ∧ t.imp.step = some st ∧ st.rows = [row] ∧ st.lrows = [] ∧ row.ctx = id ∧ row.slot = k ∧
      row.toks = l.dropLast ∧ row.kind = 0 ∧ row.pos = 0 ∧ st.binding = (s.cx id).binding ∧ st.draft = false ∧
      t.imp.stepNo = s.imp.stepNo + 1)

/-- A token that an automaton allows from a context's Frisket fields, for a vocabulary of V (R394). -/
def Spec.Allowed (a : Automaton) (V : Nat) (f : Fri) (t : Nat) : Prop :=
  let e := (a.trans.getD (f.st.toNat * a.classes + a.cls.getD t 0) 0).toNat
  t < V ∧ t < a.vocab ∧ e / 2 ^ 12 % 4 ≠ 3 ∧
  (e / 2 ^ 12 % 4 = 2 → f.depth ≠ 0 ∧ f.stack.toNat / 2 ^ (8 * (f.depth.toNat - 1)) % 256 = e / 2 ^ 14 % 256)

/-- R10, R395, R387, R329: stages 2 and 3. A step that is not at the stage before is left alone. Stage 2 passes over unconstrained rows,
any number of them, in a step that is no draft; it settles a constrained one with at most one allowed token, and with more the mask holds a
one for each of them, where no write of it waits for another device (log entry 73). Stage 3 puts the step
graph's descriptor, with the batch descriptor and the queue in its args words, behind the tail of queue 0 of ASID 0. -/
def Spec.StagesTwoAndThree : Prop :=
  (∀ (s : State) (st : StepState), (s.imp.step = none ∨ (s.imp.step = some st ∧ st.stage ≠ 1)) → exec .frisketMasks s = .next s) ∧
  (∀ (s : State) (st : StepState), (s.imp.step = none ∨ (s.imp.step = some st ∧ st.stage ≠ 2)) → exec .stepGraphPlace s = .next s) ∧
  (∀ (s : State) (st : StepState), s.imp.step = some st → st.stage = 1 → s.svc = [] → s.imp.modes = 0 → st.draft = false →
    (∀ lr ∈ st.lrows, ∀ row, st.rows[lr.row]? = some row → ∃ id, (s.prog row.prog).longCtx = some id ∧ (s.cx id).fAuto = 0xffff) →
    exec .frisketMasks s = .next (s.updImp (fun i => { i with step := some { st with stage := 2 } }))) ∧
  (∀ (s : State) (st : StepState) (row : StepRow) (lr : LogitRow) (id : Nat) (a : Automaton), s.imp.step = some st → st.stage = 1 →
    s.svc = [] → s.imp.modes = 0 → st.lrows = [lr] → st.rows = [row] → lr.row = 0 → row.kind = 1 → st.draft = false → st.verify = false →
    (s.prog row.prog).longCtx = some id → (s.cx id).fAuto ≠ 0xffff → Tab.find s.imp.autos (s.cx id).fAuto.toNat = some a →
    (∀ q ∈ (State.masks s).sysReqs, q ∈ s.sysReqs) →
    let ok := fun (t : Nat) => Spec.Allowed a (s.vocab st.binding) ⟨(s.cx id).fState, (s.cx id).fDepth, (s.cx id).fStack⟩ t
    ((∀ t, ¬ ok t) → ∃ u st', exec .frisketMasks s = .next u ∧ u.imp.step = some st' ∧ st'.stage = 2 ∧
      st'.lrows = [{ lr with mode := 3, count := 0, settled := 0 }]) ∧
    (∀ y, ok y → (∀ t, ok t → t = y) → ∃ u st', exec .frisketMasks s = .next u ∧ u.imp.step = some st' ∧ st'.stage = 2 ∧
      st'.lrows = [{ lr with mode := 3, count := 1, settled := y }]) ∧
    (∀ x y, x ≠ y → ok x → ok y → ∃ u st' m, exec .frisketMasks s = .next u ∧ u.imp.step = some st' ∧ st'.stage = 2 ∧
      (∃ n : List Nat, n.Nodup ∧ (∀ t, t ∈ n ↔ ok t) ∧ st'.lrows = [{ lr with count := n.length }]) ∧ m.length = st.mpitch ∧ (∀ t, t < 8 * st.mpitch → ((m.getD (t / 8) 0).getLsbD (t % 8) = true ↔ ok t)) ∧
      u.mem = (s.sysWrite 0 0 st.mask m).2.mem)) ∧
  (∀ (s s1 : State) (st : StepState) (x : Binding) (d : List Byte), s.imp.step = some st → st.stage = 2 → st.lrows = [] →
    Tab.find s.imp.bindings st.binding = some x → x.reg.graph = [d] → (s.lq 0).tail < (s.lq 0).ents → (s.lq 0).head < (s.lq 0).ents →
    ((s.lq 0).tail + (s.lq 0).ents - (s.lq 0).head) % (s.lq 0).ents + 1 < (s.lq 0).ents →
    s.sysWrite 0 ((s.lq 0).cfg.toNat / 2 ^ 16 % 2 ^ 16) ((s.lq 0).base.toNat + 128 * (s.lq 0).tail)
      (d.take 80 ++ leBytes 8 (st.desc % 2 ^ 64) ++ leBytes 8 s.imp.sqDesc.toNat ++ d.drop 96) = (none, s1) →
    ∃ t st', exec .stepGraphPlace s = .next t ∧ t.imp.step = some st' ∧ st'.stage = 3 ∧ st'.sampler = none ∧
      st'.graph.length = 1 ∧ st'.rows = st.rows ∧ (t.lq 0).tail = ((s.lq 0).tail + 1) % (s.lq 0).ents ∧ t.mem = s1.mem)

/-- An FP32 pattern's value as an integer that orders finite ones: both zeros are 0. -/
def Spec.f32Key (b : Nat) : Int := if b < 2 ^ 31 then b else -((b : Int) - 2 ^ 31)

/-- R378, R381, R384: the Attic answers only rows that it has been asked for, outside its mode of R385. From a record without a mask it
computes the reply: POISON before NUMERIC, NO_TOKEN or the settled token of mode 3, and with temperature +0 the least token of the
greatest value. -/
def Spec.AtticReplies : Prop :=
  (∀ (s : State) (row : Nat) (v : Word), s.imp.modes.getLsbD 5 = false →
    (∀ st l, s.imp.step = some st → st.lrows[row]? = some l → l.asked = false ∨ l.reply ≠ none) → exec (.samplerReply row v) s = .next s) ∧
  (∀ (s s1 : State) (st : StepState) (row : Nat) (l : LogitRow) (v : Word) (b : List Byte), s.imp.step = some st → st.stage = 3 →
    st.lrows[row]? = some l → l.asked = true → l.reply = none → s.sysRead 0 0 (st.reqBase + 192 * row) 192 = (.ok b, s1) →
    let f := fun (o n : Nat) => leNat ((b.drop o).take n)
    let V := f 36 4
    let answers := fun (code tok : Nat) => ∃ t w, exec (.samplerReply row v) s = .next t ∧ w < 2 ^ 64 ∧ w % 2 ^ 32 = tok ∧
      w / 2 ^ 32 % 2 ^ 8 = code ∧ w / 2 ^ 40 = s.imp.stepNo.toNat % 2 ^ 24 ∧
      t.imp.step = some { st with lrows := st.lrows.set row { l with reply := some (BitVec.ofNat 64 w) } }
    f 48 8 = 0 →
    (∀ va s2, s1.sysRead 0 0 (st.logit + row * st.pitch) (4 * V) = (.error (.poison, va), s2) → answers 0x11 0) ∧
    (∀ lg s2, s1.sysRead 0 0 (st.logit + row * st.pitch) (4 * V) = (.ok lg, s2) →
      let x := fun (t : Nat) => leNat ((lg.drop (4 * t)).take 4)
      let bad := ∃ t, t < V ∧ x t / 2 ^ 23 % 2 ^ 8 = 255
      (bad → answers 0x10 0) ∧
      (¬ bad → f 40 1 = 3 → (f 42 2 = 0 → answers 0x12 0) ∧ (f 42 2 ≠ 0 → answers 0x01 (f 44 4))) ∧
      (¬ bad → f 40 1 = 0 → f 24 4 = 0 → 0 < V → ∃ y, y < V ∧ answers 0x01 y ∧
        (∀ t, t < V → Spec.f32Key (x t) ≤ Spec.f32Key (x y)) ∧ ∀ t, t < y → Spec.f32Key (x t) < Spec.f32Key (x y))))

/-- R10, R335, R367, R368, R379, R384: stage 7 and the replies before it. A step that lacks a reply, or one of whose graph's launches has not ended, commits nothing.
The APPEND of the row commits its tokens, and the last one with them; GENU commits its token, moves the draw index and emits it, and ends
with EOS at the end token. The first reply for a row of the current step is taken, every other is discarded; that a whole word stored at the row's place in the port
by any party is such a reply, and its step field the low 24 bits, is log entry 63, and the port's place and size are log entry 15. -/
def Spec.StageSeven : Prop :=
  (∀ s : State, s.imp.step = none → exec .stepCommit s = .next s) ∧
  (∀ (s : State) (st : StepState), s.imp.step = some st →
    (st.stage ≠ 3 ∨ (∃ l ∈ st.lrows, l.reply = none) ∨ ∃ k ∈ st.graph, ∀ l, s.launchOf k = some l → l.stage ≠ .ended) →
    exec .stepCommit s = .next s) ∧
  (∀ (s : State) (p id : Nat) (text : Bool) (c : CReg) (r : SReg) (b : Binding) (l : List Nat) (st : StepState) (row : StepRow),
    Spec.Lone s p id (.append text c r) b → s.imp.step = some st → st.stage = 3 → st.rows = [row] → st.lrows = [] → st.graph = [] →
    st.sampler = none → row.prog = p → row.ctx = id → (s.cx id).feed = [l] → (s.cx id).progDone = 0 → (s.cx id).tokens = [] →
    (s.cx id).written = 0 →
    (row.ntok + 1 = l.length → l.length < 2 ^ 32 → ∃ t, exec .stepCommit s = .next t ∧ t.imp.step = none ∧ (t.cx id).tokens = l ∧
      (t.cx id).written = l.length - 1 ∧ (t.cx id).status = 0x01 ∧ (t.prog p).run = .ready ∧ (t.prog p).pc = (s.prog p).pc + 8 ∧ t.mem = s.mem) ∧
    (row.ntok + 1 < l.length → l.length < 2 ^ 32 → ∃ t, exec .stepCommit s = .next t ∧ t.imp.step = none ∧
      (t.cx id).tokens = l.take row.ntok ∧ (t.cx id).progDone.toNat = row.ntok ∧ (t.prog p).run = (s.prog p).run ∧
      (t.prog p).pc = (s.prog p).pc ∧ t.mem = s.mem)) ∧
  (∀ (s : State) (p id y : Nat) (c : CReg) (out : SReg) (b : Binding) (st : StepState) (row : StepRow) (lr : LogitRow) (v : Word)
    (blk : GenBlk), Spec.Lone s p id (.genu true c out) b → s.imp.step = some st → st.stage = 3 → st.rows = [row] → st.lrows = [lr] →
    st.graph = [] → st.sampler = none → st.draft = false → row.prog = p → row.ctx = id → row.kind = 1 → lr.row = 0 → lr.mode = 0 →
    lr.reply = some v → v.toNat / 2 ^ 32 % 256 = 1 → v.toNat % 2 ^ 32 = y → (s.cx id).gblk = some blk → blk.stops = [] → blk.temp ≠ 0 →
    blk.spec = false → (s.cx id).fAuto = 0xffff → (s.prog p).s[out.toNat].data.length < 1048576 → (s.cx id).feed = [] →
    (s.cx id).tokens.length + 1 < b.reg.tpp → (s.cx id).progDone.toNat + 1 < blk.maxnew → blk.maxnew < 2 ^ 32 →
    (y ≠ blk.eos → ∃ t, exec .stepCommit s = .next t ∧ (t.cx id).tokens = (s.cx id).tokens ++ [y] ∧ (t.cx id).draw = (s.cx id).draw + 1 ∧
      (t.cx id).progDone = (s.cx id).progDone + 1 ∧ (t.prog p).s[out.toNat].data = (s.prog p).s[out.toNat].data ++ [y] ∧
      (t.prog p).run = (s.prog p).run ∧ t.imp.step = none) ∧
    (y = blk.eos → ∃ t, exec .stepCommit s = .next t ∧ (t.cx id).tokens = (s.cx id).tokens ++ [y] ∧ (t.cx id).status = 0x02 ∧
      (t.prog p).s[out.toNat].data = (s.prog p).s[out.toNat].data ∧ (t.prog p).run = .ready ∧ (t.prog p).pc = (s.prog p).pc + 8)) ∧
  (∀ (s : State) (st : StepState) (row : Nat) (l : LogitRow) (v : Word), s.imp.step = some st → st.lrows[row]? = some l →
    (st.stage = 3 → v.toNat / 2 ^ 40 = s.imp.stepNo.toNat % 2 ^ 24 → l.reply = none → s.takeReply row v =
      s.updImp (fun i => { i with step := some { st with lrows := st.lrows.set row { l with reply := some v } } })) ∧
    (st.stage ≠ 3 ∨ v.toNat / 2 ^ 40 ≠ s.imp.stepNo.toNat % 2 ^ 24 ∨ l.reply ≠ none → s.takeReply row v = s) ∧
    (∀ src pa scalar tag, s.portRow pa = some row → pa % 8 = 0 →
      s.storeHome src scalar pa (leBytes 8 v.toNat) tag = s.takeReply row v)) ∧
  Spec.AtticReplies ∧
  (∀ (s : State) (st : StepState) (row : Nat) (l : LogitRow), s.imp.step = some st → st.lrows[row]? = some l →
    (∀ at', s.imp.sqEn = true → st.stage = 3 → l.reply = none → l.asked = false → l.posted = some at' → at' + s.imp.sqTime.toNat ≤ s.now →
      row < 65536 → ∃ t r, exec (.samplingTimeout row) s = .next t ∧ t.svc = s.svc ++ [r] ∧ r.func = 5 ∧ r.addr = st.reqBase + 192 * row ∧
        r.done = false ∧ t.mem = s.mem ∧ t.cells = s.cells) ∧
    (s.imp.sqEn = false ∨ l.reply ≠ none ∨ l.asked = true ∨ l.posted = none ∨ (∃ at', l.posted = some at' ∧ s.now < at' + s.imp.sqTime.toNat) →
      exec (.samplingTimeout row) s = .next s))

/-- R10, R328, R329, R331 to R333, R335, R366 to R368, R379, R384, R378, R387, R394, R395, R412: the stages of a step. -/
def Obligations.ImposerSteps : Prop := Spec.StageOne ∧ Spec.StagesTwoAndThree ∧ Spec.StageSeven

/-- `top` holds the n tokens of A with the greatest weights, the lower index first among equals. -/
structure Spec.Ranks (wt : Nat → Nat) (A : List Nat) (n : Nat) (top : List Nat) : Prop where
  within : top.Nodup ∧ ∀ t ∈ top, t ∈ A
  size : top.length = n
  best : ∀ t ∈ top, ∀ u ∈ A, u ∉ top → wt u < wt t ∨ (wt u = wt t ∧ t < u)

/-- The tokens that top-k and top-p keep of A by their weights (R378): first the best min(K, |A|), or all with K = 0; then, where P is below
65,536, the fewest best of these whose sum reaches P of 65,536 parts of theirs. -/
def Spec.Kept (wt unit : Nat → Nat) (K P : Nat) (A kept : List Nat) : Prop :=
  ∃ top, Spec.Ranks wt A (if K = 0 then A.length else min K A.length) top ∧
    (P = 65536 → kept.Nodup ∧ ∀ t, t ∈ kept ↔ t ∈ top) ∧
    (P < 65536 → Spec.Ranks wt top kept.length kept ∧ P * (top.map unit).sum ≤ (kept.map unit).sum * 65536 ∧
      ∃ z ∈ kept, ((kept.map unit).sum - unit z) * 65536 < P * (top.map unit).sum ∧
        ∀ t ∈ kept, wt z < wt t ∨ (wt z = wt t ∧ t ≤ z))

/-- A draw against weights: the least token whose prefix sum exceeds u parts of 2^32 of their total (R378). -/
def Spec.Draws (u : Nat) (v : List Nat) (y : Nat) : Prop :=
  (v.take y).sum * 2 ^ 32 ≤ u * v.sum ∧ u * v.sum < (v.take (y + 1)).sum * 2 ^ 32

/-- R378, R381: the sampling function. The weights of a row are those of the tokens that top-k and top-p keep, 0 elsewhere, and that of a
token with the greatest value before them is 1.0; a draw takes the least token whose prefix sum exceeds its part of the total; POISON comes
before NUMERIC, then mode 3; with a temperature mode 0 gives one draw, mode 1 the weights and its children's draws, mode 2 the weights. -/
def Obligations.SamplingFunction : Prop :=
  (∀ (row : List Nat) (k K P : Nat) (A : List Nat), A.Pairwise (· < ·) → A ≠ [] → (∀ t ∈ A, t < row.length) → 1 ≤ P → P ≤ 65536 →
    (∀ x ∈ row, x < 2 ^ 32 ∧ x / 2 ^ 23 % 2 ^ 8 ≠ 255) →
    ∃ m ∈ A, (∀ t ∈ A, Spec.f32Key (row.getD t 0) ≤ Spec.f32Key (row.getD m 0)) ∧ expWeight k (row.getD m 0) (row.getD m 0) = 0x3f800000 ∧
      ∃ kept, (let wt := fun (t : Nat) => expWeight k (row.getD m 0) (row.getD t 0)
        Spec.Kept wt (fun t => weightUnit (wt t)) K P A kept ∧
        rowWeights row k K P A = (List.range row.length).map (fun t => if t ∈ kept then wt t else 0))) ∧
  (∀ (u : Nat) (v : List Nat), u < 2 ^ 32 → 0 < v.sum → ∃ y, y < v.length ∧ pickToken u v.sum 0 0 v = some y ∧ Spec.Draws u v y) ∧
  (∀ (q : SampleReq) (row A : List Nat),
    let bad := ∃ x ∈ row, x / 2 ^ 23 % 2 ^ 8 = 255
    let w := rowWeights row q.k q.topk q.topp A
    let v := w.map weightUnit
    let u := fun (d : Word) => (draw q.seed q.seqn d).toNat
    sampleRow q row true A = ⟨0x11, 0, none, []⟩ ∧ (bad → sampleRow q row false A = ⟨0x10, 0, none, []⟩) ∧
    (¬ bad → q.mode = 3 → sampleRow q row false A = if q.count = 0 then ⟨0x12, 0, none, []⟩ else ⟨0x01, q.settled, none, []⟩) ∧
    (¬ bad → q.temp ≠ 0 → 0 < v.sum →
      (q.mode = 0 → ∃ y, sampleRow q row false A = ⟨0x01, y, none, []⟩ ∧ Spec.Draws (u q.idx) v y) ∧
      (q.mode = 1 → ∃ ys : List Nat, sampleRow q row false A = ⟨0x02, 0, some w, ys⟩ ∧ ys.length = q.childs ∧
        ∀ i y, ys[i]? = some y → Spec.Draws (u (q.idx + BitVec.ofNat 64 i)) v y) ∧
      (q.mode = 2 → sampleRow q row false A = ⟨0x03, 0, some w, []⟩)))

/-- A pair of tokens stands at a place of the merge table (R388), which is its rank. -/
def Spec.PairAt (t : CompTables) (r x y : Nat) : Prop := ∃ m, t.merges[r]? = some m ∧ m.1.toNat = x ∧ m.2.1.toNat = y

/-- A piece's tokens come to others by the loop of R389: while an adjacent pair is in the table, the leftmost pair of least rank becomes its
merged token. -/
inductive Spec.Merges (t : CompTables) : List Nat → List Nat → Prop where
  | done (p : List Nat) : (∀ u x y v r, p = u ++ x :: y :: v → ¬ Spec.PairAt t r x y) → Spec.Merges t p p
  | one (u v q : List Nat) (x y r m : Nat) : Spec.PairAt t r x y → (t.merges[r]?).map (·.2.2.toNat) = some m →
      (∀ u' a b v' k, u ++ x :: y :: v = u' ++ a :: b :: v' → Spec.PairAt t k a b → r ≤ k) →
      (∀ u' v', u ++ x :: y :: v = u' ++ x :: y :: v' → u.length ≤ u'.length) → Spec.Merges t (u ++ m :: v) q →
      Spec.Merges t (u ++ x :: y :: v) q

/-- R389 to R391, R394: TOKZ cuts its bytes into pieces without loss, and each piece's byte tokens come to its part of the result by merges
of least rank, leftmost first, until no adjacent pair is in the table; DETOK joins the
tokens' bytes; a stop string's count is the longest prefix that the matched bytes and the new one end with; a committed token moves the
Frisket, unless it would push onto a full stack. -/
def Obligations.TextAndFrisket : Prop :=
  (∀ (t : CompTables) (b : List Nat), ∃ ps : List (List Nat), ps.flatten = b ∧ ([] : List Nat) ∉ ps ∧
    (∀ u x y v, b = u ++ x :: y :: v →
      let e := fun (b : Nat) => (t.split.getD b 0).toNat
      let cut := e x % 2 ^ 8 ≠ e y % 2 ^ 8 ∨ e x / 2 ^ 8 % 2 = 1 ∨ e y / 2 ^ 8 % 2 = 1
      (cut ↔ ∃ k, (ps.take k).flatten = u ++ [x])) ∧
    ∃ qs : List (List Nat), t.tokz b = qs.flatten ∧ qs.length = ps.length ∧
      ∀ (i : Nat) (p q : List Nat), ps[i]? = some p → qs[i]? = some q → Spec.Merges t (p.map (fun x => (t.byteTok.getD x 0).toNat)) q) ∧
  (∀ (t : CompTables) (k l : List Nat), t.detok (k ++ l) = t.detok k ++ t.detok l) ∧
  (∀ (t : CompTables) (y : Nat) (w : Word), t.tokBytes[y]? = some w → w.toNat < 2 ^ 48 →
    t.detok [y] = ((t.pool.drop (w.toNat % 2 ^ 32)).take (w.toNat / 2 ^ 32)).map BitVec.toNat) ∧
  (∀ (str : List Nat) (c x : Nat), c ≤ str.length →
    let j := nextCount str c x
    j ≤ str.length ∧ str.take j <:+ (str.take c ++ [x]) ∧ ∀ i, i ≤ str.length → str.take i <:+ (str.take c ++ [x]) → i ≤ j) ∧
  (∀ (a : Automaton) (f : Fri) (t : Nat),
    let e := (a.trans.getD (f.st.toNat * a.classes + a.cls.getD t 0) 0).toNat
    f.depth.toNat ≤ 8 →
    (e / 2 ^ 12 % 4 = 1 → f.depth = 8 → a.move f t = none) ∧
    (e / 2 ^ 12 % 4 = 1 → f.depth.toNat < 8 → ∃ g, a.move f t = some g ∧ g.st.toNat = e % 4096 ∧ g.depth.toNat = f.depth.toNat + 1 ∧
      g.stack.toNat / 2 ^ (8 * f.depth.toNat) % 256 = e / 2 ^ 14 % 256 ∧
      ∀ i, i < 8 → i ≠ f.depth.toNat → g.stack.toNat / 2 ^ (8 * i) % 256 = f.stack.toNat / 2 ^ (8 * i) % 256) ∧
    (e / 2 ^ 12 % 4 = 2 → f.depth ≠ 0 → ∃ g, a.move f t = some g ∧ g.st.toNat = e % 4096 ∧ g.depth.toNat = f.depth.toNat - 1 ∧
      g.stack.toNat / 2 ^ (8 * (f.depth.toNat - 1)) % 256 = 0 ∧
      ∀ i, i < 8 → i ≠ f.depth.toNat - 1 → g.stack.toNat / 2 ^ (8 * i) % 256 = f.stack.toNat / 2 ^ (8 * i) % 256) ∧
    (e / 2 ^ 12 % 4 = 0 → ∃ g, a.move f t = some g ∧ g.st.toNat = e % 4096 ∧ g.depth = f.depth ∧ g.stack = f.stack))

/-! ## Encodings -/

/-- Words of the spec's worked encodings with the instructions that they stand for: single words with 0 for the second. -/
def Spec.words : List (BitVec 32 × BitVec 32 × Instr) :=
  let none' : EngKeys := ⟨0, none⟩
  [(0x08a50001, 0, .addi 5 5 1), (0x04e72800, 0, .add 7 7 5), (0x64a6fffe, 0, .bne 5 6 0xfffe), (0xa8000000, 0, .nop),
   (0x40a62010, 0, .ld .s32 5 6 16), (0x50000212, 0, .fence .rel .device), (0x7c04000e, 0, .loopi 16 3), (0x81280802, 0, .send 9 8 1 2),
   (0x840848a8, 0, .rap .f32 .max false .die 0 8 9), (0x88053209, 0, .bind 9 1 5 6), (0x9c000001, 0, .endAct true),
   (0xa0a0000a, 0, .mfs 5 0x00a),
   (0xc4018440, 0x09b08000, .vadd ⟨0x09, some 5⟩ .f32 3 1 2 none .rne), (0xc04204c2, 0x00308900, .vgth ⟨0, some 1⟩ .f32 4 1 6 2 false (some 1)),
   (0xcc40a000, 0x00027011, .vxrnd none' .bf16 1 8 17 .rtz), (0xd0348c00, 0x00006014, .vmx none' (.get .n32 5 9 3)),
   (0xf002990a, 0x00500000, .cpy ⟨0, some 2⟩ 5 6 8 10), (0xf012068a, 0x00310000, .cpyg ⟨0, some 1⟩ 4 1 20 10 true),
   (0xf04328eb, 0x0000c000, .cpyc none' .xa .add 6 10 7 11), (0xf40298e8, 0x00000083, .claim none' 5 6 7 8 3 true),
   (0xf4428000, 0x06000000, .twait 0x06 5)]

/-- Crium words of the spec's worked encodings. -/
def Spec.criumWords : List (BitVec 64 × Instr) :=
  [(0x3100000000000001, .setfr 0 0 1 0 0), (0x2900200100000000, .genu true 0 2), (0x420c000000000000, .stat false 3),
   (0x080c400100000005, .br .ne 3 4 5), (0x1514000000000006, .cget 5 0 6), (0x31005000800b0001, .setfr 0 5 1 11 8)]

/-- Words that the spec says the decoder refuses: reserved and unassigned codes, a token without its valid bit, a rounding code, bits that
must be zero, register groups that do not fit. -/
def Spec.refused : List (BitVec 32 × BitVec 32) :=
  [(0x00000000, 0), (0xb0000000, 0), (0x04e72819, 0), (0xc4018440, 0x00208000), (0xc4018440, 0x000a8000), (0x18000045, 0),
   (0xc04204c3, 0x00308900), (0xcc31a000, 0x0000c000), (0xcc40a000, 0x00027020), (0xf0029bea, 0), (0xf04328eb, 0x0000c001),
   (0xf4428000, 0), (0xf4300000, 0)]

/-- R163, R164, R168, R169, R173, R228, R268, R178, R179, R344, R346: the words of the spec's worked encodings decode to the instructions
they stand for, and the words it says are refused are refused. -/
def Obligations.DecodeWords : Prop :=
  (∀ p ∈ Spec.words, decodeDamvon 32 p.1 p.2.1 = .ok p.2.2) ∧ (∀ p ∈ Spec.criumWords, decodeCrium p.1 = .ok p.2) ∧
  (∀ p ∈ Spec.refused, decodeDamvon 32 p.1 p.2 = .illegal) ∧ decodeDamvon 32 0xc4018440 0x0000e000 = .pointer ∧
  decodeDamvon 32 0xf002990a 0x0000f000 = .pointer ∧ decodeDamvon 1 0xc4008400 0x00008000 = .illegal

/-- An instruction of agent programs that has an encoding. -/
inductive Spec.Agent : Instr → Prop where
  | quiet (i : Instr) (d : Option NReg) (h : Spec.AgentQuiet i d) : Spec.Agent i
  | cfork (c b : CReg) (r : NReg) : Spec.Agent (.cfork c b r)
  | sst (x : SReg) (r : NReg) : Spec.Agent (.sst x r)
  | append (t : Bool) (c : CReg) (x : SReg) : Spec.Agent (.append t c x)
  | genu (t : Bool) (c : CReg) (x : SReg) : Spec.Agent (.genu t c x)
  | score (t : Bool) (q : QReg) (c : CReg) (x : SReg) : Spec.Agent (.score t q c x)
  | choose (t : Bool) (d : NReg) (c : CReg) (x : SReg) (k : BitVec 8) (q : QReg) : Spec.Agent (.choose t d c x k q)

/-- R160, R163, R164: for every well-formed instruction of the cores with an encoding, at every value of its operands, decoding its words
gives it back, and it takes two words exactly where its major says so (R158). -/
def Obligations.DamvonRoundTrip : Prop :=
  ∀ i : Instr, i.wf = true → encode i ≠ [] → ¬ Spec.Agent i →
    decodeEncoded (encode i) = .ok i ∧ ∀ w ws, encode i = w :: ws → ws.length = if 0x30 ≤ w.toNat / 2 ^ 26 then 1 else 0

/-- R343, R344, R346: for every well-formed instruction of agent programs with an encoding, decoding its word gives it back. -/
def Obligations.CriumRoundTrip : Prop :=
  ∀ i : Instr, i.wf = true → encode i ≠ [] → Spec.Agent i → decodeEncodedCrium (encode i) = .ok i

/-- R159, R164, R228, R268, R299, R344, R223: a word has one meaning. What decodes is well-formed, names no vector register beyond the
budget, and has these words as its encoding, so that every bit which no field uses was zero. -/
def Obligations.WordsHaveOneMeaning : Prop :=
  (∀ (vregs : Nat) (w0 w1 : BitVec 32) (i : Instr), decodeDamvon vregs w0 w1 = .ok i → i.wf = true ∧ i.vregsOk vregs = true ∧
    encode i = if 0x30 ≤ w0.toNat / 2 ^ 26 then [w0, w1] else [w0]) ∧
  (∀ (w : BitVec 64) (i : Instr), decodeCrium w = .ok i → i.wf = true ∧ encode i = [w.extractLsb' 0 32, w.extractLsb' 32 32])

/-! ## Invariants -/

/-- R6, R89 and the model's memory (log entry 4): at reset memory and poison bits are in their canonical form. -/
def Obligations.CanonAtReset : Prop := State.reset.Canon ∧ ∀ a, State.reset.readB a = 0 ∧ State.reset.poisoned a = false

/-- The canonical form of memory and of the poison bits (log entry 4) is kept by every step of every state that has it: addresses rise, no
byte is listed that equals what an unlisted address reads as, and no line is marked twice. -/
def Obligations.StepKeepsCanon : Prop := ∀ s t : State, s.Canon → step s = .next t → t.Canon

/-- R317, R318, R133, R136, R382: an instruction of a cell changes nothing of the Imposer but the replies and posts of a step in progress, and no
other cell's registers, queues, engines, bellboard
or held items; an instruction of an agent program changes none of any cell, and no launch or packet. -/
def Obligations.Isolation : Prop :=
  (∀ (s t : State) (i : Instr), encode i ≠ [] → ¬ Spec.Agent i → exec i s = .next t →
    { t.imp with step := s.imp.step } = s.imp ∧ (s.imp.step = none → t.imp = s.imp) ∧ ∀ c, c ≠ s.actCell → t.ctx c = s.ctx c) ∧
  (∀ (s t : State) (i : Instr), encode i ≠ [] → Spec.Agent i → exec i s = .next t →
    (∀ c, t.ctx c = s.ctx c) ∧ t.net = s.net ∧ t.launches = s.launches ∧ t.queues = s.queues)

/-! ## Reductions, conversions, draws and histograms -/

/-- The draw function of R63, on numbers. -/
def Spec.drawN (seed seqn i : Nat) : Nat :=
  let w := 2 ^ 64
  let k1 := 0x8f3c5a17e2b964d1
  let k2 := 0xa4d91c7e53f2b08b
  let k3 := 0xc62e97a50d4bf317
  let k4 := 0xe9b13f68a27cd455
  let h0 := Nat.xor (Nat.xor seed (Nat.xor seqn k4 * k1 % w)) (Nat.xor i k3 * k2 % w)
  let round := fun (h k : Nat) =>
    let a := Nat.xor h (h / 2 ^ 29) * k % w
    Nat.xor a (a / 2 ^ 32)
  round (round (round (round h0 k1) k2) k3) k4 / 2 ^ 32

/-- The integer of R42 that a value becomes in type t: saturated to its range, as the bits of a lane. -/
def Spec.narrow (t : LaneTy) (v : Int) : Nat :=
  let lo : Int := if t.isSigned then -(2 ^ (t.width - 1)) else 0
  let hi : Int := if t.isSigned then 2 ^ (t.width - 1) - 1 else 2 ^ t.width - 1
  (max lo (min hi v) % 2 ^ t.width).toNat

/-- The clip exponent of R58 for a histogram h and percentile p. -/
def Spec.ClipIs (h : Nat → Nat) (p b : Nat) : Prop :=
  let upto := fun (k : Nat) => ((List.range (k + 1)).map h).sum
  let T := (p * upto 254 + 65535) / 65536
  b ≤ 254 ∧ T ≤ upto b ∧ ∀ k, k < b → upto k < T

/-- R63, R238, R42, R242, R245, R247, R252, R253, R57, R58: VRNG draws a lane from its operands; VCVT copies equal types and saturates
between integers; VXADD adds a pair exactly; VREDM finds the greatest or least integer with the lowest lane that holds it; QHIST counts
each active lane's exponent with saturation; QSCALE finds the clip exponent; a table that another engine writes meanwhile is not part of
these two clauses (R108). That QHIST and QSCALE drop bits [63:52] of the address is the model's choice (log entry 84). -/
def Obligations.ReductionsAndHistograms : Prop :=
  (∀ seed seqn i : Word, (draw seed seqn i).toNat = Spec.drawN seed.toNat seqn.toNat i.toNat) ∧
  ∀ (s : State) (c : Nat) (o : EngOp) (rest : List EngOp) (k : EngKeys) (vd va : VReg) (m : Option KReg) (r : Rnd) (xa xb xc : XReg),
    let e := (s.ctx c).vec
    let x := fun (j : Nat) => o.xs.getD j 0
    (o.ins = .vrng k vd xa xb xc m →
      Spec.LanesCome s c o rest .n32 vd m false (fun l => Spec.drawN (x 1).toNat (x 2).toNat (((x 3).toNat + l) % 2 ^ 64))) ∧
    (∀ t : LaneTy, o.ins = .vcvt k t t vd va 0 m r → Spec.LanesCome s c o rest t vd m (e.vtag va) (fun l => laneOf t.width (e.reg va) l)) ∧
    (∀ td ts : LaneTy, td ≠ ts → td.isFloat = false → ts.isFloat = false → td.lanes = ts.lanes → o.ins = .vcvt k td ts vd va 0 m r →
      Spec.LanesCome s c o rest td vd m (e.vtag va) (fun l => Spec.narrow td (Spec.int ts (laneOf ts.width (e.reg va) l)))) ∧
    (Spec.VecReady s c o rest → vd.toNat % 2 = 0 → va.toNat % 2 = 0 → o.ins = .vxadd k vd va → (e.pair va).nan = false →
      (e.pair va).pinf = false → (e.pair va).ninf = false →
      let sum : Int := (e.pair vd).x.toInt + (e.pair va).x.toInt
      (-(2 ^ 575) ≤ sum → sum < 2 ^ 575 → ∃ e', exec (.vectorOpStart c) s = .next (Spec.vecDone s c o rest e' []) ∧
        e'.pair vd = { e.pair vd with x := BitVec.ofInt 576 sum } ∧ e'.k = e.k ∧
        ∀ q : VReg, q.toNat / 2 ≠ vd.toNat / 2 → e'.reg q = e.reg q) ∧
      ((sum < -(2 ^ 575) ∨ 2 ^ 575 ≤ sum) → ∃ u f, exec (.vectorOpStart c) s = .next u ∧ (u.ctx c).vec.fault = some f ∧ f.cause = 0x0a ∧
        (u.ctx c).vec.pair vd = { e.pair vd with cg := true })) ∧
    (∀ (t : RedTy) (isMin : Bool), (RedTy.lane t).isFloat = false → Spec.VecReady s c o rest → o.ins = .vredm k t vd va isMin none →
      let v := fun (l : Nat) => Spec.int (RedTy.lane t) (laneOf 32 (e.reg va) l)
      ∃ e' j, exec (.vectorOpStart c) s = .next (Spec.vecDone s c o rest e' []) ∧ j < 16 ∧
        e'.reg vd = BitVec.ofNat 512 (laneOf 32 (e.reg va) j + j * 2 ^ 32) ∧ e'.vtag vd = e.vtag va ∧
        (∀ l, l < 16 → if isMin then v j ≤ v l else v l ≤ v j) ∧ (∀ l, l < j → v l ≠ v j) ∧ ∀ q, q ≠ vd → e'.reg q = e.reg q) ∧
    (∀ t : FloatTy, Spec.VecReady s c o rest → (s.ctx c).proof = false → Memory.wf s.mem = true → o.ins = .qhist k t xa va m →
      let a := (x 0).toNat % 2 ^ 52
      let bin := fun (l : Nat) => laneOf t.width (e.reg va) l / (if t.width = 32 then 2 ^ 23 else 2 ^ 7) % 256
      (a % 4 = 0 → (s.core c).xoTop ≤ a → a + 1024 ≤ (s.cell c).fpCap → Spec.Alone s c 1 (spBase c + a) 1024 →
        ∃ u, exec (.vectorOpStart c) s = .next u ∧ (u.ctx c).vec.queue = { o with started := true, writes := [] } :: rest ∧
        ∀ b, b < 256 → u.readNat (spBase c + a + 4 * b) 4 = min (s.readNat (spBase c + a + 4 * b) 4 +
          ((List.range t.lane.lanes).filter (fun l => m.all (fun kj => (e.mask kj).getLsbD l) && bin l = b)).length) (2 ^ 32 - 1)) ∧
      ((a % 4 ≠ 0 ∨ a < (s.core c).xoTop ∨ (s.cell c).fpCap < a + 1024) → ∃ u f, exec (.vectorOpStart c) s = .next u ∧
        (u.ctx c).vec.fault = some f ∧ f.cause = 0x13 ∧ f.addr = BitVec.ofNat 64 a ∧ u.mem = s.mem)) ∧
    (Spec.VecReady s c o rest → o.ins = .qscale k xa xb xc →
      let a := (x 1).toNat % 2 ^ 52
      a % 4 = 0 → (s.core c).xoTop ≤ a → a + 1024 ≤ (s.cell c).fpCap → Spec.Alone s c 1 (spBase c + a) 1024 → ∃ u w, exec (.vectorOpStart c) s = .next u ∧
        (u.ctx c).vec.queue = { o with started := true, writes := [(xa.toNat, w)] } :: rest ∧ u.mem = s.mem ∧
        Spec.ClipIs (fun b => s.readNat (spBase c + a + 4 * b) 4) (min (x 2).toNat 65536) w.toNat)

/-! ## Statements in several parts -/

/-- R200, R201: the integer operations on registers and immediates, their values and where they go. -/
def Obligations.IntegerOperations : Prop := Spec.IntegerResults ∧ Spec.ImmediateResults

/-- R207, R208, R209: branches, jumps and hardware loops. -/
def Obligations.ControlTransfers : Prop := Spec.Branches ∧ Spec.Jumps ∧ Spec.Loops

/-- R95, R139, R112: the performing of buffered stores, at the home and at another cell or device. -/
def Obligations.StoresPerform : Prop := Spec.StorePerforms ∧ Spec.RemoteStores

/-- R205, R139, R212, R110, R111: atomic operations on the own scratchpad, RAP and remote requests where they apply. -/
def Obligations.Atomics : Prop := Spec.AtomicsLocal ∧ Spec.RemoteArithmetic

/-- R211, R139, R140, R214, R198, R212: the packets of SEND and RAP. -/
def Obligations.MessagesSent : Prop := Spec.Sends ∧ Spec.RapPackets

/-- R216, R199, R122, R215: END and WAITB. -/
def Obligations.ActivationEnds : Prop := Spec.EndOfActivation ∧ Spec.WaitOnBarrier

/-- R193, R194, R213, R214: the bellboard's instructions and the events that count it down. That BIND reads all 64 bits of rb as a signed
number is log entry 36. -/
def Obligations.Bellboard : Prop := Spec.BellboardLoops ∧ Spec.BellboardInstructions

/-- R210, R186, R124, R190, R113, R6: MFS and MTS. -/
def Obligations.SpecialRegisters : Prop := Spec.SpecialReads ∧ Spec.SpecialWrites

/-- R343, R345, R347, R133: a step of a program and a step of an event. -/
def Obligations.OtherSteps : Prop := Spec.ProgramStep ∧ Spec.EventStep

/-- R128, R129, R69, R410: promotion in the run queues, the watchdog, and requests that nobody answers. -/
def Obligations.Timeouts : Prop := Spec.PromotionAndHang ∧ Spec.StairRequests

/-- R141, R139, R142: killing a retriable activation, and abandoning one that is not. -/
def Obligations.Kills : Prop := Spec.KillRetriable ∧ Spec.KillAbandons

/-- R134, R138, R137: the fault packet and the actions that answer it. -/
def Obligations.FaultsAndResumes : Prop := Spec.FaultPackets ∧ Spec.ResumeActions

/-- R234, R235, R220, R222, R227, R237, R248, R249, R239: arithmetic and moves of lanes. -/
def Obligations.LaneOperations : Prop := Spec.LaneArithmetic ∧ Spec.LaneMoves

/-- R282, R264, R225, R226, R295: TWAIT and the completion of engine operations. -/
def Obligations.TokensAndCompletion : Prop := Spec.TokenWait ∧ Spec.EngineCompletion

/-- R279, R280, R281, R271, R133, R262, R264, R267: the start and the end of copies. -/
def Obligations.Copies : Prop := Spec.CopyStart ∧ Spec.CopyComplete

/-- R80, R82, R87, R86, R84: page walks, pins and invalidations. -/
def Obligations.Translation : Prop := Spec.PageWalks ∧ Spec.PinsAndInvalidations

/-- R151, R152, R153, R154, R155, R157: retired units, the in-field test and impressions. -/
def Obligations.RetirementAndTests : Prop := Spec.Retirement ∧ Spec.TestsAndImpressions

/-- R148, R149, R137, R143: live migration and proof pairs. -/
def Obligations.MigrationAndProofs : Prop := Spec.Migration ∧ Spec.ProofPairs

/-- R353, R354, R346, R375, R376, R347, R345, R348, R374: integer, control and system instructions of agent programs. -/
def Obligations.AgentOperations : Prop := Spec.AgentIntegers ∧ Spec.AgentControl

/-- R356, R357, R358, R359, R320, R355, R363, R364, R365: contexts of agent programs, and the stops of instructions that need one. -/
def Obligations.ContextInstructions : Prop := Spec.AgentContexts ∧ Spec.ContextStops
end

