-- ==== Sys2Proof/Laws/State.lean ====
section
/-! SUPPORT. Reads of the state after its named updates: a part that an update does not reach is unchanged, and the part it reaches is
what it says. -/

namespace Sys2Proof.Machine

/-! ## Fields -/

@[simp] theorem State.updCell_agenda (s : State) (c : Nat) (f : Cell → Cell) : (s.updCell c f).agenda = s.agenda := rfl
@[simp] theorem State.updCell_actCell (s : State) (c : Nat) (f : Cell → Cell) : (s.updCell c f).actCell = s.actCell := rfl
@[simp] theorem State.updCell_actProg (s : State) (c : Nat) (f : Cell → Cell) : (s.updCell c f).actProg = s.actProg := rfl
@[simp] theorem State.updCell_tick (s : State) (c : Nat) (f : Cell → Cell) : (s.updCell c f).tick = s.tick := rfl
@[simp] theorem State.updCell_now (s : State) (c : Nat) (f : Cell → Cell) : (s.updCell c f).now = s.now := rfl
@[simp] theorem State.updCell_mem (s : State) (c : Nat) (f : Cell → Cell) : (s.updCell c f).mem = s.mem := rfl
@[simp] theorem State.updCell_poison (s : State) (c : Nat) (f : Cell → Cell) : (s.updCell c f).poison = s.poison := rfl
@[simp] theorem State.updCell_dists (s : State) (c : Nat) (f : Cell → Cell) : (s.updCell c f).dists = s.dists := rfl
@[simp] theorem State.updCell_dies (s : State) (c : Nat) (f : Cell → Cell) : (s.updCell c f).dies = s.dies := rfl
@[simp] theorem State.updCell_memStacks (s : State) (c : Nat) (f : Cell → Cell) : (s.updCell c f).memStacks = s.memStacks := rfl
@[simp] theorem State.updCell_net (s : State) (c : Nat) (f : Cell → Cell) : (s.updCell c f).net = s.net := rfl
@[simp] theorem State.updCell_stair (s : State) (c : Nat) (f : Cell → Cell) : (s.updCell c f).stair = s.stair := rfl
@[simp] theorem State.updCell_sysReqs (s : State) (c : Nat) (f : Cell → Cell) : (s.updCell c f).sysReqs = s.sysReqs := rfl
@[simp] theorem State.updCell_queues (s : State) (c : Nat) (f : Cell → Cell) : (s.updCell c f).queues = s.queues := rfl
@[simp] theorem State.updCell_launches (s : State) (c : Nat) (f : Cell → Cell) : (s.updCell c f).launches = s.launches := rfl
@[simp] theorem State.updCell_turns (s : State) (c : Nat) (f : Cell → Cell) : (s.updCell c f).turns = s.turns := rfl
@[simp] theorem State.updCell_ppGate (s : State) (c : Nat) (f : Cell → Cell) : (s.updCell c f).ppGate = s.ppGate := rfl
@[simp] theorem State.updCell_ppIdle (s : State) (c : Nat) (f : Cell → Cell) : (s.updCell c f).ppIdle = s.ppIdle := rfl
@[simp] theorem State.updCell_ppWake (s : State) (c : Nat) (f : Cell → Cell) : (s.updCell c f).ppWake = s.ppWake := rfl
@[simp] theorem State.updCell_imp (s : State) (c : Nat) (f : Cell → Cell) : (s.updCell c f).imp = s.imp := rfl
@[simp] theorem State.updCell_fmCtl (s : State) (c : Nat) (f : Cell → Cell) : (s.updCell c f).fmCtl = s.fmCtl := rfl
@[simp] theorem State.updCell_svc (s : State) (c : Nat) (f : Cell → Cell) : (s.updCell c f).svc = s.svc := rfl
@[simp] theorem State.updCell_svcNext (s : State) (c : Nat) (f : Cell → Cell) : (s.updCell c f).svcNext = s.svcNext := rfl
@[simp] theorem State.updCell_idNode (s : State) (c : Nat) (f : Cell → Cell) : (s.updCell c f).idNode = s.idNode := rfl
@[simp] theorem State.updCell_bsCause (s : State) (c : Nat) (f : Cell → Cell) : (s.updCell c f).bsCause = s.bsCause := rfl
@[simp] theorem State.updCell_bsStage (s : State) (c : Nat) (f : Cell → Cell) : (s.updCell c f).bsStage = s.bsStage := rfl
@[simp] theorem State.updCell_bsDone (s : State) (c : Nat) (f : Cell → Cell) : (s.updCell c f).bsDone = s.bsDone := rfl
@[simp] theorem State.updCell_faultPin (s : State) (c : Nat) (f : Cell → Cell) : (s.updCell c f).faultPin = s.faultPin := rfl
@[simp] theorem State.updCell_images (s : State) (c : Nat) (f : Cell → Cell) : (s.updCell c f).images = s.images := rfl
@[simp] theorem State.updCell_host (s : State) (c : Nat) (f : Cell → Cell) : (s.updCell c f).host = s.host := rfl
@[simp] theorem State.updCell_pcOver (s : State) (c : Nat) (f : Cell → Cell) : (s.updCell c f).pcOver = s.pcOver := rfl
@[simp] theorem State.updCell_pcWatts (s : State) (c : Nat) (f : Cell → Cell) : (s.updCell c f).pcWatts = s.pcWatts := rfl
@[simp] theorem State.updCell_capStretch (s : State) (c : Nat) (f : Cell → Cell) : (s.updCell c f).capStretch = s.capStretch := rfl
@[simp] theorem State.updCell_impValid (s : State) (c : Nat) (f : Cell → Cell) : (s.updCell c f).impValid = s.impValid := rfl
@[simp] theorem State.updCell_impCyc (s : State) (c : Nat) (f : Cell → Cell) : (s.updCell c f).impCyc = s.impCyc := rfl
@[simp] theorem State.updCell_impSet (s : State) (c : Nat) (f : Cell → Cell) : (s.updCell c f).impSet = s.impSet := rfl
@[simp] theorem State.updCell_notices (s : State) (c : Nat) (f : Cell → Cell) : (s.updCell c f).notices = s.notices := rfl

@[simp] theorem State.updCtx_agenda (s : State) (c : Nat) (f : Ctx → Ctx) : (s.updCtx c f).agenda = s.agenda := rfl
@[simp] theorem State.updCtx_actCell (s : State) (c : Nat) (f : Ctx → Ctx) : (s.updCtx c f).actCell = s.actCell := rfl
@[simp] theorem State.updCtx_actProg (s : State) (c : Nat) (f : Ctx → Ctx) : (s.updCtx c f).actProg = s.actProg := rfl
@[simp] theorem State.updCtx_tick (s : State) (c : Nat) (f : Ctx → Ctx) : (s.updCtx c f).tick = s.tick := rfl
@[simp] theorem State.updCtx_now (s : State) (c : Nat) (f : Ctx → Ctx) : (s.updCtx c f).now = s.now := rfl
@[simp] theorem State.updCtx_mem (s : State) (c : Nat) (f : Ctx → Ctx) : (s.updCtx c f).mem = s.mem := rfl
@[simp] theorem State.updCtx_poison (s : State) (c : Nat) (f : Ctx → Ctx) : (s.updCtx c f).poison = s.poison := rfl
@[simp] theorem State.updCtx_dists (s : State) (c : Nat) (f : Ctx → Ctx) : (s.updCtx c f).dists = s.dists := rfl
@[simp] theorem State.updCtx_dies (s : State) (c : Nat) (f : Ctx → Ctx) : (s.updCtx c f).dies = s.dies := rfl
@[simp] theorem State.updCtx_memStacks (s : State) (c : Nat) (f : Ctx → Ctx) : (s.updCtx c f).memStacks = s.memStacks := rfl
@[simp] theorem State.updCtx_net (s : State) (c : Nat) (f : Ctx → Ctx) : (s.updCtx c f).net = s.net := rfl
@[simp] theorem State.updCtx_stair (s : State) (c : Nat) (f : Ctx → Ctx) : (s.updCtx c f).stair = s.stair := rfl
@[simp] theorem State.updCtx_sysReqs (s : State) (c : Nat) (f : Ctx → Ctx) : (s.updCtx c f).sysReqs = s.sysReqs := rfl
@[simp] theorem State.updCtx_queues (s : State) (c : Nat) (f : Ctx → Ctx) : (s.updCtx c f).queues = s.queues := rfl
@[simp] theorem State.updCtx_launches (s : State) (c : Nat) (f : Ctx → Ctx) : (s.updCtx c f).launches = s.launches := rfl
@[simp] theorem State.updCtx_turns (s : State) (c : Nat) (f : Ctx → Ctx) : (s.updCtx c f).turns = s.turns := rfl
@[simp] theorem State.updCtx_ppGate (s : State) (c : Nat) (f : Ctx → Ctx) : (s.updCtx c f).ppGate = s.ppGate := rfl
@[simp] theorem State.updCtx_ppIdle (s : State) (c : Nat) (f : Ctx → Ctx) : (s.updCtx c f).ppIdle = s.ppIdle := rfl
@[simp] theorem State.updCtx_ppWake (s : State) (c : Nat) (f : Ctx → Ctx) : (s.updCtx c f).ppWake = s.ppWake := rfl
@[simp] theorem State.updCtx_imp (s : State) (c : Nat) (f : Ctx → Ctx) : (s.updCtx c f).imp = s.imp := rfl
@[simp] theorem State.updCtx_fmCtl (s : State) (c : Nat) (f : Ctx → Ctx) : (s.updCtx c f).fmCtl = s.fmCtl := rfl
@[simp] theorem State.updCtx_svc (s : State) (c : Nat) (f : Ctx → Ctx) : (s.updCtx c f).svc = s.svc := rfl
@[simp] theorem State.updCtx_svcNext (s : State) (c : Nat) (f : Ctx → Ctx) : (s.updCtx c f).svcNext = s.svcNext := rfl
@[simp] theorem State.updCtx_idNode (s : State) (c : Nat) (f : Ctx → Ctx) : (s.updCtx c f).idNode = s.idNode := rfl
@[simp] theorem State.updCtx_bsCause (s : State) (c : Nat) (f : Ctx → Ctx) : (s.updCtx c f).bsCause = s.bsCause := rfl
@[simp] theorem State.updCtx_bsStage (s : State) (c : Nat) (f : Ctx → Ctx) : (s.updCtx c f).bsStage = s.bsStage := rfl
@[simp] theorem State.updCtx_bsDone (s : State) (c : Nat) (f : Ctx → Ctx) : (s.updCtx c f).bsDone = s.bsDone := rfl
@[simp] theorem State.updCtx_faultPin (s : State) (c : Nat) (f : Ctx → Ctx) : (s.updCtx c f).faultPin = s.faultPin := rfl
@[simp] theorem State.updCtx_images (s : State) (c : Nat) (f : Ctx → Ctx) : (s.updCtx c f).images = s.images := rfl
@[simp] theorem State.updCtx_host (s : State) (c : Nat) (f : Ctx → Ctx) : (s.updCtx c f).host = s.host := rfl
@[simp] theorem State.updCtx_pcOver (s : State) (c : Nat) (f : Ctx → Ctx) : (s.updCtx c f).pcOver = s.pcOver := rfl
@[simp] theorem State.updCtx_pcWatts (s : State) (c : Nat) (f : Ctx → Ctx) : (s.updCtx c f).pcWatts = s.pcWatts := rfl
@[simp] theorem State.updCtx_capStretch (s : State) (c : Nat) (f : Ctx → Ctx) : (s.updCtx c f).capStretch = s.capStretch := rfl
@[simp] theorem State.updCtx_impValid (s : State) (c : Nat) (f : Ctx → Ctx) : (s.updCtx c f).impValid = s.impValid := rfl
@[simp] theorem State.updCtx_impCyc (s : State) (c : Nat) (f : Ctx → Ctx) : (s.updCtx c f).impCyc = s.impCyc := rfl
@[simp] theorem State.updCtx_impSet (s : State) (c : Nat) (f : Ctx → Ctx) : (s.updCtx c f).impSet = s.impSet := rfl
@[simp] theorem State.updCtx_notices (s : State) (c : Nat) (f : Ctx → Ctx) : (s.updCtx c f).notices = s.notices := rfl

@[simp] theorem State.updCore_agenda (s : State) (c : Nat) (f : Core → Core) : (s.updCore c f).agenda = s.agenda := rfl
@[simp] theorem State.updCore_actCell (s : State) (c : Nat) (f : Core → Core) : (s.updCore c f).actCell = s.actCell := rfl
@[simp] theorem State.updCore_actProg (s : State) (c : Nat) (f : Core → Core) : (s.updCore c f).actProg = s.actProg := rfl
@[simp] theorem State.updCore_tick (s : State) (c : Nat) (f : Core → Core) : (s.updCore c f).tick = s.tick := rfl
@[simp] theorem State.updCore_now (s : State) (c : Nat) (f : Core → Core) : (s.updCore c f).now = s.now := rfl
@[simp] theorem State.updCore_mem (s : State) (c : Nat) (f : Core → Core) : (s.updCore c f).mem = s.mem := rfl
@[simp] theorem State.updCore_poison (s : State) (c : Nat) (f : Core → Core) : (s.updCore c f).poison = s.poison := rfl
@[simp] theorem State.updCore_dists (s : State) (c : Nat) (f : Core → Core) : (s.updCore c f).dists = s.dists := rfl
@[simp] theorem State.updCore_dies (s : State) (c : Nat) (f : Core → Core) : (s.updCore c f).dies = s.dies := rfl
@[simp] theorem State.updCore_memStacks (s : State) (c : Nat) (f : Core → Core) : (s.updCore c f).memStacks = s.memStacks := rfl
@[simp] theorem State.updCore_net (s : State) (c : Nat) (f : Core → Core) : (s.updCore c f).net = s.net := rfl
@[simp] theorem State.updCore_stair (s : State) (c : Nat) (f : Core → Core) : (s.updCore c f).stair = s.stair := rfl
@[simp] theorem State.updCore_sysReqs (s : State) (c : Nat) (f : Core → Core) : (s.updCore c f).sysReqs = s.sysReqs := rfl
@[simp] theorem State.updCore_queues (s : State) (c : Nat) (f : Core → Core) : (s.updCore c f).queues = s.queues := rfl
@[simp] theorem State.updCore_launches (s : State) (c : Nat) (f : Core → Core) : (s.updCore c f).launches = s.launches := rfl
@[simp] theorem State.updCore_turns (s : State) (c : Nat) (f : Core → Core) : (s.updCore c f).turns = s.turns := rfl
@[simp] theorem State.updCore_ppGate (s : State) (c : Nat) (f : Core → Core) : (s.updCore c f).ppGate = s.ppGate := rfl
@[simp] theorem State.updCore_ppIdle (s : State) (c : Nat) (f : Core → Core) : (s.updCore c f).ppIdle = s.ppIdle := rfl
@[simp] theorem State.updCore_ppWake (s : State) (c : Nat) (f : Core → Core) : (s.updCore c f).ppWake = s.ppWake := rfl
@[simp] theorem State.updCore_imp (s : State) (c : Nat) (f : Core → Core) : (s.updCore c f).imp = s.imp := rfl
@[simp] theorem State.updCore_fmCtl (s : State) (c : Nat) (f : Core → Core) : (s.updCore c f).fmCtl = s.fmCtl := rfl
@[simp] theorem State.updCore_svc (s : State) (c : Nat) (f : Core → Core) : (s.updCore c f).svc = s.svc := rfl
@[simp] theorem State.updCore_svcNext (s : State) (c : Nat) (f : Core → Core) : (s.updCore c f).svcNext = s.svcNext := rfl
@[simp] theorem State.updCore_idNode (s : State) (c : Nat) (f : Core → Core) : (s.updCore c f).idNode = s.idNode := rfl
@[simp] theorem State.updCore_bsCause (s : State) (c : Nat) (f : Core → Core) : (s.updCore c f).bsCause = s.bsCause := rfl
@[simp] theorem State.updCore_bsStage (s : State) (c : Nat) (f : Core → Core) : (s.updCore c f).bsStage = s.bsStage := rfl
@[simp] theorem State.updCore_bsDone (s : State) (c : Nat) (f : Core → Core) : (s.updCore c f).bsDone = s.bsDone := rfl
@[simp] theorem State.updCore_faultPin (s : State) (c : Nat) (f : Core → Core) : (s.updCore c f).faultPin = s.faultPin := rfl
@[simp] theorem State.updCore_images (s : State) (c : Nat) (f : Core → Core) : (s.updCore c f).images = s.images := rfl
@[simp] theorem State.updCore_host (s : State) (c : Nat) (f : Core → Core) : (s.updCore c f).host = s.host := rfl
@[simp] theorem State.updCore_pcOver (s : State) (c : Nat) (f : Core → Core) : (s.updCore c f).pcOver = s.pcOver := rfl
@[simp] theorem State.updCore_pcWatts (s : State) (c : Nat) (f : Core → Core) : (s.updCore c f).pcWatts = s.pcWatts := rfl
@[simp] theorem State.updCore_capStretch (s : State) (c : Nat) (f : Core → Core) : (s.updCore c f).capStretch = s.capStretch := rfl
@[simp] theorem State.updCore_impValid (s : State) (c : Nat) (f : Core → Core) : (s.updCore c f).impValid = s.impValid := rfl
@[simp] theorem State.updCore_impCyc (s : State) (c : Nat) (f : Core → Core) : (s.updCore c f).impCyc = s.impCyc := rfl
@[simp] theorem State.updCore_impSet (s : State) (c : Nat) (f : Core → Core) : (s.updCore c f).impSet = s.impSet := rfl
@[simp] theorem State.updCore_notices (s : State) (c : Nat) (f : Core → Core) : (s.updCore c f).notices = s.notices := rfl

@[simp] theorem State.updVec_agenda (s : State) (c : Nat) (f : VecEng → VecEng) : (s.updVec c f).agenda = s.agenda := rfl
@[simp] theorem State.updVec_actCell (s : State) (c : Nat) (f : VecEng → VecEng) : (s.updVec c f).actCell = s.actCell := rfl
@[simp] theorem State.updVec_actProg (s : State) (c : Nat) (f : VecEng → VecEng) : (s.updVec c f).actProg = s.actProg := rfl
@[simp] theorem State.updVec_tick (s : State) (c : Nat) (f : VecEng → VecEng) : (s.updVec c f).tick = s.tick := rfl
@[simp] theorem State.updVec_now (s : State) (c : Nat) (f : VecEng → VecEng) : (s.updVec c f).now = s.now := rfl
@[simp] theorem State.updVec_mem (s : State) (c : Nat) (f : VecEng → VecEng) : (s.updVec c f).mem = s.mem := rfl
@[simp] theorem State.updVec_poison (s : State) (c : Nat) (f : VecEng → VecEng) : (s.updVec c f).poison = s.poison := rfl
@[simp] theorem State.updVec_dists (s : State) (c : Nat) (f : VecEng → VecEng) : (s.updVec c f).dists = s.dists := rfl
@[simp] theorem State.updVec_dies (s : State) (c : Nat) (f : VecEng → VecEng) : (s.updVec c f).dies = s.dies := rfl
@[simp] theorem State.updVec_memStacks (s : State) (c : Nat) (f : VecEng → VecEng) : (s.updVec c f).memStacks = s.memStacks := rfl
@[simp] theorem State.updVec_net (s : State) (c : Nat) (f : VecEng → VecEng) : (s.updVec c f).net = s.net := rfl
@[simp] theorem State.updVec_stair (s : State) (c : Nat) (f : VecEng → VecEng) : (s.updVec c f).stair = s.stair := rfl
@[simp] theorem State.updVec_sysReqs (s : State) (c : Nat) (f : VecEng → VecEng) : (s.updVec c f).sysReqs = s.sysReqs := rfl
@[simp] theorem State.updVec_queues (s : State) (c : Nat) (f : VecEng → VecEng) : (s.updVec c f).queues = s.queues := rfl
@[simp] theorem State.updVec_launches (s : State) (c : Nat) (f : VecEng → VecEng) : (s.updVec c f).launches = s.launches := rfl
@[simp] theorem State.updVec_turns (s : State) (c : Nat) (f : VecEng → VecEng) : (s.updVec c f).turns = s.turns := rfl
@[simp] theorem State.updVec_ppGate (s : State) (c : Nat) (f : VecEng → VecEng) : (s.updVec c f).ppGate = s.ppGate := rfl
@[simp] theorem State.updVec_ppIdle (s : State) (c : Nat) (f : VecEng → VecEng) : (s.updVec c f).ppIdle = s.ppIdle := rfl
@[simp] theorem State.updVec_ppWake (s : State) (c : Nat) (f : VecEng → VecEng) : (s.updVec c f).ppWake = s.ppWake := rfl
@[simp] theorem State.updVec_imp (s : State) (c : Nat) (f : VecEng → VecEng) : (s.updVec c f).imp = s.imp := rfl
@[simp] theorem State.updVec_fmCtl (s : State) (c : Nat) (f : VecEng → VecEng) : (s.updVec c f).fmCtl = s.fmCtl := rfl
@[simp] theorem State.updVec_svc (s : State) (c : Nat) (f : VecEng → VecEng) : (s.updVec c f).svc = s.svc := rfl
@[simp] theorem State.updVec_svcNext (s : State) (c : Nat) (f : VecEng → VecEng) : (s.updVec c f).svcNext = s.svcNext := rfl
@[simp] theorem State.updVec_idNode (s : State) (c : Nat) (f : VecEng → VecEng) : (s.updVec c f).idNode = s.idNode := rfl
@[simp] theorem State.updVec_bsCause (s : State) (c : Nat) (f : VecEng → VecEng) : (s.updVec c f).bsCause = s.bsCause := rfl
@[simp] theorem State.updVec_bsStage (s : State) (c : Nat) (f : VecEng → VecEng) : (s.updVec c f).bsStage = s.bsStage := rfl
@[simp] theorem State.updVec_bsDone (s : State) (c : Nat) (f : VecEng → VecEng) : (s.updVec c f).bsDone = s.bsDone := rfl
@[simp] theorem State.updVec_faultPin (s : State) (c : Nat) (f : VecEng → VecEng) : (s.updVec c f).faultPin = s.faultPin := rfl
@[simp] theorem State.updVec_images (s : State) (c : Nat) (f : VecEng → VecEng) : (s.updVec c f).images = s.images := rfl
@[simp] theorem State.updVec_host (s : State) (c : Nat) (f : VecEng → VecEng) : (s.updVec c f).host = s.host := rfl
@[simp] theorem State.updVec_pcOver (s : State) (c : Nat) (f : VecEng → VecEng) : (s.updVec c f).pcOver = s.pcOver := rfl
@[simp] theorem State.updVec_pcWatts (s : State) (c : Nat) (f : VecEng → VecEng) : (s.updVec c f).pcWatts = s.pcWatts := rfl
@[simp] theorem State.updVec_capStretch (s : State) (c : Nat) (f : VecEng → VecEng) : (s.updVec c f).capStretch = s.capStretch := rfl
@[simp] theorem State.updVec_impValid (s : State) (c : Nat) (f : VecEng → VecEng) : (s.updVec c f).impValid = s.impValid := rfl
@[simp] theorem State.updVec_impCyc (s : State) (c : Nat) (f : VecEng → VecEng) : (s.updVec c f).impCyc = s.impCyc := rfl
@[simp] theorem State.updVec_impSet (s : State) (c : Nat) (f : VecEng → VecEng) : (s.updVec c f).impSet = s.impSet := rfl
@[simp] theorem State.updVec_notices (s : State) (c : Nat) (f : VecEng → VecEng) : (s.updVec c f).notices = s.notices := rfl

@[simp] theorem State.updMat_agenda (s : State) (c : Nat) (f : MatEng → MatEng) : (s.updMat c f).agenda = s.agenda := rfl
@[simp] theorem State.updMat_actCell (s : State) (c : Nat) (f : MatEng → MatEng) : (s.updMat c f).actCell = s.actCell := rfl
@[simp] theorem State.updMat_actProg (s : State) (c : Nat) (f : MatEng → MatEng) : (s.updMat c f).actProg = s.actProg := rfl
@[simp] theorem State.updMat_tick (s : State) (c : Nat) (f : MatEng → MatEng) : (s.updMat c f).tick = s.tick := rfl
@[simp] theorem State.updMat_now (s : State) (c : Nat) (f : MatEng → MatEng) : (s.updMat c f).now = s.now := rfl
@[simp] theorem State.updMat_mem (s : State) (c : Nat) (f : MatEng → MatEng) : (s.updMat c f).mem = s.mem := rfl
@[simp] theorem State.updMat_poison (s : State) (c : Nat) (f : MatEng → MatEng) : (s.updMat c f).poison = s.poison := rfl
@[simp] theorem State.updMat_dists (s : State) (c : Nat) (f : MatEng → MatEng) : (s.updMat c f).dists = s.dists := rfl
@[simp] theorem State.updMat_dies (s : State) (c : Nat) (f : MatEng → MatEng) : (s.updMat c f).dies = s.dies := rfl
@[simp] theorem State.updMat_memStacks (s : State) (c : Nat) (f : MatEng → MatEng) : (s.updMat c f).memStacks = s.memStacks := rfl
@[simp] theorem State.updMat_net (s : State) (c : Nat) (f : MatEng → MatEng) : (s.updMat c f).net = s.net := rfl
@[simp] theorem State.updMat_stair (s : State) (c : Nat) (f : MatEng → MatEng) : (s.updMat c f).stair = s.stair := rfl
@[simp] theorem State.updMat_sysReqs (s : State) (c : Nat) (f : MatEng → MatEng) : (s.updMat c f).sysReqs = s.sysReqs := rfl
@[simp] theorem State.updMat_queues (s : State) (c : Nat) (f : MatEng → MatEng) : (s.updMat c f).queues = s.queues := rfl
@[simp] theorem State.updMat_launches (s : State) (c : Nat) (f : MatEng → MatEng) : (s.updMat c f).launches = s.launches := rfl
@[simp] theorem State.updMat_turns (s : State) (c : Nat) (f : MatEng → MatEng) : (s.updMat c f).turns = s.turns := rfl
@[simp] theorem State.updMat_ppGate (s : State) (c : Nat) (f : MatEng → MatEng) : (s.updMat c f).ppGate = s.ppGate := rfl
@[simp] theorem State.updMat_ppIdle (s : State) (c : Nat) (f : MatEng → MatEng) : (s.updMat c f).ppIdle = s.ppIdle := rfl
@[simp] theorem State.updMat_ppWake (s : State) (c : Nat) (f : MatEng → MatEng) : (s.updMat c f).ppWake = s.ppWake := rfl
@[simp] theorem State.updMat_imp (s : State) (c : Nat) (f : MatEng → MatEng) : (s.updMat c f).imp = s.imp := rfl
@[simp] theorem State.updMat_fmCtl (s : State) (c : Nat) (f : MatEng → MatEng) : (s.updMat c f).fmCtl = s.fmCtl := rfl
@[simp] theorem State.updMat_svc (s : State) (c : Nat) (f : MatEng → MatEng) : (s.updMat c f).svc = s.svc := rfl
@[simp] theorem State.updMat_svcNext (s : State) (c : Nat) (f : MatEng → MatEng) : (s.updMat c f).svcNext = s.svcNext := rfl
@[simp] theorem State.updMat_idNode (s : State) (c : Nat) (f : MatEng → MatEng) : (s.updMat c f).idNode = s.idNode := rfl
@[simp] theorem State.updMat_bsCause (s : State) (c : Nat) (f : MatEng → MatEng) : (s.updMat c f).bsCause = s.bsCause := rfl
@[simp] theorem State.updMat_bsStage (s : State) (c : Nat) (f : MatEng → MatEng) : (s.updMat c f).bsStage = s.bsStage := rfl
@[simp] theorem State.updMat_bsDone (s : State) (c : Nat) (f : MatEng → MatEng) : (s.updMat c f).bsDone = s.bsDone := rfl
@[simp] theorem State.updMat_faultPin (s : State) (c : Nat) (f : MatEng → MatEng) : (s.updMat c f).faultPin = s.faultPin := rfl
@[simp] theorem State.updMat_images (s : State) (c : Nat) (f : MatEng → MatEng) : (s.updMat c f).images = s.images := rfl
@[simp] theorem State.updMat_host (s : State) (c : Nat) (f : MatEng → MatEng) : (s.updMat c f).host = s.host := rfl
@[simp] theorem State.updMat_pcOver (s : State) (c : Nat) (f : MatEng → MatEng) : (s.updMat c f).pcOver = s.pcOver := rfl
@[simp] theorem State.updMat_pcWatts (s : State) (c : Nat) (f : MatEng → MatEng) : (s.updMat c f).pcWatts = s.pcWatts := rfl
@[simp] theorem State.updMat_capStretch (s : State) (c : Nat) (f : MatEng → MatEng) : (s.updMat c f).capStretch = s.capStretch := rfl
@[simp] theorem State.updMat_impValid (s : State) (c : Nat) (f : MatEng → MatEng) : (s.updMat c f).impValid = s.impValid := rfl
@[simp] theorem State.updMat_impCyc (s : State) (c : Nat) (f : MatEng → MatEng) : (s.updMat c f).impCyc = s.impCyc := rfl
@[simp] theorem State.updMat_impSet (s : State) (c : Nat) (f : MatEng → MatEng) : (s.updMat c f).impSet = s.impSet := rfl
@[simp] theorem State.updMat_notices (s : State) (c : Nat) (f : MatEng → MatEng) : (s.updMat c f).notices = s.notices := rfl

@[simp] theorem State.updCop_agenda (s : State) (c : Nat) (f : CopyEng → CopyEng) : (s.updCop c f).agenda = s.agenda := rfl
@[simp] theorem State.updCop_actCell (s : State) (c : Nat) (f : CopyEng → CopyEng) : (s.updCop c f).actCell = s.actCell := rfl
@[simp] theorem State.updCop_actProg (s : State) (c : Nat) (f : CopyEng → CopyEng) : (s.updCop c f).actProg = s.actProg := rfl
@[simp] theorem State.updCop_tick (s : State) (c : Nat) (f : CopyEng → CopyEng) : (s.updCop c f).tick = s.tick := rfl
@[simp] theorem State.updCop_now (s : State) (c : Nat) (f : CopyEng → CopyEng) : (s.updCop c f).now = s.now := rfl
@[simp] theorem State.updCop_mem (s : State) (c : Nat) (f : CopyEng → CopyEng) : (s.updCop c f).mem = s.mem := rfl
@[simp] theorem State.updCop_poison (s : State) (c : Nat) (f : CopyEng → CopyEng) : (s.updCop c f).poison = s.poison := rfl
@[simp] theorem State.updCop_dists (s : State) (c : Nat) (f : CopyEng → CopyEng) : (s.updCop c f).dists = s.dists := rfl
@[simp] theorem State.updCop_dies (s : State) (c : Nat) (f : CopyEng → CopyEng) : (s.updCop c f).dies = s.dies := rfl
@[simp] theorem State.updCop_memStacks (s : State) (c : Nat) (f : CopyEng → CopyEng) : (s.updCop c f).memStacks = s.memStacks := rfl
@[simp] theorem State.updCop_net (s : State) (c : Nat) (f : CopyEng → CopyEng) : (s.updCop c f).net = s.net := rfl
@[simp] theorem State.updCop_stair (s : State) (c : Nat) (f : CopyEng → CopyEng) : (s.updCop c f).stair = s.stair := rfl
@[simp] theorem State.updCop_sysReqs (s : State) (c : Nat) (f : CopyEng → CopyEng) : (s.updCop c f).sysReqs = s.sysReqs := rfl
@[simp] theorem State.updCop_queues (s : State) (c : Nat) (f : CopyEng → CopyEng) : (s.updCop c f).queues = s.queues := rfl
@[simp] theorem State.updCop_launches (s : State) (c : Nat) (f : CopyEng → CopyEng) : (s.updCop c f).launches = s.launches := rfl
@[simp] theorem State.updCop_turns (s : State) (c : Nat) (f : CopyEng → CopyEng) : (s.updCop c f).turns = s.turns := rfl
@[simp] theorem State.updCop_ppGate (s : State) (c : Nat) (f : CopyEng → CopyEng) : (s.updCop c f).ppGate = s.ppGate := rfl
@[simp] theorem State.updCop_ppIdle (s : State) (c : Nat) (f : CopyEng → CopyEng) : (s.updCop c f).ppIdle = s.ppIdle := rfl
@[simp] theorem State.updCop_ppWake (s : State) (c : Nat) (f : CopyEng → CopyEng) : (s.updCop c f).ppWake = s.ppWake := rfl
@[simp] theorem State.updCop_imp (s : State) (c : Nat) (f : CopyEng → CopyEng) : (s.updCop c f).imp = s.imp := rfl
@[simp] theorem State.updCop_fmCtl (s : State) (c : Nat) (f : CopyEng → CopyEng) : (s.updCop c f).fmCtl = s.fmCtl := rfl
@[simp] theorem State.updCop_svc (s : State) (c : Nat) (f : CopyEng → CopyEng) : (s.updCop c f).svc = s.svc := rfl
@[simp] theorem State.updCop_svcNext (s : State) (c : Nat) (f : CopyEng → CopyEng) : (s.updCop c f).svcNext = s.svcNext := rfl
@[simp] theorem State.updCop_idNode (s : State) (c : Nat) (f : CopyEng → CopyEng) : (s.updCop c f).idNode = s.idNode := rfl
@[simp] theorem State.updCop_bsCause (s : State) (c : Nat) (f : CopyEng → CopyEng) : (s.updCop c f).bsCause = s.bsCause := rfl
@[simp] theorem State.updCop_bsStage (s : State) (c : Nat) (f : CopyEng → CopyEng) : (s.updCop c f).bsStage = s.bsStage := rfl
@[simp] theorem State.updCop_bsDone (s : State) (c : Nat) (f : CopyEng → CopyEng) : (s.updCop c f).bsDone = s.bsDone := rfl
@[simp] theorem State.updCop_faultPin (s : State) (c : Nat) (f : CopyEng → CopyEng) : (s.updCop c f).faultPin = s.faultPin := rfl
@[simp] theorem State.updCop_images (s : State) (c : Nat) (f : CopyEng → CopyEng) : (s.updCop c f).images = s.images := rfl
@[simp] theorem State.updCop_host (s : State) (c : Nat) (f : CopyEng → CopyEng) : (s.updCop c f).host = s.host := rfl
@[simp] theorem State.updCop_pcOver (s : State) (c : Nat) (f : CopyEng → CopyEng) : (s.updCop c f).pcOver = s.pcOver := rfl
@[simp] theorem State.updCop_pcWatts (s : State) (c : Nat) (f : CopyEng → CopyEng) : (s.updCop c f).pcWatts = s.pcWatts := rfl
@[simp] theorem State.updCop_capStretch (s : State) (c : Nat) (f : CopyEng → CopyEng) : (s.updCop c f).capStretch = s.capStretch := rfl
@[simp] theorem State.updCop_impValid (s : State) (c : Nat) (f : CopyEng → CopyEng) : (s.updCop c f).impValid = s.impValid := rfl
@[simp] theorem State.updCop_impCyc (s : State) (c : Nat) (f : CopyEng → CopyEng) : (s.updCop c f).impCyc = s.impCyc := rfl
@[simp] theorem State.updCop_impSet (s : State) (c : Nat) (f : CopyEng → CopyEng) : (s.updCop c f).impSet = s.impSet := rfl
@[simp] theorem State.updCop_notices (s : State) (c : Nat) (f : CopyEng → CopyEng) : (s.updCop c f).notices = s.notices := rfl

@[simp] theorem State.updOut_agenda (s : State) (c : Nat) (f : Outgoing → Outgoing) : (s.updOut c f).agenda = s.agenda := rfl
@[simp] theorem State.updOut_actCell (s : State) (c : Nat) (f : Outgoing → Outgoing) : (s.updOut c f).actCell = s.actCell := rfl
@[simp] theorem State.updOut_actProg (s : State) (c : Nat) (f : Outgoing → Outgoing) : (s.updOut c f).actProg = s.actProg := rfl
@[simp] theorem State.updOut_tick (s : State) (c : Nat) (f : Outgoing → Outgoing) : (s.updOut c f).tick = s.tick := rfl
@[simp] theorem State.updOut_now (s : State) (c : Nat) (f : Outgoing → Outgoing) : (s.updOut c f).now = s.now := rfl
@[simp] theorem State.updOut_mem (s : State) (c : Nat) (f : Outgoing → Outgoing) : (s.updOut c f).mem = s.mem := rfl
@[simp] theorem State.updOut_poison (s : State) (c : Nat) (f : Outgoing → Outgoing) : (s.updOut c f).poison = s.poison := rfl
@[simp] theorem State.updOut_dists (s : State) (c : Nat) (f : Outgoing → Outgoing) : (s.updOut c f).dists = s.dists := rfl
@[simp] theorem State.updOut_dies (s : State) (c : Nat) (f : Outgoing → Outgoing) : (s.updOut c f).dies = s.dies := rfl
@[simp] theorem State.updOut_memStacks (s : State) (c : Nat) (f : Outgoing → Outgoing) : (s.updOut c f).memStacks = s.memStacks := rfl
@[simp] theorem State.updOut_net (s : State) (c : Nat) (f : Outgoing → Outgoing) : (s.updOut c f).net = s.net := rfl
@[simp] theorem State.updOut_stair (s : State) (c : Nat) (f : Outgoing → Outgoing) : (s.updOut c f).stair = s.stair := rfl
@[simp] theorem State.updOut_sysReqs (s : State) (c : Nat) (f : Outgoing → Outgoing) : (s.updOut c f).sysReqs = s.sysReqs := rfl
@[simp] theorem State.updOut_queues (s : State) (c : Nat) (f : Outgoing → Outgoing) : (s.updOut c f).queues = s.queues := rfl
@[simp] theorem State.updOut_launches (s : State) (c : Nat) (f : Outgoing → Outgoing) : (s.updOut c f).launches = s.launches := rfl
@[simp] theorem State.updOut_turns (s : State) (c : Nat) (f : Outgoing → Outgoing) : (s.updOut c f).turns = s.turns := rfl
@[simp] theorem State.updOut_ppGate (s : State) (c : Nat) (f : Outgoing → Outgoing) : (s.updOut c f).ppGate = s.ppGate := rfl
@[simp] theorem State.updOut_ppIdle (s : State) (c : Nat) (f : Outgoing → Outgoing) : (s.updOut c f).ppIdle = s.ppIdle := rfl
@[simp] theorem State.updOut_ppWake (s : State) (c : Nat) (f : Outgoing → Outgoing) : (s.updOut c f).ppWake = s.ppWake := rfl
@[simp] theorem State.updOut_imp (s : State) (c : Nat) (f : Outgoing → Outgoing) : (s.updOut c f).imp = s.imp := rfl
@[simp] theorem State.updOut_fmCtl (s : State) (c : Nat) (f : Outgoing → Outgoing) : (s.updOut c f).fmCtl = s.fmCtl := rfl
@[simp] theorem State.updOut_svc (s : State) (c : Nat) (f : Outgoing → Outgoing) : (s.updOut c f).svc = s.svc := rfl
@[simp] theorem State.updOut_svcNext (s : State) (c : Nat) (f : Outgoing → Outgoing) : (s.updOut c f).svcNext = s.svcNext := rfl
@[simp] theorem State.updOut_idNode (s : State) (c : Nat) (f : Outgoing → Outgoing) : (s.updOut c f).idNode = s.idNode := rfl
@[simp] theorem State.updOut_bsCause (s : State) (c : Nat) (f : Outgoing → Outgoing) : (s.updOut c f).bsCause = s.bsCause := rfl
@[simp] theorem State.updOut_bsStage (s : State) (c : Nat) (f : Outgoing → Outgoing) : (s.updOut c f).bsStage = s.bsStage := rfl
@[simp] theorem State.updOut_bsDone (s : State) (c : Nat) (f : Outgoing → Outgoing) : (s.updOut c f).bsDone = s.bsDone := rfl
@[simp] theorem State.updOut_faultPin (s : State) (c : Nat) (f : Outgoing → Outgoing) : (s.updOut c f).faultPin = s.faultPin := rfl
@[simp] theorem State.updOut_images (s : State) (c : Nat) (f : Outgoing → Outgoing) : (s.updOut c f).images = s.images := rfl
@[simp] theorem State.updOut_host (s : State) (c : Nat) (f : Outgoing → Outgoing) : (s.updOut c f).host = s.host := rfl
@[simp] theorem State.updOut_pcOver (s : State) (c : Nat) (f : Outgoing → Outgoing) : (s.updOut c f).pcOver = s.pcOver := rfl
@[simp] theorem State.updOut_pcWatts (s : State) (c : Nat) (f : Outgoing → Outgoing) : (s.updOut c f).pcWatts = s.pcWatts := rfl
@[simp] theorem State.updOut_capStretch (s : State) (c : Nat) (f : Outgoing → Outgoing) : (s.updOut c f).capStretch = s.capStretch := rfl
@[simp] theorem State.updOut_impValid (s : State) (c : Nat) (f : Outgoing → Outgoing) : (s.updOut c f).impValid = s.impValid := rfl
@[simp] theorem State.updOut_impCyc (s : State) (c : Nat) (f : Outgoing → Outgoing) : (s.updOut c f).impCyc = s.impCyc := rfl
@[simp] theorem State.updOut_impSet (s : State) (c : Nat) (f : Outgoing → Outgoing) : (s.updOut c f).impSet = s.impSet := rfl
@[simp] theorem State.updOut_notices (s : State) (c : Nat) (f : Outgoing → Outgoing) : (s.updOut c f).notices = s.notices := rfl

@[simp] theorem State.updDist_agenda (s : State) (d : Nat) (f : District → District) : (s.updDist d f).agenda = s.agenda := rfl
@[simp] theorem State.updDist_actCell (s : State) (d : Nat) (f : District → District) : (s.updDist d f).actCell = s.actCell := rfl
@[simp] theorem State.updDist_actProg (s : State) (d : Nat) (f : District → District) : (s.updDist d f).actProg = s.actProg := rfl
@[simp] theorem State.updDist_tick (s : State) (d : Nat) (f : District → District) : (s.updDist d f).tick = s.tick := rfl
@[simp] theorem State.updDist_now (s : State) (d : Nat) (f : District → District) : (s.updDist d f).now = s.now := rfl
@[simp] theorem State.updDist_mem (s : State) (d : Nat) (f : District → District) : (s.updDist d f).mem = s.mem := rfl
@[simp] theorem State.updDist_poison (s : State) (d : Nat) (f : District → District) : (s.updDist d f).poison = s.poison := rfl
@[simp] theorem State.updDist_cells (s : State) (d : Nat) (f : District → District) : (s.updDist d f).cells = s.cells := rfl
@[simp] theorem State.updDist_dies (s : State) (d : Nat) (f : District → District) : (s.updDist d f).dies = s.dies := rfl
@[simp] theorem State.updDist_memStacks (s : State) (d : Nat) (f : District → District) : (s.updDist d f).memStacks = s.memStacks := rfl
@[simp] theorem State.updDist_net (s : State) (d : Nat) (f : District → District) : (s.updDist d f).net = s.net := rfl
@[simp] theorem State.updDist_stair (s : State) (d : Nat) (f : District → District) : (s.updDist d f).stair = s.stair := rfl
@[simp] theorem State.updDist_sysReqs (s : State) (d : Nat) (f : District → District) : (s.updDist d f).sysReqs = s.sysReqs := rfl
@[simp] theorem State.updDist_queues (s : State) (d : Nat) (f : District → District) : (s.updDist d f).queues = s.queues := rfl
@[simp] theorem State.updDist_launches (s : State) (d : Nat) (f : District → District) : (s.updDist d f).launches = s.launches := rfl
@[simp] theorem State.updDist_turns (s : State) (d : Nat) (f : District → District) : (s.updDist d f).turns = s.turns := rfl
@[simp] theorem State.updDist_ppGate (s : State) (d : Nat) (f : District → District) : (s.updDist d f).ppGate = s.ppGate := rfl
@[simp] theorem State.updDist_ppIdle (s : State) (d : Nat) (f : District → District) : (s.updDist d f).ppIdle = s.ppIdle := rfl
@[simp] theorem State.updDist_ppWake (s : State) (d : Nat) (f : District → District) : (s.updDist d f).ppWake = s.ppWake := rfl
@[simp] theorem State.updDist_imp (s : State) (d : Nat) (f : District → District) : (s.updDist d f).imp = s.imp := rfl
@[simp] theorem State.updDist_fmCtl (s : State) (d : Nat) (f : District → District) : (s.updDist d f).fmCtl = s.fmCtl := rfl
@[simp] theorem State.updDist_svc (s : State) (d : Nat) (f : District → District) : (s.updDist d f).svc = s.svc := rfl
@[simp] theorem State.updDist_svcNext (s : State) (d : Nat) (f : District → District) : (s.updDist d f).svcNext = s.svcNext := rfl
@[simp] theorem State.updDist_idNode (s : State) (d : Nat) (f : District → District) : (s.updDist d f).idNode = s.idNode := rfl
@[simp] theorem State.updDist_bsCause (s : State) (d : Nat) (f : District → District) : (s.updDist d f).bsCause = s.bsCause := rfl
@[simp] theorem State.updDist_bsStage (s : State) (d : Nat) (f : District → District) : (s.updDist d f).bsStage = s.bsStage := rfl
@[simp] theorem State.updDist_bsDone (s : State) (d : Nat) (f : District → District) : (s.updDist d f).bsDone = s.bsDone := rfl
@[simp] theorem State.updDist_faultPin (s : State) (d : Nat) (f : District → District) : (s.updDist d f).faultPin = s.faultPin := rfl
@[simp] theorem State.updDist_images (s : State) (d : Nat) (f : District → District) : (s.updDist d f).images = s.images := rfl
@[simp] theorem State.updDist_host (s : State) (d : Nat) (f : District → District) : (s.updDist d f).host = s.host := rfl
@[simp] theorem State.updDist_pcOver (s : State) (d : Nat) (f : District → District) : (s.updDist d f).pcOver = s.pcOver := rfl
@[simp] theorem State.updDist_pcWatts (s : State) (d : Nat) (f : District → District) : (s.updDist d f).pcWatts = s.pcWatts := rfl
@[simp] theorem State.updDist_capStretch (s : State) (d : Nat) (f : District → District) : (s.updDist d f).capStretch = s.capStretch := rfl
@[simp] theorem State.updDist_impValid (s : State) (d : Nat) (f : District → District) : (s.updDist d f).impValid = s.impValid := rfl
@[simp] theorem State.updDist_impCyc (s : State) (d : Nat) (f : District → District) : (s.updDist d f).impCyc = s.impCyc := rfl
@[simp] theorem State.updDist_impSet (s : State) (d : Nat) (f : District → District) : (s.updDist d f).impSet = s.impSet := rfl
@[simp] theorem State.updDist_notices (s : State) (d : Nat) (f : District → District) : (s.updDist d f).notices = s.notices := rfl

@[simp] theorem State.updDie_agenda (s : State) (d : Nat) (f : Die → Die) : (s.updDie d f).agenda = s.agenda := rfl
@[simp] theorem State.updDie_actCell (s : State) (d : Nat) (f : Die → Die) : (s.updDie d f).actCell = s.actCell := rfl
@[simp] theorem State.updDie_actProg (s : State) (d : Nat) (f : Die → Die) : (s.updDie d f).actProg = s.actProg := rfl
@[simp] theorem State.updDie_tick (s : State) (d : Nat) (f : Die → Die) : (s.updDie d f).tick = s.tick := rfl
@[simp] theorem State.updDie_now (s : State) (d : Nat) (f : Die → Die) : (s.updDie d f).now = s.now := rfl
@[simp] theorem State.updDie_mem (s : State) (d : Nat) (f : Die → Die) : (s.updDie d f).mem = s.mem := rfl
@[simp] theorem State.updDie_poison (s : State) (d : Nat) (f : Die → Die) : (s.updDie d f).poison = s.poison := rfl
@[simp] theorem State.updDie_cells (s : State) (d : Nat) (f : Die → Die) : (s.updDie d f).cells = s.cells := rfl
@[simp] theorem State.updDie_dists (s : State) (d : Nat) (f : Die → Die) : (s.updDie d f).dists = s.dists := rfl
@[simp] theorem State.updDie_memStacks (s : State) (d : Nat) (f : Die → Die) : (s.updDie d f).memStacks = s.memStacks := rfl
@[simp] theorem State.updDie_net (s : State) (d : Nat) (f : Die → Die) : (s.updDie d f).net = s.net := rfl
@[simp] theorem State.updDie_stair (s : State) (d : Nat) (f : Die → Die) : (s.updDie d f).stair = s.stair := rfl
@[simp] theorem State.updDie_sysReqs (s : State) (d : Nat) (f : Die → Die) : (s.updDie d f).sysReqs = s.sysReqs := rfl
@[simp] theorem State.updDie_queues (s : State) (d : Nat) (f : Die → Die) : (s.updDie d f).queues = s.queues := rfl
@[simp] theorem State.updDie_launches (s : State) (d : Nat) (f : Die → Die) : (s.updDie d f).launches = s.launches := rfl
@[simp] theorem State.updDie_turns (s : State) (d : Nat) (f : Die → Die) : (s.updDie d f).turns = s.turns := rfl
@[simp] theorem State.updDie_ppGate (s : State) (d : Nat) (f : Die → Die) : (s.updDie d f).ppGate = s.ppGate := rfl
@[simp] theorem State.updDie_ppIdle (s : State) (d : Nat) (f : Die → Die) : (s.updDie d f).ppIdle = s.ppIdle := rfl
@[simp] theorem State.updDie_ppWake (s : State) (d : Nat) (f : Die → Die) : (s.updDie d f).ppWake = s.ppWake := rfl
@[simp] theorem State.updDie_imp (s : State) (d : Nat) (f : Die → Die) : (s.updDie d f).imp = s.imp := rfl
@[simp] theorem State.updDie_fmCtl (s : State) (d : Nat) (f : Die → Die) : (s.updDie d f).fmCtl = s.fmCtl := rfl
@[simp] theorem State.updDie_svc (s : State) (d : Nat) (f : Die → Die) : (s.updDie d f).svc = s.svc := rfl
@[simp] theorem State.updDie_svcNext (s : State) (d : Nat) (f : Die → Die) : (s.updDie d f).svcNext = s.svcNext := rfl
@[simp] theorem State.updDie_idNode (s : State) (d : Nat) (f : Die → Die) : (s.updDie d f).idNode = s.idNode := rfl
@[simp] theorem State.updDie_bsCause (s : State) (d : Nat) (f : Die → Die) : (s.updDie d f).bsCause = s.bsCause := rfl
@[simp] theorem State.updDie_bsStage (s : State) (d : Nat) (f : Die → Die) : (s.updDie d f).bsStage = s.bsStage := rfl
@[simp] theorem State.updDie_bsDone (s : State) (d : Nat) (f : Die → Die) : (s.updDie d f).bsDone = s.bsDone := rfl
@[simp] theorem State.updDie_faultPin (s : State) (d : Nat) (f : Die → Die) : (s.updDie d f).faultPin = s.faultPin := rfl
@[simp] theorem State.updDie_images (s : State) (d : Nat) (f : Die → Die) : (s.updDie d f).images = s.images := rfl
@[simp] theorem State.updDie_host (s : State) (d : Nat) (f : Die → Die) : (s.updDie d f).host = s.host := rfl
@[simp] theorem State.updDie_pcOver (s : State) (d : Nat) (f : Die → Die) : (s.updDie d f).pcOver = s.pcOver := rfl
@[simp] theorem State.updDie_pcWatts (s : State) (d : Nat) (f : Die → Die) : (s.updDie d f).pcWatts = s.pcWatts := rfl
@[simp] theorem State.updDie_capStretch (s : State) (d : Nat) (f : Die → Die) : (s.updDie d f).capStretch = s.capStretch := rfl
@[simp] theorem State.updDie_impValid (s : State) (d : Nat) (f : Die → Die) : (s.updDie d f).impValid = s.impValid := rfl
@[simp] theorem State.updDie_impCyc (s : State) (d : Nat) (f : Die → Die) : (s.updDie d f).impCyc = s.impCyc := rfl
@[simp] theorem State.updDie_impSet (s : State) (d : Nat) (f : Die → Die) : (s.updDie d f).impSet = s.impSet := rfl
@[simp] theorem State.updDie_notices (s : State) (d : Nat) (f : Die → Die) : (s.updDie d f).notices = s.notices := rfl

@[simp] theorem State.updStack_agenda (s : State) (k : Nat) (f : Stack → Stack) : (s.updStack k f).agenda = s.agenda := rfl
@[simp] theorem State.updStack_actCell (s : State) (k : Nat) (f : Stack → Stack) : (s.updStack k f).actCell = s.actCell := rfl
@[simp] theorem State.updStack_actProg (s : State) (k : Nat) (f : Stack → Stack) : (s.updStack k f).actProg = s.actProg := rfl
@[simp] theorem State.updStack_tick (s : State) (k : Nat) (f : Stack → Stack) : (s.updStack k f).tick = s.tick := rfl
@[simp] theorem State.updStack_now (s : State) (k : Nat) (f : Stack → Stack) : (s.updStack k f).now = s.now := rfl
@[simp] theorem State.updStack_mem (s : State) (k : Nat) (f : Stack → Stack) : (s.updStack k f).mem = s.mem := rfl
@[simp] theorem State.updStack_poison (s : State) (k : Nat) (f : Stack → Stack) : (s.updStack k f).poison = s.poison := rfl
@[simp] theorem State.updStack_cells (s : State) (k : Nat) (f : Stack → Stack) : (s.updStack k f).cells = s.cells := rfl
@[simp] theorem State.updStack_dists (s : State) (k : Nat) (f : Stack → Stack) : (s.updStack k f).dists = s.dists := rfl
@[simp] theorem State.updStack_dies (s : State) (k : Nat) (f : Stack → Stack) : (s.updStack k f).dies = s.dies := rfl
@[simp] theorem State.updStack_net (s : State) (k : Nat) (f : Stack → Stack) : (s.updStack k f).net = s.net := rfl
@[simp] theorem State.updStack_stair (s : State) (k : Nat) (f : Stack → Stack) : (s.updStack k f).stair = s.stair := rfl
@[simp] theorem State.updStack_sysReqs (s : State) (k : Nat) (f : Stack → Stack) : (s.updStack k f).sysReqs = s.sysReqs := rfl
@[simp] theorem State.updStack_queues (s : State) (k : Nat) (f : Stack → Stack) : (s.updStack k f).queues = s.queues := rfl
@[simp] theorem State.updStack_launches (s : State) (k : Nat) (f : Stack → Stack) : (s.updStack k f).launches = s.launches := rfl
@[simp] theorem State.updStack_turns (s : State) (k : Nat) (f : Stack → Stack) : (s.updStack k f).turns = s.turns := rfl
@[simp] theorem State.updStack_ppGate (s : State) (k : Nat) (f : Stack → Stack) : (s.updStack k f).ppGate = s.ppGate := rfl
@[simp] theorem State.updStack_ppIdle (s : State) (k : Nat) (f : Stack → Stack) : (s.updStack k f).ppIdle = s.ppIdle := rfl
@[simp] theorem State.updStack_ppWake (s : State) (k : Nat) (f : Stack → Stack) : (s.updStack k f).ppWake = s.ppWake := rfl
@[simp] theorem State.updStack_imp (s : State) (k : Nat) (f : Stack → Stack) : (s.updStack k f).imp = s.imp := rfl
@[simp] theorem State.updStack_fmCtl (s : State) (k : Nat) (f : Stack → Stack) : (s.updStack k f).fmCtl = s.fmCtl := rfl
@[simp] theorem State.updStack_svc (s : State) (k : Nat) (f : Stack → Stack) : (s.updStack k f).svc = s.svc := rfl
@[simp] theorem State.updStack_svcNext (s : State) (k : Nat) (f : Stack → Stack) : (s.updStack k f).svcNext = s.svcNext := rfl
@[simp] theorem State.updStack_idNode (s : State) (k : Nat) (f : Stack → Stack) : (s.updStack k f).idNode = s.idNode := rfl
@[simp] theorem State.updStack_bsCause (s : State) (k : Nat) (f : Stack → Stack) : (s.updStack k f).bsCause = s.bsCause := rfl
@[simp] theorem State.updStack_bsStage (s : State) (k : Nat) (f : Stack → Stack) : (s.updStack k f).bsStage = s.bsStage := rfl
@[simp] theorem State.updStack_bsDone (s : State) (k : Nat) (f : Stack → Stack) : (s.updStack k f).bsDone = s.bsDone := rfl
@[simp] theorem State.updStack_faultPin (s : State) (k : Nat) (f : Stack → Stack) : (s.updStack k f).faultPin = s.faultPin := rfl
@[simp] theorem State.updStack_images (s : State) (k : Nat) (f : Stack → Stack) : (s.updStack k f).images = s.images := rfl
@[simp] theorem State.updStack_host (s : State) (k : Nat) (f : Stack → Stack) : (s.updStack k f).host = s.host := rfl
@[simp] theorem State.updStack_pcOver (s : State) (k : Nat) (f : Stack → Stack) : (s.updStack k f).pcOver = s.pcOver := rfl
@[simp] theorem State.updStack_pcWatts (s : State) (k : Nat) (f : Stack → Stack) : (s.updStack k f).pcWatts = s.pcWatts := rfl
@[simp] theorem State.updStack_capStretch (s : State) (k : Nat) (f : Stack → Stack) : (s.updStack k f).capStretch = s.capStretch := rfl
@[simp] theorem State.updStack_impValid (s : State) (k : Nat) (f : Stack → Stack) : (s.updStack k f).impValid = s.impValid := rfl
@[simp] theorem State.updStack_impCyc (s : State) (k : Nat) (f : Stack → Stack) : (s.updStack k f).impCyc = s.impCyc := rfl
@[simp] theorem State.updStack_impSet (s : State) (k : Nat) (f : Stack → Stack) : (s.updStack k f).impSet = s.impSet := rfl
@[simp] theorem State.updStack_notices (s : State) (k : Nat) (f : Stack → Stack) : (s.updStack k f).notices = s.notices := rfl

@[simp] theorem State.updImp_agenda (s : State) (f : Imposer → Imposer) : (s.updImp f).agenda = s.agenda := rfl
@[simp] theorem State.updImp_actCell (s : State) (f : Imposer → Imposer) : (s.updImp f).actCell = s.actCell := rfl
@[simp] theorem State.updImp_actProg (s : State) (f : Imposer → Imposer) : (s.updImp f).actProg = s.actProg := rfl
@[simp] theorem State.updImp_tick (s : State) (f : Imposer → Imposer) : (s.updImp f).tick = s.tick := rfl
@[simp] theorem State.updImp_now (s : State) (f : Imposer → Imposer) : (s.updImp f).now = s.now := rfl
@[simp] theorem State.updImp_mem (s : State) (f : Imposer → Imposer) : (s.updImp f).mem = s.mem := rfl
@[simp] theorem State.updImp_poison (s : State) (f : Imposer → Imposer) : (s.updImp f).poison = s.poison := rfl
@[simp] theorem State.updImp_cells (s : State) (f : Imposer → Imposer) : (s.updImp f).cells = s.cells := rfl
@[simp] theorem State.updImp_dists (s : State) (f : Imposer → Imposer) : (s.updImp f).dists = s.dists := rfl
@[simp] theorem State.updImp_dies (s : State) (f : Imposer → Imposer) : (s.updImp f).dies = s.dies := rfl
@[simp] theorem State.updImp_memStacks (s : State) (f : Imposer → Imposer) : (s.updImp f).memStacks = s.memStacks := rfl
@[simp] theorem State.updImp_net (s : State) (f : Imposer → Imposer) : (s.updImp f).net = s.net := rfl
@[simp] theorem State.updImp_stair (s : State) (f : Imposer → Imposer) : (s.updImp f).stair = s.stair := rfl
@[simp] theorem State.updImp_sysReqs (s : State) (f : Imposer → Imposer) : (s.updImp f).sysReqs = s.sysReqs := rfl
@[simp] theorem State.updImp_queues (s : State) (f : Imposer → Imposer) : (s.updImp f).queues = s.queues := rfl
@[simp] theorem State.updImp_launches (s : State) (f : Imposer → Imposer) : (s.updImp f).launches = s.launches := rfl
@[simp] theorem State.updImp_turns (s : State) (f : Imposer → Imposer) : (s.updImp f).turns = s.turns := rfl
@[simp] theorem State.updImp_ppGate (s : State) (f : Imposer → Imposer) : (s.updImp f).ppGate = s.ppGate := rfl
@[simp] theorem State.updImp_ppIdle (s : State) (f : Imposer → Imposer) : (s.updImp f).ppIdle = s.ppIdle := rfl
@[simp] theorem State.updImp_ppWake (s : State) (f : Imposer → Imposer) : (s.updImp f).ppWake = s.ppWake := rfl
@[simp] theorem State.updImp_fmCtl (s : State) (f : Imposer → Imposer) : (s.updImp f).fmCtl = s.fmCtl := rfl
@[simp] theorem State.updImp_svc (s : State) (f : Imposer → Imposer) : (s.updImp f).svc = s.svc := rfl
@[simp] theorem State.updImp_svcNext (s : State) (f : Imposer → Imposer) : (s.updImp f).svcNext = s.svcNext := rfl
@[simp] theorem State.updImp_idNode (s : State) (f : Imposer → Imposer) : (s.updImp f).idNode = s.idNode := rfl
@[simp] theorem State.updImp_bsCause (s : State) (f : Imposer → Imposer) : (s.updImp f).bsCause = s.bsCause := rfl
@[simp] theorem State.updImp_bsStage (s : State) (f : Imposer → Imposer) : (s.updImp f).bsStage = s.bsStage := rfl
@[simp] theorem State.updImp_bsDone (s : State) (f : Imposer → Imposer) : (s.updImp f).bsDone = s.bsDone := rfl
@[simp] theorem State.updImp_faultPin (s : State) (f : Imposer → Imposer) : (s.updImp f).faultPin = s.faultPin := rfl
@[simp] theorem State.updImp_images (s : State) (f : Imposer → Imposer) : (s.updImp f).images = s.images := rfl
@[simp] theorem State.updImp_host (s : State) (f : Imposer → Imposer) : (s.updImp f).host = s.host := rfl
@[simp] theorem State.updImp_pcOver (s : State) (f : Imposer → Imposer) : (s.updImp f).pcOver = s.pcOver := rfl
@[simp] theorem State.updImp_pcWatts (s : State) (f : Imposer → Imposer) : (s.updImp f).pcWatts = s.pcWatts := rfl
@[simp] theorem State.updImp_capStretch (s : State) (f : Imposer → Imposer) : (s.updImp f).capStretch = s.capStretch := rfl
@[simp] theorem State.updImp_impValid (s : State) (f : Imposer → Imposer) : (s.updImp f).impValid = s.impValid := rfl
@[simp] theorem State.updImp_impCyc (s : State) (f : Imposer → Imposer) : (s.updImp f).impCyc = s.impCyc := rfl
@[simp] theorem State.updImp_impSet (s : State) (f : Imposer → Imposer) : (s.updImp f).impSet = s.impSet := rfl
@[simp] theorem State.updImp_notices (s : State) (f : Imposer → Imposer) : (s.updImp f).notices = s.notices := rfl

@[simp] theorem State.setPoison_agenda (s : State) (n : Nat) (b : Bool) : (s.setPoison n b).agenda = s.agenda := rfl
@[simp] theorem State.setPoison_actCell (s : State) (n : Nat) (b : Bool) : (s.setPoison n b).actCell = s.actCell := rfl
@[simp] theorem State.setPoison_actProg (s : State) (n : Nat) (b : Bool) : (s.setPoison n b).actProg = s.actProg := rfl
@[simp] theorem State.setPoison_tick (s : State) (n : Nat) (b : Bool) : (s.setPoison n b).tick = s.tick := rfl
@[simp] theorem State.setPoison_now (s : State) (n : Nat) (b : Bool) : (s.setPoison n b).now = s.now := rfl
@[simp] theorem State.setPoison_mem (s : State) (n : Nat) (b : Bool) : (s.setPoison n b).mem = s.mem := rfl
@[simp] theorem State.setPoison_cells (s : State) (n : Nat) (b : Bool) : (s.setPoison n b).cells = s.cells := rfl
@[simp] theorem State.setPoison_dists (s : State) (n : Nat) (b : Bool) : (s.setPoison n b).dists = s.dists := rfl
@[simp] theorem State.setPoison_dies (s : State) (n : Nat) (b : Bool) : (s.setPoison n b).dies = s.dies := rfl
@[simp] theorem State.setPoison_memStacks (s : State) (n : Nat) (b : Bool) : (s.setPoison n b).memStacks = s.memStacks := rfl
@[simp] theorem State.setPoison_net (s : State) (n : Nat) (b : Bool) : (s.setPoison n b).net = s.net := rfl
@[simp] theorem State.setPoison_stair (s : State) (n : Nat) (b : Bool) : (s.setPoison n b).stair = s.stair := rfl
@[simp] theorem State.setPoison_sysReqs (s : State) (n : Nat) (b : Bool) : (s.setPoison n b).sysReqs = s.sysReqs := rfl
@[simp] theorem State.setPoison_queues (s : State) (n : Nat) (b : Bool) : (s.setPoison n b).queues = s.queues := rfl
@[simp] theorem State.setPoison_launches (s : State) (n : Nat) (b : Bool) : (s.setPoison n b).launches = s.launches := rfl
@[simp] theorem State.setPoison_turns (s : State) (n : Nat) (b : Bool) : (s.setPoison n b).turns = s.turns := rfl
@[simp] theorem State.setPoison_ppGate (s : State) (n : Nat) (b : Bool) : (s.setPoison n b).ppGate = s.ppGate := rfl
@[simp] theorem State.setPoison_ppIdle (s : State) (n : Nat) (b : Bool) : (s.setPoison n b).ppIdle = s.ppIdle := rfl
@[simp] theorem State.setPoison_ppWake (s : State) (n : Nat) (b : Bool) : (s.setPoison n b).ppWake = s.ppWake := rfl
@[simp] theorem State.setPoison_imp (s : State) (n : Nat) (b : Bool) : (s.setPoison n b).imp = s.imp := rfl
@[simp] theorem State.setPoison_fmCtl (s : State) (n : Nat) (b : Bool) : (s.setPoison n b).fmCtl = s.fmCtl := rfl
@[simp] theorem State.setPoison_svc (s : State) (n : Nat) (b : Bool) : (s.setPoison n b).svc = s.svc := rfl
@[simp] theorem State.setPoison_svcNext (s : State) (n : Nat) (b : Bool) : (s.setPoison n b).svcNext = s.svcNext := rfl
@[simp] theorem State.setPoison_idNode (s : State) (n : Nat) (b : Bool) : (s.setPoison n b).idNode = s.idNode := rfl
@[simp] theorem State.setPoison_bsCause (s : State) (n : Nat) (b : Bool) : (s.setPoison n b).bsCause = s.bsCause := rfl
@[simp] theorem State.setPoison_bsStage (s : State) (n : Nat) (b : Bool) : (s.setPoison n b).bsStage = s.bsStage := rfl
@[simp] theorem State.setPoison_bsDone (s : State) (n : Nat) (b : Bool) : (s.setPoison n b).bsDone = s.bsDone := rfl
@[simp] theorem State.setPoison_faultPin (s : State) (n : Nat) (b : Bool) : (s.setPoison n b).faultPin = s.faultPin := rfl
@[simp] theorem State.setPoison_images (s : State) (n : Nat) (b : Bool) : (s.setPoison n b).images = s.images := rfl
@[simp] theorem State.setPoison_host (s : State) (n : Nat) (b : Bool) : (s.setPoison n b).host = s.host := rfl
@[simp] theorem State.setPoison_pcOver (s : State) (n : Nat) (b : Bool) : (s.setPoison n b).pcOver = s.pcOver := rfl
@[simp] theorem State.setPoison_pcWatts (s : State) (n : Nat) (b : Bool) : (s.setPoison n b).pcWatts = s.pcWatts := rfl
@[simp] theorem State.setPoison_capStretch (s : State) (n : Nat) (b : Bool) : (s.setPoison n b).capStretch = s.capStretch := rfl
@[simp] theorem State.setPoison_impValid (s : State) (n : Nat) (b : Bool) : (s.setPoison n b).impValid = s.impValid := rfl
@[simp] theorem State.setPoison_impCyc (s : State) (n : Nat) (b : Bool) : (s.setPoison n b).impCyc = s.impCyc := rfl
@[simp] theorem State.setPoison_impSet (s : State) (n : Nat) (b : Bool) : (s.setPoison n b).impSet = s.impSet := rfl
@[simp] theorem State.setPoison_notices (s : State) (n : Nat) (b : Bool) : (s.setPoison n b).notices = s.notices := rfl

@[simp] theorem State.updImp_imp (s : State) (f : Imposer → Imposer) : (s.updImp f).imp = f s.imp := rfl

/-! ## Parts by number -/

@[simp] theorem State.cell_updCell_same (s : State) (c : Nat) (f : Cell → Cell) : (s.updCell c f).cell c = f (s.cell c) :=
  Tab.get_upd_same Cell.reset s.cells c f

theorem State.cell_updCell_other (s : State) (c j : Nat) (f : Cell → Cell) (h : c ≠ j) : (s.updCell c f).cell j = s.cell j :=
  Tab.get_upd_other Cell.reset s.cells c j f h

@[simp] theorem State.ctx_updCtx_same (s : State) (c : Nat) (f : Ctx → Ctx) : (s.updCtx c f).ctx c = f (s.ctx c) := by
  simp [State.updCtx, State.ctx, Cell.updCtx]

theorem State.ctx_updCell_other (s : State) (c j : Nat) (f : Cell → Cell) (h : c ≠ j) : (s.updCell c f).ctx j = s.ctx j := by
  simp [State.ctx, State.cell_updCell_other s c j f h]

theorem State.ctx_updCtx_other (s : State) (c j : Nat) (f : Ctx → Ctx) (h : c ≠ j) : (s.updCtx c f).ctx j = s.ctx j :=
  State.ctx_updCell_other s c j _ h

@[simp] theorem State.core_updCore_same (s : State) (c : Nat) (f : Core → Core) : (s.updCore c f).core c = f (s.core c) := by
  simp [State.updCore, State.core]

theorem State.core_updCore_other (s : State) (c j : Nat) (f : Core → Core) (h : c ≠ j) : (s.updCore c f).core j = s.core j := by
  simp [State.updCore, State.core, State.ctx_updCtx_other s c j _ h]

@[simp] theorem State.ctx_updCore_same (s : State) (c : Nat) (f : Core → Core) :
    (s.updCore c f).ctx c = { s.ctx c with core := f (s.core c) } := by
  simp [State.updCore, State.core]

@[simp] theorem State.ctx_updOut_same (s : State) (c : Nat) (f : Outgoing → Outgoing) :
    (s.updOut c f).ctx c = { s.ctx c with out := f (s.ctx c).out } := by
  simp [State.updOut]

@[simp] theorem State.dist_updDist_same (s : State) (d : Nat) (f : District → District) : (s.updDist d f).dist d = f (s.dist d) :=
  Tab.get_upd_same District.reset s.dists d f

theorem State.dist_updDist_other (s : State) (d j : Nat) (f : District → District) (h : d ≠ j) : (s.updDist d f).dist j = s.dist j :=
  Tab.get_upd_other District.reset s.dists d j f h

@[simp] theorem State.die_updDie_same (s : State) (d : Nat) (f : Die → Die) : (s.updDie d f).die d = f (s.die d) :=
  Tab.get_upd_same Die.reset s.dies d f

theorem State.die_updDie_other (s : State) (d j : Nat) (f : Die → Die) (h : d ≠ j) : (s.updDie d f).die j = s.die j :=
  Tab.get_upd_other Die.reset s.dies d j f h

@[simp] theorem State.stack_updStack_same (s : State) (k : Nat) (f : Stack → Stack) : (s.updStack k f).stack k = f (s.stack k) :=
  Tab.get_upd_same Stack.reset s.memStacks k f

theorem State.stack_updStack_other (s : State) (k j : Nat) (f : Stack → Stack) (h : k ≠ j) : (s.updStack k f).stack j = s.stack j :=
  Tab.get_upd_other Stack.reset s.memStacks k j f h

end Sys2Proof.Machine
end

