-- ==== Sys2Proof/Laws/Memory.lean ====
section
/-! SUPPORT. Bytes of memory: what a write leaves, and that every operation on memory and on poison bits keeps the canonical form. -/

namespace Sys2Proof.Machine

/-! ## One byte -/

/-- Every listed address of a memory lies above a bound. -/
def Memory.above (n : Nat) (m : List Host.Cell) : Prop := ∀ p ∈ m, n < p.1

@[simp] theorem Memory.above_nil (n : Nat) : Memory.above n [] := fun _ h => absurd h (List.not_mem_nil)
@[simp] theorem Memory.above_cons (n k : Nat) (v : Byte) (t : List Host.Cell) : Memory.above n ((k, v) :: t) ↔ n < k ∧ Memory.above n t :=
  List.forall_mem_cons

theorem Memory.above_mono {n j : Nat} {m : List Host.Cell} (h : Memory.above n m) (hj : j ≤ n) : Memory.above j m :=
  fun q hq => Nat.lt_of_le_of_lt hj (h q hq)

theorem Memory.wf_cons (k : Nat) (v : Byte) (t : List Host.Cell) :
    Memory.wf ((k, v) :: t) = true ↔ v ≠ 0 ∧ Memory.above k t ∧ Memory.wf t = true := by
  induction t generalizing k v with
  | nil => simp [Memory.wf]
  | cons p t ih =>
    rw [Memory.wf, Memory.above_cons]
    simp only [Bool.and_eq_true, decide_eq_true_eq, bne_iff_ne]
    refine ⟨fun h => ⟨h.1.1, ⟨h.1.2, ?_⟩, h.2⟩, fun h => ⟨⟨h.1, h.2.1.1⟩, h.2.2⟩⟩
    exact Memory.above_mono ((ih p.1 p.2).mp h.2).2.1 (Nat.le_of_lt h.1.2)

theorem memGet_above (m : List Host.Cell) (n : Nat) (h : Memory.above n m) : memGet m n = 0 := by
  induction m with
  | nil => rfl
  | cons p t ih =>
    have h := (Memory.above_cons n p.1 p.2 t).mp h
    rw [memGet, if_neg (Nat.ne_of_gt h.1), ih h.2]

theorem memSet_above (m : List Host.Cell) (a n : Nat) (b : Byte) (h : Memory.above n m) (ha : n < a) :
    Memory.above n (memSet m a b) := by
  induction m with
  | nil => rw [memSet]; split <;> simp [ha]
  | cons p t ih =>
    have h := (Memory.above_cons n p.1 p.2 t).mp h
    rw [memSet]
    repeat' split
    · exact h.2
    · exact (Memory.above_cons ..).mpr ⟨ha, h.2⟩
    · exact (Memory.above_cons ..).mpr h
    · exact (Memory.above_cons ..).mpr ⟨ha, (Memory.above_cons ..).mpr h⟩
    · exact (Memory.above_cons ..).mpr ⟨h.1, ih h.2⟩

/-- A write of one byte keeps the canonical form. -/
theorem memSet_wf (m : List Host.Cell) (a : Nat) (b : Byte) (h : Memory.wf m = true) : Memory.wf (memSet m a b) = true := by
  induction m with
  | nil => rw [memSet]; split <;> simp_all [Memory.wf]
  | cons p t ih =>
    obtain ⟨k, v⟩ := p
    obtain ⟨hv, ha, ht⟩ := (Memory.wf_cons k v t).mp h
    rw [memSet]
    split
    · rename_i hk
      split
      · exact ht
      · rename_i hb; subst hk
        exact (Memory.wf_cons k b t).mpr ⟨hb, ha, ht⟩
    · split
      · split
        · exact h
        · rename_i hlt hb
          refine (Memory.wf_cons a b _).mpr ⟨hb, ?_, h⟩
          intro q hq
          rcases List.mem_cons.mp hq with rfl | hq
          · exact hlt
          · exact Nat.lt_trans hlt (ha q hq)
      · rename_i hne hnl
        refine (Memory.wf_cons k v _).mpr ⟨hv, memSet_above t a k b ha ?_, ih ht⟩
        omega

/-- A byte reads as it was written; in canonical memory this holds of the byte 0 too. -/
theorem memGet_memSet_same (m : List Host.Cell) (a : Nat) (b : Byte) (h : Memory.wf m = true) : memGet (memSet m a b) a = b := by
  induction m with
  | nil => rw [memSet]; split <;> simp_all [memGet]
  | cons p t ih =>
    obtain ⟨k, v⟩ := p
    obtain ⟨_, ha, ht⟩ := (Memory.wf_cons k v t).mp h
    rw [memSet]
    split
    · rename_i hk; subst hk
      split
      · rename_i hb; rw [hb]; exact memGet_above t k ha
      · simp [memGet]
    · rename_i hne
      split
      · rename_i hlt
        split
        · rename_i hb
          rw [hb, memGet, if_neg hne]
          exact memGet_above t a (Memory.above_mono ha (Nat.le_of_lt hlt))
        · simp [memGet]
      · rw [memGet, if_neg hne]; exact ih ht

/-- Every other byte reads as before. -/
theorem memGet_memSet_other (m : List Host.Cell) (a x : Nat) (b : Byte) (h : x ≠ a) : memGet (memSet m a b) x = memGet m x := by
  induction m with
  | nil => rw [memSet]; split <;> simp [memGet, Ne.symm h]
  | cons p t ih =>
    obtain ⟨k, v⟩ := p
    rw [memSet]
    split
    · rename_i hk; subst hk
      split <;> simp [memGet, Ne.symm h]
    · split
      · split
        · rfl
        · simp [memGet, Ne.symm h]
      · simp only [memGet]; rw [ih]

/-! ## Runs of bytes -/

theorem memWrite_wf (m : List Host.Cell) (a : Nat) (bs : List Byte) (h : Memory.wf m = true) : Memory.wf (memWrite m a bs) = true := by
  induction bs generalizing m a with
  | nil => exact h
  | cons b t ih => exact ih (memSet m a b) (a + 1) (memSet_wf m a b h)

theorem memGet_memWrite_outside (m : List Host.Cell) (a x : Nat) (bs : List Byte) (h : x < a ∨ a + bs.length ≤ x) :
    memGet (memWrite m a bs) x = memGet m x := by
  induction bs generalizing m a with
  | nil => rfl
  | cons b t ih =>
    simp only [List.length_cons] at h
    rw [memWrite, ih (memSet m a b) (a + 1) (by omega)]
    exact memGet_memSet_other m a x b (by omega)

theorem memRead_memWrite_same (m : List Host.Cell) (a : Nat) (bs : List Byte) (h : Memory.wf m = true) :
    memRead (memWrite m a bs) a bs.length = bs := by
  induction bs generalizing m a with
  | nil => rfl
  | cons b t ih =>
    have hw := memSet_wf m a b h
    have hb : memGet (memWrite (memSet m a b) (a + 1) t) a = b := by
      rw [memGet_memWrite_outside _ _ _ _ (by omega), memGet_memSet_same m a b h]
    rw [List.length_cons, memWrite, memRead, ih (memSet m a b) (a + 1) hw, hb]

/-- Leaving out entries keeps the form (R153: what a withdrawn unit held is discarded). -/
theorem filter_wf (m : List Host.Cell) (f : Host.Cell → Bool) (h : Memory.wf m = true) : Memory.wf (m.filter f) = true := by
  induction m with
  | nil => rfl
  | cons p t ih =>
    have h := (Memory.wf_cons p.1 p.2 t).mp h
    rw [List.filter_cons]
    split
    · exact (Memory.wf_cons p.1 p.2 _).mpr ⟨h.1, fun q hq => h.2.1 q (List.mem_filter.mp hq).1, ih h.2.2⟩
    · exact ih h.2.2

/-! ## Poison bits -/

theorem insLine_mem (l : List Nat) (n x : Nat) : x ∈ insLine l n ↔ x = n ∨ x ∈ l := by
  induction l with
  | nil => simp [insLine]
  | cons k t ih =>
    rw [insLine]
    split
    · rename_i h; subst h; simp
    · split
      · simp
      · simp only [List.mem_cons, ih]; exact or_left_comm

theorem insLine_rise (l : List Nat) (n : Nat) (h : LinesRise l) : LinesRise (insLine l n) := by
  induction l with
  | nil => simp [insLine]
  | cons k t ih =>
    obtain ⟨hk, ht⟩ := List.pairwise_cons.mp h
    rw [insLine]
    split
    · exact h
    · split
      · rename_i hlt
        exact .cons (List.forall_mem_cons.mpr ⟨hlt, fun x hx => Nat.lt_trans hlt (hk x hx)⟩) h
      · exact .cons (fun x hx => ((insLine_mem t n x).mp hx).elim (fun e => by omega) (hk x)) (ih ht)

/-! ## The canonical form of a state's memory -/

theorem State.canon_of_eq {s t : State} (h : s.Canon) (hm : t.mem = s.mem) (hp : t.poison = s.poison) : t.Canon := by
  unfold State.Canon at *; rw [hm, hp]; exact h

theorem State.reset_canon : State.reset.Canon := ⟨rfl, List.Pairwise.nil⟩

theorem State.setPoison_canon (s : State) (n : Nat) (b : Bool) (h : s.Canon) : (s.setPoison n b).Canon := by
  refine ⟨h.1, ?_⟩
  unfold State.setPoison
  cases b
  · exact h.2.filter _
  · exact insLine_rise s.poison n h.2

theorem State.memWrite_canon (s : State) (a : Nat) (bs : List Byte) (h : s.Canon) : ({ s with mem := memWrite s.mem a bs } : State).Canon :=
  ⟨memWrite_wf s.mem a bs h.1, h.2⟩

/-- A fold of acts that keep the form keeps it. -/
theorem foldl_canon {α : Type} (l : List α) (f : State → α → State) (hf : ∀ s a, s.Canon → (f s a).Canon) (s : State) (h : s.Canon) :
    (l.foldl f s).Canon := by
  induction l generalizing s with
  | nil => exact h
  | cons a t ih => exact ih (f s a) (hf s a h)

end Sys2Proof.Machine
end

