-- ==== Sys2Proof/Laws/Ops.lean ====
section
/-! SUPPORT. What the shared operations can do, each said once: x registers and the pc, freezing, stalls, and updates of one part in a
row. -/

namespace Sys2Proof.Machine

/-! ## Two updates of one part -/

theorem Tab.set_set {α : Type} (m : Tab α) (n : Nat) (v w : α) : Tab.set (Tab.set m n v) n w = Tab.set m n w := by
  induction m with
  | nil => simp [Tab.set]
  | cons p t ih =>
    obtain ⟨k, x⟩ := p
    simp only [Tab.set]
    split
    · simp [Tab.set]
    · split
      · simp [Tab.set]
      · rename_i h1 h2; simp [Tab.set, h1, h2, ih]

theorem Tab.upd_upd {α : Type} (d : α) (m : Tab α) (n : Nat) (f g : α → α) :
    Tab.upd d (Tab.upd d m n f) n g = Tab.upd d m n (fun a => g (f a)) := by
  simp only [Tab.upd, Tab.get_set_same, Tab.set_set]

theorem State.updCell_updCell (s : State) (c : Nat) (f g : Cell → Cell) :
    (s.updCell c f).updCell c g = s.updCell c (fun cl => g (f cl)) := by
  simp only [State.updCell, Tab.upd_upd]

theorem State.updCtx_updCtx (s : State) (c : Nat) (f g : Ctx → Ctx) :
    (s.updCtx c f).updCtx c g = s.updCtx c (fun x => g (f x)) := State.updCell_updCell ..

theorem State.updCore_updCore (s : State) (c : Nat) (f g : Core → Core) :
    (s.updCore c f).updCore c g = s.updCore c (fun k => g (f k)) := State.updCtx_updCtx ..

theorem State.updOut_updOut (s : State) (c : Nat) (f g : Outgoing → Outgoing) :
    (s.updOut c f).updOut c g = s.updOut c (fun o => g (f o)) := State.updCtx_updCtx ..

/-! ## x registers -/

@[simp] theorem Core.readX_zero (k : Core) : k.readX 0 = 0 := rfl

@[simp] theorem Core.writeX_zero (k : Core) (v : Word) : k.writeX 0 v = k := rfl

theorem Core.readX_writeX_same (k : Core) (r : XReg) (v : Word) (h : r ≠ 0) : (k.writeX r v).readX r = v := by
  unfold Core.readX Core.writeX
  rw [if_neg h, if_neg h]
  exact Vector.getElem_set_self ..

theorem Core.readX_writeX_other (k : Core) (rd r : XReg) (v : Word) (h : r ≠ rd) : (k.writeX rd v).readX r = k.readX r := by
  unfold Core.writeX Core.readX
  split
  · rfl
  · split
    · rfl
    · simp only
      rw [Vector.getElem_set_ne]
      intro he; exact h (BitVec.eq_of_toNat_eq he.symm)

/-- A write changes the x registers only. -/
theorem Core.writeX_eq (k : Core) (r : XReg) (v : Word) : k.writeX r v = { k with x := (k.writeX r v).x } := by
  unfold Core.writeX; split <;> rfl

/-- An advance changes the pc and the loop levels only. -/
theorem Core.advance_eq (k : Core) (n : Nat) :
    k.advance n = { k with pc := (k.advance n).pc, loops := (k.advance n).loops } := rfl

theorem Core.jump_eq (k : Core) (t : Nat) : k.jump t = { k with pc := (k.jump t).pc, loops := (k.jump t).loops } := rfl

@[simp] theorem Core.readX_advance (k : Core) (n : Nat) (r : XReg) : (k.advance n).readX r = k.readX r := rfl
@[simp] theorem Core.readX_jump (k : Core) (t : Nat) (r : XReg) : (k.jump t).readX r = k.readX r := rfl

/-! ## Stalls -/

/-- Where no operation owes a register, the instruction goes on. -/
theorem State.whenFree_free (s : State) (c : Nat) (rs : List XReg) (go : State → State) (h : (s.ctx c).owing rs = none) :
    s.whenFree c rs go = go s := by
  rw [State.whenFree, h]

/-- An instruction that names registers goes on, stops on a faulted engine, or stalls. -/
theorem State.whenFree_cases (s : State) (c : Nat) (rs : List XReg) (go : State → State) :
    ((s.ctx c).owing rs = none ∧ s.whenFree c rs go = go s) ∨ (∃ p, s.whenFree c rs go = s.stopOnEngine c p) ∨
      s.whenFree c rs go = s := by
  unfold State.whenFree
  split
  · exact .inl ⟨‹_›, rfl⟩
  · split
    · exact .inr (.inl ⟨_, rfl⟩)
    · exact .inr (.inr rfl)

/-- A wait for engines goes on, stops on a faulted engine, or stalls. -/
theorem State.whenIdle_cases (s : State) (c : Nat) (es : List Nat) (go : State → State) :
    s.whenIdle c es go = go s ∨ (∃ p, s.whenIdle c es go = s.stopOnEngine c p) ∨ s.whenIdle c es go = s := by
  unfold State.whenIdle
  split
  · split
    · exact .inr (.inl ⟨_, rfl⟩)
    · exact .inr (.inr rfl)
  · split
    · exact .inr (.inr rfl)
    · exact .inl rfl

/-- Waiting for idle engines goes on at once. -/
theorem State.whenIdle_idle (s : State) (c : Nat) (es : List Nat) (go : State → State)
    (hf : es.find? (fun e => ((s.ctx c).engFault e).isSome) = none) (hb : es.any (fun e => (s.ctx c).engBusy e) = false) :
    s.whenIdle c es go = go s := by
  simp [State.whenIdle, hf, hb]

/-! ## Faults -/

/-- A freeze changes one cell's run state only. -/
theorem State.freeze_eq (s : State) (c : Nat) (p : FaultPkt) :
    s.freeze c p = s.updCore c (fun k => { k with run := .frozen p false s.now }) := rfl

/-- A fault stops a cell whose engines are quiet, and leaves every other as it is. -/
theorem State.stop_quiet (s : State) (c : Nat) (p : FaultPkt) (h : s.quiet c = true) : s.stop c p = s.freeze c p := by
  simp [State.stop, h]

theorem State.stop_busy (s : State) (c : Nat) (p : FaultPkt) (h : s.quiet c = false) : s.stop c p = s := by
  simp [State.stop, h]

/-- All that a stop can do. -/
theorem State.stop_cases (s : State) (c : Nat) (p : FaultPkt) :
    (s.quiet c = true ∧ s.stop c p = s.freeze c p) ∨ (s.quiet c = false ∧ s.stop c p = s) := by
  cases h : s.quiet c
  · exact .inr ⟨rfl, s.stop_busy c p h⟩
  · exact .inl ⟨rfl, s.stop_quiet c p h⟩

theorem State.scalarFault_eq (s : State) (c cause : Nat) (a : Word) (h : s.quiet c = true) :
    s.scalarFault c cause a = s.updCore c (fun k => { k with run := .frozen (s.packet c 0 cause a 0) false s.now }) :=
  s.stop_quiet c _ h

theorem State.scalarFault_busy (s : State) (c cause : Nat) (a : Word) (h : s.quiet c = false) : s.scalarFault c cause a = s :=
  s.stop_busy c _ h

/-! ## Moves that are whole in one step -/

/-- A move that asks for nothing at another device happens. -/
theorem State.whole_eq (s : State) (f : State → State) (h : ∀ r ∈ (f s).sysReqs, r ∈ s.sysReqs) : s.whole f = f s := by
  have hn : ((f s).sysReqs.any (fun r => r.asked = s.tick && !s.sysReqs.contains r)) = false := by
    rw [List.any_eq_false]
    intro r hr
    simp [h r hr]
  unfold State.whole
  simp only [hn]
  rfl

/-- A move that is whole happens, or has no effect but that its requests are out. -/
theorem State.whole_cases (s : State) (f : State → State) : s.whole f = f s ∨ s.whole f = { s with sysReqs := (f s).sysReqs } := by
  unfold State.whole
  dsimp only
  split
  · exact .inr rfl
  · exact .inl rfl

theorem State.isFrozen_freeze (s : State) (c : Nat) (p : FaultPkt) : (s.freeze c p).isFrozen c = true := by
  simp [State.isFrozen, State.freeze]

end Sys2Proof.Machine
end

