-- ==== Sys2Proof/Tests/Slice0.lean ====
section
/-! SUPPORT. Tests of the model on small states, with results from the spec's worked examples or by hand from its rules, and states that
meet the hypotheses of the statements: a witness holds the hypotheses of the statement or the clause it is named after, at a boundary of
their range where they have one, often with what the clause concludes there. -/

namespace Sys2Proof.Tests

open Machine Sys2Proof.Spec

set_option Elab.async false

/-! ## Small states -/

/-- The next state of an outcome. -/
def after (o : Host.Outcome State Fault Refusal) : State := match o with
  | .next t => t
  | _ => State.reset

def isNext (o : Host.Outcome State Fault Refusal) : Bool := match o with
  | .next _ => true
  | _ => false
theorem next_of {o : Host.Outcome State Fault Refusal} (h : isNext o = true) : ∃ t, o = .next t := by
  cases o with
  | next t => exact ⟨t, rfl⟩
  | fault _ => cases h
  | refused _ => cases h

/-- A launch of ASID 1 with all of the scratchpad, and an activation of it that handler 0x40 began at cycle 0. -/
def launch1 : LCtx :=
  { key := ⟨1, 0, 0⟩, fb := false, det := 0, proof := false, footprint := 0x80000, vregs := 32, watchdog := 1000, cx := 0, cy := 0,
    nx := 1, ny := 1, offM := 0, offN := 0, offK := 0, extM := 0, extN := 0, extK := 0, live := 1, number := 0, begun := 1,
    cancelled := false, cut := false, partner := none, first := true }
def firing1 : Firing := ⟨0x40, 0, #v[1, 2, 3, 4], 5, false, false, false, 0, none⟩
def act1 : Activation := ⟨firing1, 7, 0, true, 0, false, none⟩

/-- Cell 0 runs that activation at pc 0x100 with x1 = 5 and x2 = −1, and its execute-only boundary at 0x1000. -/
def core1 : Core :=
  { Core.reset with
    x := (Core.reset.x.set 1 5).set 2 0xffffffffffffffff
    pc := 0x100
    run := .running
    act := some act1
    xoTop := 0x1000 }
/-- Reset with boot stage 3 done, so that cells and the Imposer run (R407). -/
def booted : State := { State.reset with bsDone := 8 }
def running : State := booted.updCtx 0 (fun x => { x with core := core1, launch := some launch1 })

/-- The same with other x registers, and as a non-retriable activation. -/
def withX (l : List (Nat × Word)) : State :=
  running.updCore 0 (fun k => { k with x := l.foldl (fun x p => x.set! p.1 p.2) k.x })
def settled (s : State) : State := s.updCore 0 (fun k => { k with act := some { act1 with retriable := false } })

/-! ## Integer operations, pointers, control -/

theorem witness_IntegerOperations : Free running [0, 31, 2] ∧ Free running [31, 2] ∧ Free running [31] := ⟨rfl, rfl, rfl⟩
/-- 5 + (2^64 − 1) wraps to 4, and x0 takes nothing (R200). -/
theorem test_add_wraps : exec (.add 3 1 2) running = .next (wrote running 3 4) ∧ exec (.add 0 1 2) running = .next (running.advance 0 4) :=
  ⟨rfl, rfl⟩
/-- R200: 5 × −1, high halves, quotients and remainders toward zero, and by zero. -/
theorem test_products_and_quotients : exec (.mulh 3 1 2) running = .next (wrote running 3 0xffffffffffffffff) ∧
    exec (.mulhn 3 1 2) running = .next (wrote running 3 4) ∧ exec (.div 3 1 2) running = .next (wrote running 3 0xfffffffffffffffb) ∧
    exec (.divn 3 1 2) running = .next (wrote running 3 0) ∧ exec (.rem 3 1 0) running = .next (wrote running 3 5) ∧
    exec (.div 3 1 0) running = .next (wrote running 3 0) := ⟨rfl, rfl, rfl, rfl, rfl, rfl⟩
/-- R200: DIV of −2^63 by −1 gives −2^63, and REM gives 0. -/
theorem test_div_corner : (after (exec (.div 3 4 2) (withX [(4, 2 ^ 63)]))).readX 0 3 = 2 ^ 63 ∧
    (after (exec (.rem 3 4 2) (withX [(4, 2 ^ 63)]))).readX 0 3 = 0 := by decide +kernel
/-- What x3 holds after an instruction. -/
def x3 (i : Instr) : Word := (after (exec i running)).readX 0 3
/-- R200: shifts by rb[5:0], copies of bit 63, comparisons by sign, leading zeros and ones. -/
theorem test_shifts_and_counts : x3 (.sra 3 2 1) = 0xffffffffffffffff ∧ x3 (.shr 3 2 2) = 1 ∧ x3 (.slt 3 2 1) = 1 ∧ x3 (.sltn 3 2 1) = 0 ∧
    x3 (.min 3 1 2) = 0xffffffffffffffff ∧ x3 (.minn 3 1 2) = 5 ∧ x3 (.clz 3 1) = 61 ∧ x3 (.clz 3 0) = 64 ∧ x3 (.popc 3 2) = 64 := by
  decide +kernel
/-- R201: LUI then ORI leaves 0x1234_5678 in x5. -/
theorem test_lui_ori : (after (exec (.ori 5 5 0x5678) (after (exec (.lui 5 0x1234) running)))).readX 0 5 = 0x12345678 := rfl

/-- A pointer of format FP32 (8) to the last byte address but three, and one whose bits [63:61] are not zero. -/
def ptrs : State := withX [(4, 8 * 2 ^ 52 + (2 ^ 52 - 4)), (5, 2 ^ 61), (6, 1)]
theorem witness_PointerResults : Free ptrs [3, 4, 6] ∧ Free ptrs [3, 4] ∧ ptrGood (xv ptrs 4) ∧ ¬ ptrGood (xv ptrs 5) := by
  refine ⟨rfl, rfl, ?_, ?_⟩ <;> unfold ptrGood <;> decide
/-- R202, R61: one byte more goes on; one element more leaves the address range. -/
theorem test_addp : exec (.addp 3 4 6) ptrs = .next (wrote ptrs 3 (8 * 2 ^ 52 + (2 ^ 52 - 3))) ∧
    exec (.addpe 3 4 6) ptrs = .next (ptrs.scalarFault 0 0x03 0) ∧ exec (.addp 3 5 6) ptrs = .next (ptrs.scalarFault 0 0x03 0) ∧
    exec (.pget 3 4 .fmt) ptrs = .next (wrote ptrs 3 8) := ⟨rfl, rfl, rfl, rfl⟩

theorem witness_ControlTransfers : Free running [1, 2] ∧ Free running [31] ∧ Free running [0, 1] := ⟨rfl, rfl, rfl⟩
/-- R207: a taken branch back to pc − 4, and one not taken. -/
theorem test_branch : exec (.bne 1 2 0xffff) running = .next (running.jump 0 0xfc) ∧
    exec (.beq 1 2 0xffff) running = .next (running.advance 0 4) ∧ exec (.blt 2 1 0xffff) running = .next (running.jump 0 0xfc) ∧
    exec (.bltn 2 1 0xffff) running = .next (running.advance 0 4) := ⟨rfl, rfl, rfl, rfl⟩
/-- R208: the target loses bits [1:0], and ra is read before rd is written. -/
theorem test_jalr : (after (exec (.jalr 1 1 1) running)).pc 0 = 8 ∧ (after (exec (.jalr 1 1 1) running)).readX 0 1 = 0x104 := ⟨rfl, rfl⟩

/-- Cell 0 inside the last pass of a loop whose body ends behind its pc, and in two loops of one end. -/
def looped : State := running.updCore 0 (fun k => { k with loops := [⟨1, 0xf8, 0x104⟩] })
def looped2 : State := running.updCore 0 (fun k => { k with loops := [⟨1, 0xfc, 0x104⟩, ⟨2, 0xf8, 0x104⟩] })
/-- R209: a third level and one that outlasts its outer loop fault; a loop of no passes is skipped. -/
theorem witness_ControlTransfers_loops : (2 ≤ (looped2.core 0).loops.length ∧ exec (.loopi 3 1) looped2 = .next (looped2.scalarFault 0 0x01 0)) ∧
    ((looped.core 0).loops = [⟨1, 0xf8, 0x104⟩] ∧ exec (.loopi 3 1) looped = .next (looped.scalarFault 0 0x01 0)) ∧
    exec (.loopi 0 3) running = .next (running.advance 0 16) ∧
    ((after (exec (.loopi 16 3) running)).core 0).loops = [⟨16, 0x104, 0x110⟩] := ⟨⟨by decide, rfl⟩, ⟨rfl, rfl⟩, rfl, rfl⟩
/-- R209: at one end the inner loop is over and the outer one goes back. -/
theorem test_loop_end : ((looped2.core 0).advance 4).pc = 0xf8 ∧ ((looped2.core 0).advance 4).loops = [⟨1, 0xf8, 0x104⟩] ∧
    ((looped.core 0).advance 4).pc = 0x104 ∧ ((looped.core 0).advance 4).loops = [] ∧ ((looped2.core 0).jump 0x104).loops = [] :=
  ⟨rfl, rfl, rfl, rfl, rfl⟩

theorem witness_RegisterOnlyFrame : RegOnly (.add 3 1 2) 3 ∧ exec (.add 3 1 2) running = .next (wrote running 3 4) ∧
    RegOnly (.trap 9) 0 ∧ exec (.trap 9) running = .next (Spec.frozenAt running 0x04 9) := ⟨.add 3 1 2, rfl, .trap 9, rfl⟩

/-! ## The scalar core's memory -/

/-- Byte values at the first and the last word of cell 0's scratchpad above its boundary, and a page of 64 KiB at 0x10_0000 that maps to HBM
at 0x400_0000 (bits valid, readable, writable, poison allowed). -/
def memory : State :=
  { running.updCell 0 (fun cl => { cl with utlb := [⟨1, 0x100000, 0x10000, 0x4000000, 0x17, none⟩] }) with
    mem := [(0x400fff8, 9), (spBase 0 + 0x1000, 0x80), (spBase 0 + 0x7fffc, 0xfe), (spBase 0 + 0x7fffd, 0xff), (spBase 0 + 0x7fffe, 0xff),
      (spBase 0 + 0x7ffff, 0xff)] }
/-- The base register x4 at an address. -/
def atAddr (s : State) (a : Word) : State := s.writeX 0 4 a

theorem own_first (n : Nat) (h : n ∈ [1, 2, 4, 8]) : Spec.OwnAccess (atAddr memory 0x1000) [3, 4] (xv (atAddr memory 0x1000) 4) 0 n 0x1000 := by
  simp only [List.mem_cons, List.not_mem_nil, or_false] at h
  rcases h with rfl | rfl | rfl | rfl <;>
    exact ⟨rfl, rfl, by decide +kernel, by decide, by decide +kernel, by decide +kernel, by decide, by decide +kernel, by decide +kernel⟩
theorem own_last : Spec.OwnAccess (atAddr memory 0x7fffc) [3, 4] (xv (atAddr memory 0x7fffc) 4) 0 4 0x7fffc :=
  ⟨rfl, rfl, by decide +kernel, by decide, by decide +kernel, by decide +kernel, by decide, by decide +kernel, by decide +kernel⟩

theorem witness_Loads : Spec.OwnAccess (atAddr memory 0x7fffc) [3, 4] (xv (atAddr memory 0x7fffc) 4) 0 4 0x7fffc ∧
    ((atAddr memory 0x7fffc).ctx 0).out.sb = [] ∧ Spec.Settled (atAddr memory 0x7fffc) 0 0 (spBase 0 + 0x7fffc) 4 :=
  ⟨own_last, rfl, by unfold Spec.Settled; decide +kernel⟩
/-- The last word of the page in HBM. -/
theorem witness_Loads_mapped : Free (atAddr memory 0x10fff8) [3, 4] ∧ (atAddr memory 0x10fff8).resolve 0 .load false 0x10fff8 = .ok ⟨.mem 0x400fff8, 0x17⟩ ∧
    sbForward 0 ((atAddr memory 0x10fff8).ctx 0).out.sb (.mem 0x400fff8) 8 = none ∧
    (∃ b s1, (atAddr memory 0x10fff8).scalarRead 0 ⟨.mem 0x400fff8, 0x17⟩ 8 = (b, false, s1)) ∧ 0x10fff8 % 8 = 0 ∧ 0x10fff8 + 8 ≤ 2 ^ 52 :=
  ⟨rfl, rfl, rfl, ⟨_, _, rfl⟩, by decide, by decide⟩
/-- R203: signs and zeros; R204. -/
theorem test_loads : (after (exec (.ld .s32 3 4 0) (atAddr memory 0x7fffc))).readX 0 3 = 0xfffffffffffffffe ∧
    (after (exec (.ld .n32 3 4 0) (atAddr memory 0x7fffc))).readX 0 3 = 0xfffffffe ∧
    (after (exec (.ld .s8 3 4 0) (atAddr memory 0x1000))).readX 0 3 = 0xffffffffffffff80 ∧
    (after (exec (.lda .n16 3 4 .system) (atAddr memory 0x1000))).readX 0 3 = 0x80 ∧
    (after (exec (.ld .d64 3 4 0) (atAddr memory 0x10fff8))).readX 0 3 = 9 := by decide +kernel

theorem witness_StoresBuffer : Spec.OwnAccess (atAddr memory 0x1000) [3, 4] (xv (atAddr memory 0x1000) 4) 0 8 0x1000 ∧
    ((atAddr memory 0x1000).ctx 0).out.sb.length < 16 := ⟨own_first 8 (by decide), by decide +kernel⟩
theorem witness_StoresBuffer_mapped : (atAddr memory 0x10fff8).resolve 0 .store false 0x10fff8 = .ok ⟨.mem 0x400fff8, 0x17⟩ ∧
    Place.isOwn (.mem 0x400fff8) = false ∧ ((atAddr memory 0x10fff8).core 0).run = .running := ⟨rfl, rfl, rfl⟩

/-- x2's low word buffered, and then performed at the first line above the boundary; the same by a non-retriable activation; and a store
to the page in HBM. -/
def buffered : State := after (exec (.st .w32 2 4 0) (atAddr memory 0x1000))
def buffered' : State := after (exec (.st .w32 2 4 0) (atAddr memory 0x10fff8))
theorem quiet_buffered : Spec.Quiet buffered 0 := ⟨by decide +kernel, by decide +kernel⟩
theorem witness_StoresPerform : (buffered.ctx 0).out.sb = [⟨0, true, 0x1000, 0x1000, [0xff, 0xff, 0xff, 0xff]⟩] ∧ buffered.netStore 0 = none ∧
    (buffered.cell 0).moving = none ∧ Memory.wf buffered.mem = true ∧ Spec.Quiet buffered 0 ∧ buffered.journalFull 0 0x1000 4 = false ∧
    buffered.racing 0 0 (spBase 0 + 0x1000) 4 = [] :=
  ⟨by decide +kernel, by decide +kernel, by decide +kernel, by decide +kernel, quiet_buffered, by decide +kernel, by decide +kernel⟩
theorem witness_StoresPerform_held : (buffered'.ctx 0).out.sb = [⟨0, false, 0x400fff8, 0x10fff8, [0xff, 0xff, 0xff, 0xff]⟩] ∧
    (buffered'.ctx 0).retriable = true ∧ heldSize (buffered'.ctx 0).out.held + (buffered'.storePacket 0 0x400fff8 0x10fff8 [0xff, 0xff, 0xff, 0xff]).size ≤ 65536 :=
  by decide +kernel
theorem witness_StoresPerform_home : ((settled buffered').ctx 0).out.sb.length = 1 ∧ ((settled buffered').ctx 0).retriable = false ∧
    (settled buffered').storesOut 0 = false ∧ (settled buffered').rapsOut 0 = false ∧ (settled buffered').portRow 0x400fff8 = none ∧
    (settled buffered').racing 0 0 0x400fff8 4 = [] := by decide +kernel
/-- R95, R139: no byte moves before STORE_PERFORM; then the bytes stand and the old line is in the journal; a retriable store to memory
is held. -/
theorem test_store_performs : buffered.readNat (spBase 0 + 0x1000) 4 = 0x80 ∧
    (after (exec (.storePerform 0) buffered)).readNat (spBase 0 + 0x1000) 5 = 0xffffffff ∧
    ((after (exec (.storePerform 0) buffered)).ctx 0).out.journal.map (fun j => (j.1, j.2.1.headD 0)) = [(64, 0x80)] ∧
    (after (exec (.storePerform 0) buffered')).mem = memory.mem ∧ ((after (exec (.storePerform 0) buffered')).ctx 0).out.held.length = 1 ∧
    (after (exec (.storePerform 0) (settled buffered'))).readNat 0x400fff8 4 = 0xffffffff := by decide +kernel

/-- Misaligned, below 0, and across 2^52; both ends of the bellboard window. -/
theorem witness_AccessFaults : Spec.AccessForm (.ld .d64 3 4 0xff8) [3, 4] 4 (-8) 8 ∧ Free (atAddr memory 4) [3, 4] ∧
    ((xv (atAddr memory 4) 4).toNat % 2 ^ 52 : Nat) + (-8 : Int) < 0 ∧ ((xv (atAddr memory 4) 4).toNat % 2 ^ 52 : Nat) % 8 ≠ 0 ∧
    ((xv (atAddr memory 0xffffffffffff8) 4).toNat % 2 ^ 52 : Nat) + (8 : Int) + 8 > 2 ^ 52 :=
  ⟨.ld .d64 3 4 0xff8, rfl, by decide +kernel, by decide +kernel, by decide +kernel⟩
theorem witness_AccessFaults_window : Spec.AccessForm (.st .w8 3 4 0) [3, 4] 4 0 1 ∧ ((atAddr memory 0x87fff).cell 0).walked = [] ∧
    (xv (atAddr memory 0x87fff) 4).toNat = 0x87fff ∧ Spec.AccessForm (.amo .add true .cell 3 4 5) [3, 4, 5] 4 0 8 ∧
    (xv (atAddr memory 0x80000) 4).toNat = 0x80000 := ⟨.st .w8 3 4 0, rfl, rfl, .amo .add true .cell 3 4 5, rfl⟩
theorem test_access_faults : exec (.ld .d64 3 4 0) (atAddr memory 4) = .next ((atAddr memory 4).scalarFault 0 0x13 4) ∧
    exec (.st .w8 3 4 0) (atAddr memory 0x87fff) = .next ((atAddr memory 0x87fff).scalarFault 0 0x13 0x87fff) := ⟨rfl, rfl⟩

theorem witness_Atomics : Spec.OwnAccess (atAddr memory 0x1000) [3, 4] (xv (atAddr memory 0x1000) 4) 0 8 0x1000 ∧ Free (atAddr memory 0x1000) [3, 4, 2] ∧
    ((atAddr memory 0x1000).ctx 0).out.sb = [] ∧ Memory.wf (atAddr memory 0x1000).mem = true ∧
    ((atAddr memory 0x1000).ctx 0).out.journal.length < 64 := ⟨own_first 8 (by decide), rfl, rfl, by decide +kernel, by decide +kernel⟩
/-- R205: the old value in rd, zero-extended, and the new one in place; CAS writes only where the old value is rd's. -/
theorem test_atomics : (after (exec (.amo .add false .cell 3 4 2) (atAddr memory 0x1000))).readX 0 3 = 0x80 ∧
    (after (exec (.amo .add false .cell 3 4 2) (atAddr memory 0x1000))).readNat (spBase 0 + 0x1000) 5 = 0x7f ∧
    (after (exec (.amo .max false .cell 3 4 2) (atAddr memory 0x1000))).readNat (spBase 0 + 0x1000) 4 = 0x80 ∧
    (after (exec (.amo .maxn false .cell 3 4 2) (atAddr memory 0x1000))).readNat (spBase 0 + 0x1000) 4 = 0xffffffff ∧
    (after (exec (.cas true .cell 3 4 2) (atAddr memory 0x1000))).readNat (spBase 0 + 0x1000) 8 = 0x80 ∧
    (after (exec (.cas true .cell 3 4 2) ((atAddr memory 0x1000).writeX 0 3 0x80))).readNat (spBase 0 + 0x1000) 8 = 2 ^ 64 - 1 := by decide +kernel

theorem witness_Fences : (running.core 0).run = .running ∧ (running.ctx 0).out.sb = [] ∧ ((settled running).ctx 0).retriable = false ∧
    Spec.Quiet (settled running) 0 ∧ (running.ctx 0).proof = false := ⟨rfl, rfl, rfl, ⟨rfl, rfl⟩, rfl⟩
/-- R140: a wider fence ends retriability, one of cell scope does not. -/
theorem test_fences : exec (.fence .full .cell) running = .next (running.advance 0 4) ∧
    ((after (exec (.fence .rel .die) running)).ctx 0).retriable = false ∧ exec (.fence .acq .die) running = .next (running.advance 0 4) ∧
    exec (.fence .rel .cell) buffered = .next buffered := ⟨rfl, rfl, rfl, rfl⟩

theorem witness_MemoryFrame : (∃ t, exec (.amo .swap true .cell 3 4 2) (atAddr memory 0x1000) = .next t) ∧
    Spec.AccessForm (.amo .swap true .cell 3 4 2) [3, 4, 2] 4 0 8 ∧
    scalarAddr (xv (atAddr memory 0x1000) 4) 0 8 = some 0x1000 ∧
    (atAddr memory 0x1000).resolve 0 .both false 0x1000 = .ok ⟨.own 0x1000, 0x17⟩ :=
  ⟨next_of (by decide +kernel), .amo .swap true .cell 3 4 2, by decide +kernel, by decide +kernel⟩
/-- A store in the buffer, and STL and FENCE behind it: no byte moves (R95, R140). -/
theorem witness_MemoryFrame_buffered : (buffered.ctx 0).out.sb = [⟨0, true, 0x1000, 0x1000, [0xff, 0xff, 0xff, 0xff]⟩] ∧
    (∃ t, exec (.stl .w8 2 4 .device) buffered = .next t ∧ t.mem = buffered.mem) ∧
    (∃ t, exec (.fence .rel .device) buffered = .next t ∧ t.mem = buffered.mem ∧ (t.ctx 0).retriable = false) :=
  ⟨by decide +kernel, ⟨_, rfl, by decide +kernel⟩, ⟨_, rfl, by decide +kernel, by decide +kernel⟩⟩

/-! ## Messages and the bellboard -/

/-- Bound and enabled with reload 1, a barrier, and one that is neither. -/
def bell1 : Entry := { Entry.reset with handler := 0x40, bound := true, enable := true, prio := 1 }
def bar1 : Entry := { Entry.reset with count := 1, barrier := true, parked := true }
theorem witness_Bellboard_loops : 0 < { bell1 with count := 1 }.count ∧ bell1.count ≤ 0 ∧ (bell1.enable && bell1.bound) = true ∧ 1 ≤ bell1.reload ∧
    (Entry.reset.enable && Entry.reset.bound) = false ∧ Entry.reset.count ≤ 0 ∧ 0 < bar1.count ∧ { bar1 with pend := 1 }.pend ≠ 0 ∧
    { bar1 with count := 0 }.count ≤ 0 ∧ { bar1 with count := 0 }.pend = 0 ∧ bar1.barrier = true ∧ bell1.barrier = false := by decide
/-- R193: a decrement of 3 on count 1 and reload 2 fires once at −2 and again at 0, and stands at 2; R193, R194: a barrier's phase turns. -/
theorem test_entries : (({ bell1 with count := 1, reload := 2 } : Entry).deliver 3 []).1.count = 2 ∧
    (({ bell1 with count := 1, reload := 2 } : Entry).deliver 3 []).2 = 2 ∧ (bar1.deliver 1 []).1.phase = true ∧ (bar1.deliver 1 []).2 = 1 ∧
    (bell1.deliver 0 [7, 8]).1.args = #v[7, 8, 0, 0] ∧ (bell1.deliver 0 [7, 8]).2 = 0 := by decide +kernel

/-- Cell 0 with entry 3 bell1 and entry 4 bar1, x28 to x31 = 1 to 4 as payload, x5 the last cell of the device as destination and x6 the
control word of entry 3, decrement 1. -/
def messages : State :=
  (withX [(28, 1), (29, 2), (30, 3), (31, 4), (5, 3071), (6, 2 ^ 32 + 3)]).updCtx 0 (fun x => { x with bell := [(3, { bell1 with count := 1 }), (4, bar1)] })
theorem witness_MessagesSent : Free messages ([6, 5] ++ payRegs 28 4) ∧ xv messages 5 = Spec.cellDest 3071 ∧ (messages.ctx 0).proof = false ∧
    Spec.leadsTo messages 3071 = 3071 ∧
    (messages.core 0).run = .running ∧ (messages.ctx 0).retriable = true ∧
    heldSize (messages.ctx 0).out.held + (Spec.sendPacket messages 3071 (xv messages 6) [1, 2, 3, 4]).size ≤ 65536 ∧
    ((settled messages).ctx 0).retriable = false ∧ ((settled messages).ctx 0).out.sb = [] ∧ Free messages [3, 5, 6] ∧ (5 : XReg) ≠ 0 := by
  refine ⟨rfl, rfl, rfl, by decide +kernel, rfl, rfl, by decide +kernel, rfl, rfl, rfl, by decide⟩
/-- R149: cell 3071 has been left for cell 7, and the message goes there. -/
def leftFor : State := messages.updCell 3071 (fun cl => { cl with fwd := [⟨⟨1, 0, 0⟩, 7⟩] })
theorem witness_MessagesSent_forward : Free leftFor ([6, 5] ++ payRegs 28 4) ∧ xv leftFor 5 = Spec.cellDest 3071 ∧ Spec.leadsTo leftFor 3071 = 7 ∧
    (leftFor.ctx 7).launch = none ∧ ((after (exec (.send 6 5 28 0) (settled leftFor))).net.map (·.dst)) = [7] := by
  refine ⟨rfl, rfl, by decide +kernel, rfl, by decide +kernel⟩
/-- Both ends of the numbers that name no cell, mode 3, and a set reserved bit. -/
theorem witness_MessagesSent_faults : xv (withX [(5, 3072)]) 5 = Spec.cellDest 3072 ∧ xv (withX [(5, 4095)]) 5 = Spec.cellDest 4095 ∧
    (xv (withX [(5, 3 * 2 ^ 62)]) 5).toNat / 2 ^ 62 = 3 ∧ (xv (withX [(5, 2 ^ 41)]) 5).toNat / 2 ^ 41 % 2 ^ 21 ≠ 0 := by decide +kernel
/-- R211, R139: four words to entry 3 of cell 3071 are held, 48 bytes; R198: no cell 3072. -/
theorem test_send : ((after (exec (.send 6 5 28 4) messages)).ctx 0).out.held =
      [⟨0, ⟨0, some ⟨1, 0, 0⟩, 0, 3071, .device, .msg 3 1 [1, 2, 3, 4], 0⟩⟩] ∧
    (after (exec (.send 6 5 28 4) (settled messages))).net.length = 1 ∧
    exec (.send 6 5 28 0) (withX [(5, 3072)]) = .next ((withX [(5, 3072)]).scalarFault 0 0x13 3072) ∧
    (after (exec (.arrv 3 7 5 28) messages)).readX 0 7 = 0 := by
  refine ⟨by decide +kernel, by decide +kernel, rfl, by decide +kernel⟩

/-- Operand 9 in x8 for the last word of the scratchpad, x9, and an image at 0x1000 for the last XA element there, x10. -/
def packets : State := withX [(8, 9), (9, 0x7fffc), (10, 0x7ff80), (11, 0x1000)]
theorem witness_MessagesSent_rap : Free packets [0, 9, 8] ∧ (xv packets 9).toNat % 2 ^ 52 = 0x7fffc ∧ (packets.core 0).xoTop ≤ 0x7fffc ∧
    0x7fffc + 4 ≤ (packets.cell 0).fpCap ∧ ¬ (RapTy.s32 = .f32 ∧ RapOp.add = .add ∧ false = false ∧ 1 ≤ (packets.ctx 0).det) ∧
    leBytes 4 ((xv packets 8).toNat % 2 ^ 32) = [9, 0, 0, 0] := by
  refine ⟨rfl, by decide +kernel, by decide +kernel, by decide +kernel, fun h => (by cases h.1), by decide +kernel⟩
theorem witness_MessagesSent_rap_xa : Free packets [0, 10, 11] ∧ (xv packets 10).toNat % 2 ^ 52 = 0x7ff80 ∧ 0x7ff80 + 80 ≤ (packets.cell 0).fpCap ∧
    0x7ff80 % 64 = 0 ∧ (xv packets 11).toNat % 2 ^ 52 % 64 = 0 ∧ (packets.core 0).xoTop ≤ (xv packets 11).toNat % 2 ^ 52 ∧
    packets.poisoned ((spBase 0 + 0x1000) / 64) = false ∧ packets.poisoned ((spBase 0 + 0x1000) / 64 + 1) = false ∧
    (packets.read (spBase 0 + 0x1000) 80).length = 80 := by
  refine ⟨rfl, by decide +kernel, by decide +kernel, by decide, by decide +kernel, by decide +kernel, by decide +kernel, by decide +kernel,
    by decide +kernel⟩
theorem test_rap : (after (exec (.rap .s32 .add false .die 0 9 8) (settled packets))).net =
    [⟨0, some ⟨1, 0, 0⟩, 0, 0, .die, .rap .s32 .add none (spBase 0 + 0x7fffc) 0x7fffc [9, 0, 0, 0], 0⟩] := by decide +kernel

/-- Entry 3 with one firing of 64 queued already takes no more; here the queue is empty. -/
theorem witness_Bellboard : Free messages [5, 28] ∧ Free messages [28] ∧ Free messages [3, 0, 28] ∧ (messages.ctx 0).retriable = true ∧
    ((settled messages).ctx 0).retriable = false ∧ ((messages.ctx 0).rq.toList.getD 1 []).length + 1 ≤ 64 := by
  refine ⟨rfl, rfl, rfl, rfl, rfl, by decide +kernel⟩
/-- R213: a reload below 1 is taken as 1, and a handler loses bits [1:0]; ARM with a count of 0 fires; ENAB of an entry that is due fires.
R139: a retriable activation's firings are held. -/
theorem test_bellboard : let s := withX [(5, 0), (6, 0x43)]
    ((after (exec (.bind 9 2 6 5) s)).ctx 0).entry 9 = { Entry.reset with pending := true, handler := 0x40, bound := true, prio := 2 } ∧
    ((after (exec (.arm 3 false 5) (messages.writeX 0 5 0))).ctx 0).out.firings.length = 1 ∧
    ((after (exec (.arm 3 false 5) (settled (messages.writeX 0 5 0)))).ctx 0).rq.toList.map List.length = [0, 1, 0, 0] ∧
    ((after (exec (.enab 9 true) (after (exec (.bind 9 2 6 5) s)))).ctx 0).out.firings.length = 1 := by decide +kernel

theorem ready_to_end : Spec.CanEnd running := by
  refine ⟨rfl, rfl, rfl, rfl, rfl, rfl, rfl, rfl, rfl, ?_⟩
  intro l h
  have e : (running.ctx running.actCell).launch = some launch1 := rfl
  rw [e] at h; cases h; exact ⟨rfl, rfl, rfl⟩
/-- A held firing of level 1. -/
def firing2 : Firing := ⟨0x80, 1, #v[0, 0, 0, 0], 3, false, false, false, 0, none⟩
def fired : State := running.updOut 0 (fun o => { o with firings := [firing2] })
theorem witness_ActivationEnds : Spec.CanEnd running ∧ (running.ctx 0).launch.isSome = true ∧ (running.ctx 0).out.firings = [] ∧
    (fired.ctx 0).out.firings = [firing2] ∧ ((fired.ctx 0).rq.toList.getD (firing2.prio % 4) []).length < 64 :=
  ⟨ready_to_end, rfl, rfl, rfl, by decide +kernel⟩
/-- An entry that is no barrier, one with a parked continuation, and a barrier in either phase. -/
def barriers : State := withX [(5, 1)] |>.updCtx 0 (fun x => { x with bell := [(3, bell1), (4, bar1), (255, { bar1 with parked := false })] })
theorem witness_ActivationEnds_wait : Free barriers [5, 6, 1, 2, 3, 4] ∧ ((barriers.ctx 0).entry 3).barrier = false ∧
    ((barriers.ctx 0).entry 4).parked = true ∧ ((barriers.ctx 0).entry 255).barrier = true ∧ ((barriers.ctx 0).entry 255).parked = false ∧
    ((barriers.ctx 0).entry 255).phase = (xv barriers 0).getLsbD 0 ∧ ((barriers.ctx 0).entry 255).phase ≠ (xv barriers 5).getLsbD 0 ∧
    ((barriers.ctx 0).rq.toList.getD ((barriers.ctx 0).entry 255).prio.toNat []).length < 64 ∧ (barriers.ctx 0).out.firings = [] := by
  refine ⟨rfl, by decide +kernel, by decide +kernel, by decide +kernel, by decide +kernel, by decide +kernel, by decide +kernel,
    by decide +kernel, rfl⟩
/-- R199, R216, R215: END releases the firing; WAITB at the current phase parks, and at the other fires. -/
theorem test_end : ((after (exec (.endAct false) fired)).ctx 0).rq.toList = [[], [firing2], [], []] ∧
    ((after (exec (.endAct false) fired)).core 0).run = .idle ∧ ((after (exec (.endAct true) running)).ctx 0).launch = none ∧
    (((after (exec (.waitb 255 0 6) barriers)).ctx 0).entry 255).parked = true ∧
    ((after (exec (.waitb 255 5 6) barriers)).ctx 0).rq.toList.map List.length = [1, 0, 0, 0] ∧
    (after (exec (.waitb 3 5 6) barriers)) = barriers.scalarFault 0 0x13 0x800c0 := by decide +kernel

/-! ## Special registers, system instructions, faults -/

/-- x5 = 64, the lowest boundary; x6 = 0x7ffc0, the highest; x7 = 32, which is no boundary. -/
def bounds : State := withX [(5, 64), (6, 0x7ffc0), (7, 32)]
theorem witness_SpecialRegisters : Free bounds [5] ∧ Free bounds [6] ∧ (bounds.ctx 0).launch = some launch1 ∧ (bounds.cell 0).floor.evac = none ∧
    ((xv bounds 5).toNat < 2 ^ 19 ∧ (xv bounds 5).toNat % 64 = 0 ∧ 64 ≤ (xv bounds 5).toNat ∧ (xv bounds 5).toNat ≤ (bounds.cell 0).footprint) ∧
    ((xv bounds 6).toNat < 2 ^ 19 ∧ (xv bounds 6).toNat % 64 = 0 ∧ 64 ≤ (xv bounds 6).toNat ∧ (xv bounds 6).toNat ≤ (bounds.cell 0).footprint) ∧
    ¬ 64 ≤ (xv bounds 7).toNat ∧ (bounds.ctx 0).out.sb = [] ∧ bounds.selfBound 0 = false ∧ Spec.EnginesIdle bounds ∧ (buffered.ctx 0).out.sb ≠ [] := by
  refine ⟨rfl, rfl, rfl, rfl, by decide +kernel, by decide +kernel, by decide +kernel, rfl, rfl, ⟨rfl, rfl, rfl, rfl, rfl, rfl, rfl⟩, by decide +kernel⟩
/-- R124, R186, R190: id.launch holds the ASID at bit 48; the fault carries the value; fp.cap is 512 KiB. -/
theorem test_special : (after (exec (.mfs 3 0x00b) running)).readX 0 3 = 2 ^ 48 ∧ (after (exec (.mfs 3 0x011) running)).readX 0 3 = 0x80000 ∧
    ((after (exec (.mts 0x018 6) bounds)).core 0).xoTop = 0x7ffc0 ∧ exec (.mts 0x018 7) bounds = .next (bounds.scalarFault 0 0x13 32) := by
  refine ⟨by decide +kernel, by decide +kernel, by decide +kernel, rfl⟩

theorem witness_SystemInstructions : ∀ e ∈ synceEngines 7, (running.ctx running.actCell).engBusy e = false ∧
    (running.ctx running.actCell).engFault e = none := by decide +kernel
theorem test_trap : exec (.trap 0xff) running = .next (Spec.frozenAt running 0x04 0xff) ∧ exec .nop running = .next (running.advance 0 4) := ⟨rfl, rfl⟩

/-- A VXSCAN queued that will write x3, and the same with its engine faulted. -/
def noKeys : EngKeys := ⟨0, none⟩
def op (i : Instr) (xs : List Word) : EngOp := ⟨i, xs, false, [], 0, [], 0⟩
def owed : State := running.updVec 0 (fun v => { v with queue := [op (.vxscan noKeys .f32 3 1 2 4 none) []] })
def engPacket : FaultPkt := ⟨0, 0x13, 1, false, false, false, 7, 0, 0xc0, 0x44, 0⟩
def owed' : State := owed.updVec 0 (fun v => { v with fault := some engPacket })
theorem witness_OwedRegistersStall : (owed.ctx owed.actCell).owing [3, 1, 2] = some 1 ∧ (owed.ctx owed.actCell).engFault 1 = none ∧
    (owed'.ctx owed'.actCell).owing [1, 2, 3] = some 1 ∧ (owed'.ctx owed'.actCell).engFault 1 = some engPacket := by decide +kernel
theorem test_owed : exec (.add 3 1 2) owed = .next owed ∧ exec (.add 0 1 3) owed' =
    .next (owed'.updCore 0 (fun k => { k with run := .frozen { engPacket with pc := 0x100 } false 0 })) := ⟨rfl, rfl⟩

/-! ## One step of the device -/

/-- Reset, with words placed at pc 0 of cell 0. -/
def placed (w : Nat) : State := State.reset.withFetchWord 32 w
theorem witness_CellStep : (placed 0x08a50001).agenda = .cell 0 :: [] ∧ Spec.Fetches (placed 0x08a50001) 0 ∧
    (placed 0x08a50001).pc 0 < ((placed 0x08a50001).core 0).xoTop ∧ (placed 0x08a50001).pc 0 ≤ 0x7fffc ∧
    isDouble (Spec.code (placed 0x08a50001) 0 0) = false ∧
    decodeDamvon ((placed 0x08a50001).ctx 0).vregs (Spec.code (placed 0x08a50001) 0 0) 0 = .ok (.addi 5 5 1) := by
  refine ⟨rfl, ⟨rfl, rfl, rfl, rfl⟩, by decide +kernel, by decide +kernel, by decide +kernel, by decide +kernel⟩
/-- VADD.F32 v3, v1, v2 with wait 0x09 and token 5, a double word whose second word ends at the boundary. -/
def placedVadd : State := State.reset.placeDamvon (leBytes 8 0x09b08000c4018440)
theorem witness_CellStep_double : placedVadd.agenda = .cell 0 :: [] ∧ Spec.Fetches placedVadd 0 ∧ placedVadd.pc 0 + 4 < (placedVadd.core 0).xoTop ∧
    isDouble (Spec.code placedVadd 0 0) = true ∧ (∀ l ∈ (placedVadd.core 0).loops, l.stop.toNat ≠ placedVadd.pc 0 + 4) ∧
    decodeDamvon (placedVadd.ctx 0).vregs (Spec.code placedVadd 0 0) (Spec.code placedVadd 0 4) = .ok (.vadd ⟨9, some 5⟩ .f32 3 1 2 none .rne) := by
  refine ⟨rfl, ⟨rfl, rfl, rfl, rfl⟩, by decide +kernel, by decide +kernel, by decide +kernel, by decide +kernel⟩
theorem test_step : (after (step (placed 0x08a50001))).readX 0 5 = 1 ∧ (after (step (placed 0x08a50001))).pc 0 = 4 ∧
    ((after (step placedVadd)).ctx 0).vec.queue.length = 1 ∧ (after (step placedVadd)).pc 0 = 8 ∧
    (after (step (State.reset.withFetchWord 64 0x3100000000000001))).imp.progs ≠ [] := by decide +kernel

/-- Fetch at the boundary; a double word cut by it; a loop that ends inside one; the all-zero word; a pointer format that is reserved. -/
def cut (n : Nat) (s : State) : State := s.updCore 0 (fun k => { k with xoTop := n })
theorem witness_FetchAndDecodeFaults : Spec.Fetches (cut 0 placedVadd) 0 ∧ ((cut 0 placedVadd).core 0).xoTop ≤ (cut 0 placedVadd).pc 0 ∧
    ((cut 4 placedVadd).core 0).xoTop ≤ (cut 4 placedVadd).pc 0 + 4 ∧ (cut 4 placedVadd).pc 0 < ((cut 4 placedVadd).core 0).xoTop ∧
    (∃ l ∈ ((placedVadd.updCore 0 (fun k => { k with loops := [⟨1, 0, 4⟩] })).core 0).loops, l.stop.toNat = 4) ∧
    decodeDamvon 32 (Spec.code (placed 0) 0 0) 0 = .illegal ∧
    decodeDamvon 32 0xc4018440 0x0000e000 = .pointer := by
  refine ⟨⟨rfl, rfl, rfl, rfl⟩, by decide +kernel, by decide +kernel, by decide +kernel, ⟨⟨1, 0, 4⟩, by decide +kernel, rfl⟩, by decide +kernel, by decide +kernel⟩
theorem test_fetch_faults : (step (cut 0 placedVadd)) = .next (Spec.frozenAt { Spec.moving (cut 0 placedVadd) [] with actCell := 0 } 0x02 0) ∧
    ((after (step (placed 0))).core 0).run = .frozen ⟨0, 0x01, 0, false, false, false, 0, 0, 0, 0, 0⟩ false (0 + Config.stepCycles 0) := ⟨rfl, rfl⟩

/-! ## Programs, events, activations -/

/-- Program 0 with two words of the spec's worked encodings, STAT n3 first. -/
def prog1 : Prog := { Prog.empty with image := [0x420c000000000000, 0x3100000000000001], asid := 1 }
def program : State := { booted with agenda := [.prog 0], imp := { Imposer.reset with progs := [(0, prog1)] } }
def programAt (pc : Word) (w : Word) : State := program.updProg 0 (fun g => { g with pc := pc, image := [w] })
theorem witness_OtherSteps : program.agenda = .prog 0 :: [] ∧ Tab.find program.imp.progs 0 = some prog1 ∧ prog1.run = .ready ∧
    prog1.image[prog1.pc.toNat / 8]? = some 0x420c000000000000 ∧ decodeCrium 0x420c000000000000 = .ok (.stat false 3) ∧
    decodeCrium 0 = .unassigned ∧ decodeCrium 0x420c000000000001 = .field ∧
    (programAt 4 0).imp.progs.map (fun g => g.2.pc.toNat % 8) = [4] ∧ (programAt 8 0).imp.progs.map (fun g => g.2.image[g.2.pc.toNat / 8]?) = [none] := by
  refine ⟨rfl, rfl, rfl, rfl, ?_⟩; decide +kernel
theorem witness_OtherSteps_events : isEvent .stepForm = true ∧ isEvent .nop = false ∧ (State.reset.core 0).run ≠ .running ∧
    (∀ g, Tab.find State.reset.imp.progs 0 = some g → g.run ≠ .ready) := by
  refine ⟨rfl, rfl, by decide +kernel, fun g h => ?_⟩; cases h
/-- A stopped program of cause 0x06 with its pc as the address (R345, R348); a word of no instruction stops with 0x01. -/
theorem test_program_steps : ((after (step program)).prog 0).pc = 8 ∧ ((after (step (programAt 8 0))).prog 0).run = .stopped ∧
    ((after (step (programAt 0 0))).imp.events.map (fun e => (e.drop 3).headD 0)) = [0x01] ∧
    ((after (step (programAt 8 0))).imp.events.map (fun e => ((e.drop 3).headD 0, (e.drop 16).headD 0))) = [(0x06, 8)] ∧
    (match step { State.reset with agenda := [.event .nop] } with
      | .fault f => decide (f = .notAnEvent)
      | _ => false) = true := by decide +kernel

/-- Cell 0 free, with a firing at level 2 and one at level 0. -/
def free1 : State := booted.updCtx 0 (fun x => { x with launch := some launch1, rq := #v[[firing1], [], [firing2], []] })
theorem no_deferred (s : State) (h : s.cells = free1.cells) : Spec.NothingDeferred s 0 := by
  intro e; simp only [State.ctx, State.cell, h]; rfl
theorem witness_ActivationStart : Spec.StartsNext free1 0 2 firing2 [] ∧ Spec.NothingDeferred free1 0 ∧ (free1.core 0).run = .idle ∧
    (free1.cell 0).moving = none ∧ Spec.Booted free1 ∧ (free1.cell 0).floor.due = [] ∧ Spec.Unpaired free1 0 ∧ (free1.cell 0).overCapacity = false := by
  refine ⟨⟨by decide, rfl, fun k hk => ?_⟩, no_deferred free1 rfl, rfl, rfl, ⟨rfl, rfl⟩, rfl, ?_, by decide +kernel⟩
  · match k, hk with
    | 3, _ => rfl
    | n + 4, _ => rfl
  · intro l h; cases h; rfl
/-- R185, R187: the arguments of a firing at level 0 of entry 5. -/
theorem test_activation_start :
    let t := after (exec (.activationStart 0) (free1.updCtx 0 (fun x => { x with rq := #v[[firing1], [], [], []] })))
    t.readX 0 1 = 1 ∧ t.readX 0 4 = 4 ∧ t.readX 0 5 = 0 ∧ t.pc 0 = 0x40 ∧ (t.core 0).trig = 5 := by decide +kernel

/-- The same after 65,536 cycles, and just before. -/
theorem witness_Timeouts : ({ free1 with now := 65536 }.ctx 0).rq.toList.getD 2 [] = firing2 :: [] ∧ firing2.since + 65536 ≤ 65536 ∧
    (({ free1 with now := 65536 }.ctx 0).rq.toList.getD 3 []).length < 64 ∧ Spec.NothingDeferred { free1 with now := 65536 } 0 ∧
    65535 < firing2.since + 65536 := ⟨rfl, by decide, by decide +kernel, no_deferred _ rfl, by decide⟩
/-- The watchdog of 1,000 cycles, one beyond it and at it. -/
theorem witness_Timeouts_hang : ({ running with now := 1001 }.core 0).run = .running ∧ ({ running with now := 1001 }.core 0).act = some act1 ∧
    ({ running with now := 1001 }.ctx 0).launch = some launch1 ∧ launch1.watchdog < 1001 - act1.began ∧ 1000 - act1.began ≤ launch1.watchdog := by
  refine ⟨rfl, rfl, rfl, by decide, by decide⟩
theorem test_timeouts : after (exec (.hangFault 0) { running with now := 1001 }) = { running with now := 1001 }.scalarFault 0 0x08 0 ∧
    after (exec (.hangFault 0) { running with now := 1000 }) = { running with now := 1000 } ∧
    after (exec (.runQueuePromotion 0 2) { free1 with now := 65535 }) = { free1 with now := 65535 } := by decide +kernel
theorem test_promotion : ((after (exec (.runQueuePromotion 0 2) { free1 with now := 65536 })).ctx 0).rq.toList.map (List.map (·.since)) =
    [[0], [], [], [65536]] := by decide +kernel

/-! ## The network -/

/-- A packet of another cell for cell 0, whose launch takes items. -/
def packet (b : PBody) : Packet := ⟨1, some ⟨1, 0, 0⟩, 0, 0, .device, b, 0⟩
def arriving (b : PBody) : State := { (messages.updCore 0 (fun k => { k with run := .idle, act := none })) with net := [packet b] }
theorem arrives (b : PBody) (h : b = .msg 3 1 [7] ∨ b = .arrive 3 8 ∨ b = .land 4 8 ∨ b = .store (spBase 0 + 0x7fffc) 0x7fffc [1, 2, 3, 4] ∨
    b = .rap .s32 .add none (spBase 0 + 0x7fffc) 0x7fffc [1, 0, 0, 0] ∨ b = .rap .s32 .add (some 0) (spBase 0 + 0x8000) 0x8000 [1, 0, 0, 0] ∨
    b = .rap .s32 .add (some 0xffff) (spBase 0 + 0x8000) 0x8000 [1, 0, 0, 0]) :
    Spec.Arrives (arriving b) 0 0 (packet b) := by
  rcases h with h | h | h | h | h | h | h <;> subst h <;> refine ⟨rfl, ?_, rfl, ?_⟩ <;> decide +kernel
theorem witness_Items : Spec.Arrives (arriving (.msg 3 1 [7])) 0 0 (packet (.msg 3 1 [7])) ∧ (arriving (.msg 3 1 [7])).takesItems 0 = true ∧
    (((arriving (.msg 3 1 [7])).ctx 0).entry 3).deferred < 2 ^ 32 - 1 ∧ Spec.Arrives (arriving (.arrive 3 8)) 0 0 (packet (.arrive 3 8)) ∧
    Spec.Arrives (arriving (.land 4 8)) 0 0 (packet (.land 4 8)) ∧
    (arriving (.msg 3 1 [7])).retiredFrom (some ⟨1, 0, 0⟩) 0 = false ∧
    ((arriving (.msg 3 1 [7])).updCtx 0 (fun x => { x with launch := none })).takesItems 0 = false :=
  ⟨arrives _ (by simp), rfl, by decide +kernel, arrives _ (by simp), arrives _ (by simp), rfl, rfl⟩
/-- R193, R101: the message fires entry 3 with its payload, and the entry remembers the wide scope. R194: a landing of 8 bytes on a barrier. -/
theorem test_items : ((after (exec (.delivery 0) (arriving (.msg 3 1 [7])))).ctx 0).rq.toList.map (List.map (fun f => (f.handler, f.args, f.wide))) =
      [[], [(0x40, #v[7, 0, 0, 0], true)], [], []] ∧ (after (exec (.delivery 0) (arriving (.msg 3 1 [7])))).net = [] ∧
    (((after (exec (.landing 0) (arriving (.land 4 8)))).ctx 0).entry 4).pend = -8 ∧
    ((after (exec (.arrival 0) (arriving (.arrive 3 8)))).ctx 0).rq.toList.map List.length = [0, 1, 0, 0] := by decide +kernel

/-- A pending launch of a queue, graph and sequence number of its own. -/
def desc0 : Desc := ⟨0, 4, 0, 0, 0, 0, 0, 0, 0, 1, 1, 0, 0, 1, 1, 1, 1, 1, 1, 8, 0x8000, 0, 0, 0, 0, 0, 0, [], 0, 0, 0, 0, 0⟩
def pending (asid q seq : Nat) : Launch :=
  { key := ⟨asid, q, seq⟩, lq := 64 * asid + q, desc := desc0, fb := false, prio := 0, det := 0, proof := false, binds := [], succs := [], code := [],
    graph := seq, dep := 0, stage := .waiting, status := .pending, stray := 0, place := [], place2 := [], sleepy := [], retired := []
    num := seq, dies := [] }
/-- A message of launch 5 for cell 0, which has retired from that launch and holds launch 0 now. -/
def tardy : State :=
  { arriving (.msg 3 1 [7]) with
    net := [{ packet (.msg 3 1 [7]) with launch := some ⟨1, 5, 5⟩ }], launches := [{ pending 1 5 5 with retired := [0] }] }.updCell 0
    (fun cl => { cl with last := some ⟨1, 5, 5⟩ })
theorem witness_Items_dropped : tardy.retiredFrom (some ⟨1, 5, 5⟩) 0 = true ∧ tardy.takesItems 0 = true ∧
    tardy.net[0]? = some { packet (.msg 3 1 [7]) with launch := some ⟨1, 5, 5⟩ } := ⟨by decide +kernel, rfl, rfl⟩
/-- R122: it is dropped and counted at launch 5. -/
theorem test_tardy : ((after (exec (.delivery 0) tardy)).ctx 0).rq.toList.map List.length = [0, 0, 0, 0] ∧
    (after (exec (.delivery 0) tardy)).launches.map (·.stray) = [1] ∧ (after (exec (.delivery 0) tardy)).net = [] := by decide +kernel

theorem witness_StoresPerform_remote : Spec.Arrives (arriving (.store (spBase 0 + 0x7fffc) 0x7fffc [1, 2, 3, 4])) 0 0 (packet (.store (spBase 0 + 0x7fffc) 0x7fffc [1, 2, 3, 4])) ∧
    (packet (.store (spBase 0 + 0x7fffc) 0x7fffc [1, 2, 3, 4])).dst < 4096 ∧ Memory.wf (arriving (.store (spBase 0 + 0x7fffc) 0x7fffc [1, 2, 3, 4])).mem = true ∧
    Spec.Open (arriving (.store (spBase 0 + 0x7fffc) 0x7fffc [1, 2, 3, 4])) 0 0x7fffc 4 ∧
    (arriving (.store (spBase 0 + 0x7fffc) 0x7fffc [1, 2, 3, 4])).racing 1 0 (spBase 0 + 0x7fffc) 4 = [] :=
  ⟨arrives _ (by simp), by decide, by decide +kernel, ⟨by decide, by decide +kernel⟩, by decide +kernel⟩
/-- The last bytes below the boundary; their issuer, cell 1, runs in the same launch. -/
def shut : State := (arriving (.store (spBase 0 + 0xffc) 0x100ffc [1, 2, 3, 4])).updCtx 1 (fun x => { x with core := core1, launch := some launch1 })
theorem witness_StoresPerform_shut : shut.net[0]? = some (packet (.store (spBase 0 + 0xffc) 0x100ffc [1, 2, 3, 4])) ∧ ¬ Spec.Open shut 0 0xffc 4 ∧
    (shut.core 1).run = .running ∧ (shut.ctx 1).launch.map (·.key) = some ⟨1, 0, 0⟩ :=
  ⟨rfl, fun h => absurd h.1 (by decide), rfl, rfl⟩
theorem test_shut_store : (after (exec (.remoteStoreArrival 0) shut)).mem = shut.mem ∧
    (match ((after (exec (.remoteStoreArrival 0) shut)).core 1).run with
      | .frozen p _ _ => decide (p.cause = 0x13 ∧ p.addr = 0x100ffc)
      | _ => false) = true := by decide +kernel
/-- Unordered; ordered in sequence on bank 1; ordered out of sequence; and one that has waited 2^20 cycles, or one less. -/
theorem witness_Atomics_rap : Spec.Arrives (arriving (.rap .s32 .add none (spBase 0 + 0x7fffc) 0x7fffc [1, 0, 0, 0])) 0 0 (packet (.rap .s32 .add none (spBase 0 + 0x7fffc) 0x7fffc [1, 0, 0, 0])) ∧
    Spec.Arrives (arriving (.rap .s32 .add (some 0) (spBase 0 + 0x8000) 0x8000 [1, 0, 0, 0])) 0 0 (packet (.rap .s32 .add (some 0) (spBase 0 + 0x8000) 0x8000 [1, 0, 0, 0])) ∧
    Tab.get 0 ((arriving (.land 4 8)).ctx 0).rapExp (0x8000 / 32768) = 0 ∧ ((arriving (.land 4 8)).ctx 0).rapWait = [] ∧
    Spec.Arrives (arriving (.rap .s32 .add (some 0xffff) (spBase 0 + 0x8000) 0x8000 [1, 0, 0, 0])) 0 0 (packet (.rap .s32 .add (some 0xffff) (spBase 0 + 0x8000) 0x8000 [1, 0, 0, 0])) ∧
    (0xffff : BitVec 16) ≠ 0 ∧ Spec.Open (arriving (.land 4 8)) 0 0x7fffc 4 ∧ Spec.Open (arriving (.land 4 8)) 0 0x8000 4 :=
  ⟨arrives _ (by simp), arrives _ (by simp), rfl, rfl, arrives _ (by simp), by decide, ⟨by decide, by decide⟩, ⟨by decide, by decide⟩⟩
def late : State := { running.updCtx 0 (fun x => { x with rapWait := [⟨packet (.rap .s32 .add (some 9) (spBase 0 + 0x8004) 0x8004 [1, 0, 0, 0]), 0⟩] }) with now := 2 ^ 20 }
theorem witness_Atomics_timeout : (late.ctx 0).rapWait[0]? = some ⟨packet (.rap .s32 .add (some 9) (spBase 0 + 0x8004) 0x8004 [1, 0, 0, 0]), 0⟩ ∧
    0 + 2 ^ 20 ≤ late.now ∧ 2 ^ 20 - 1 < 0 + 2 ^ 20 := ⟨rfl, by decide, by decide⟩
/-- R212, R111: the element grows by 1, the sequence moves on; out of sequence it waits; R134: the bank packet names element and source. -/
theorem test_rap_apply : (after (exec (.rapApply 0) (arriving (.rap .s32 .add none (spBase 0 + 0x7fffc) 0x7fffc [1, 0, 0, 0])))).readNat (spBase 0 + 0x7fffc) 4 = 1 ∧
    Tab.get 0 ((after (exec (.rapApply 0) (arriving (.rap .s32 .add (some 0) (spBase 0 + 0x8000) 0x8000 [1, 0, 0, 0])))).ctx 0).rapExp 1 = 1 ∧
    ((after (exec (.rapApply 0) (arriving (.rap .s32 .add (some 0xffff) (spBase 0 + 0x8000) 0x8000 [1, 0, 0, 0])))).ctx 0).rapWait.length = 1 ∧
    ((after (exec (.rapSequenceTimeout 0 0) late)).cell 0).bankPk.map (fun p => (p.cause, p.addr, p.index)) = [(0x19, 0x8004, 1)] ∧
    (after (exec (.remoteStoreArrival 0) (arriving (.store (spBase 0 + 0x7fffc) 0x7fffc [1, 2, 3, 4])))).readNat (spBase 0 + 0x7fffc) 4 = 0x04030201 := by
  decide +kernel

def asked : State := { booted with stair := [⟨0, 0, 2 ^ 43 + 64, 0, none⟩] }
theorem witness_Timeouts_stair : asked.stair[0]? = some ⟨0, 0, 2 ^ 43 + 64, 0, none⟩ ∧ Spec.Booted asked ∧ 0 + 16777216 ≤ 16777216 ∧
    16777215 < 0 + 16777216 := ⟨rfl, ⟨rfl, rfl⟩, by decide, by decide⟩
theorem test_stair : (after (exec (.stairRequestTimeout 0) { asked with now := 16777216 })).stair.map (·.done) = [some false] ∧
    (after (exec (.remoteRequest 0) { asked with now := 16777216 })).stair.map (·.done) = [some false] ∧
    (after (exec (.stairRequestTimeout 0) { asked with now := 16777215 })).stair.map (·.done) = [none] := by decide +kernel

/-! ## Faults and the Hall cores -/

/-- Cell 0 frozen by a misaligned LD at pc 0x100. -/
def frozen : State := after (exec (.ld .d64 3 4 0) (atAddr memory 4))
def packet13 : FaultPkt := ⟨0, 0x13, 0, false, false, false, 0, 2 ^ 48, 0x100, 4, 0⟩
/-- A district's queue with 64 packets. -/
def full (s : State) : State := s.updDist (distOfCell 0) (fun d => { d with queue := List.replicate 64 packet13 })
theorem witness_FaultsAndResumes : (frozen.core 0).run = .frozen packet13 false 0 ∧ packet13.cell = 0 ∧ packet13.proof = false ∧
    Spec.HallTakes frozen 0 ∧ (frozen.core 0).act ≠ none ∧ Tab.find (frozen.dist (distOfCell 0)).policy 0x13 = none ∧
    64 ≤ ((full frozen).dist (distOfCell 0)).queue.length := by
  refine ⟨by decide +kernel, by decide, by decide, ⟨⟨rfl, rfl⟩, by decide +kernel, by decide +kernel⟩, ?_⟩
  decide +kernel
/-- The first and the last Hall core, frozen. -/
def hallFrozen (h : Nat) : State := booted.updCore h (fun k => { k with run := .frozen { packet13 with cell := h } false 0 })
theorem witness_FaultsAndResumes_hall : ((hallFrozen 3072).core 3072).run = .frozen { packet13 with cell := 3072 } false 0 ∧
    ((hallFrozen 3119).core 3119).run = .frozen { packet13 with cell := 3119 } false 0 ∧ (hallFrozen 3072).isFrozen (hallOf (distOfCell 0)) = true := by
  decide +kernel
/-- R138: the Attic is told, and the cells of the district wait. -/
theorem test_hall_fault : (after (exec (.faultPacket 3119) (hallFrozen 3119))).notices = [.fault { packet13 with cell := 3119 }] ∧
    (after (exec (.faultPacket 3119) (hallFrozen 3119))).agenda = [] := by decide +kernel
/-- R138: an access fault kills the job and tells the Attic; TRAP tells it only. -/
theorem test_fault_packet : (after (exec (.faultPacket 0) frozen)).agenda = [.event (.killJob 0)] ∧
    (after (exec (.faultPacket 0) frozen)).notices = [.fault packet13] ∧ exec (.faultPacket 0) (full frozen) = .next (full frozen) ∧
    (after (exec (.faultPacket 0) (after (exec (.trap 1) running)))).agenda = [] := by
  refine ⟨by decide +kernel, by decide +kernel, rfl, by decide +kernel⟩
def banked : State := running.updCell 0 (fun cl => { cl with bankPk := [packet13] })
theorem witness_FaultsAndResumes_bank : (banked.cell 0).bankPk = packet13 :: [] ∧ Spec.HallTakes banked 0 ∧
    64 ≤ ((full banked).dist (distOfCell 0)).queue.length := ⟨rfl, ⟨⟨rfl, rfl⟩, by decide +kernel, by decide +kernel⟩, by decide +kernel⟩

/-- Frozen by the vector engine's head operation, by the matrix engine's, and a cell that is not frozen. -/
def vaddOp : EngOp := { op (.vadd ⟨0, some 5⟩ .f32 3 1 2 none .rne) [] with gen := 1 }
def mzeroOp : EngOp := { op (.mzero ⟨0, some 5⟩ (.tile 0)) [] with gen := 1 }
def frozenVec : State := (running.updVec 0 (fun v => { v with queue := [vaddOp], fault := some engPacket })).updCore 0 (fun k =>
  { k with run := .frozen engPacket true 0, tok := k.tok.set 5 ⟨1, [1], false, false, 1⟩ })
def frozenMat : State := (running.updMat 0 (fun m => { m with queue := [mzeroOp], fault := some { engPacket with eng := 2 } })).updCore 0 (fun k =>
  { k with run := .frozen { engPacket with eng := 2 } true 0 })
theorem witness_FaultsAndResumes_resume : (frozen.core 0).run = .frozen packet13 false 0 ∧ packet13.eng = 0 ∧
    (frozenVec.core 0).run = .frozen engPacket true 0 ∧ engPacket.eng = 1 ∧ (frozenVec.ctx 0).vec.queue = vaddOp :: [] ∧
    (frozenMat.core 0).run = .frozen { engPacket with eng := 2 } true 0 ∧ (frozenMat.ctx 0).mat.queue = mzeroOp :: [] ∧
    running.isFrozen 0 = false := by decide +kernel
/-- R137: behind the instruction; without the operation and with its token complete; frozen cycles do not count for the watchdog. -/
theorem test_resume : (after (exec (.resumeWithSkip 0) frozen)).pc 0 = 0x104 ∧ (after (exec (.resume 0) frozen)).pc 0 = 0x100 ∧
    ((after (exec (.resumeWithSkip 0) frozenVec)).ctx 0).vec.queue = [] ∧ (((after (exec (.resumeWithSkip 0) frozenVec)).ctx 0).token 5).complete = true ∧
    ((after (exec (.resumeWithSkip 0) frozenMat)).ctx 0).mat.queue = [] ∧
    ((after (exec (.resume 0) { frozen with now := 30 })).core 0).act.map (·.began) = some 30 := by decide +kernel

/-- A retriable activation frozen after it had written 0xff to a line that held 0x80, with that line journalled; a non-retriable one. -/
def undone : State := { frozen with mem := memSet frozen.mem (spBase 0 + 0x1000) 0xff }.updOut 0 (fun o =>
  { o with journal := [(64, 0x80 :: List.replicate 63 0, false)], firings := [firing2] })
theorem witness_Kills : (undone.core 0).run = .frozen packet13 false 0 ∧ (undone.core 0).act = some act1 ∧ act1.retriable = true ∧
    (undone.ctx 0).launch = some launch1 ∧ launch1.partner = none ∧ launch1.cancelled = false ∧ Memory.wf undone.mem = true ∧
    Spec.JournalGood (undone.ctx 0).out.journal ∧ (undone.ctx 0).rq.toList.all (fun q => q.length < 64) = true := by
  refine ⟨by decide +kernel, rfl, rfl, rfl, rfl, rfl, by decide +kernel, ?_, by decide +kernel⟩
  unfold Spec.JournalGood; decide +kernel
theorem witness_Kills_abandoned : ((settled undone).core 0).act = some { act1 with retriable := false } ∧ ((settled undone).core 0).run = .frozen packet13 false 0 := by
  decide +kernel
/-- R141: the old byte is back and the activation queued again under its number; R142: the byte stays and the Attic gets the number. -/
theorem test_kill : (after (exec (.killActivation 0) undone)).readB (spBase 0 + 0x1000) = 0x80 ∧
    ((after (exec (.killActivation 0) undone)).ctx 0).rq.toList.map (List.map (·.idAct)) = [[some 7], [], [], []] ∧
    (after (exec (.killActivation 0) (settled undone))).readB (spBase 0 + 0x1000) = 0xff ∧
    (after (exec (.killActivation 0) (settled undone))).notices = [.abandoned 0] := by decide +kernel

/-- The frozen cell's job is ASID 1; pending launches of it and of ASID 2, with their queues. -/
def jobs : State := { frozen with launches := [pending 1 5 0, pending 2 5 0], queues := [(69, { LQ.reset with cfg := 0x800 }), (133, LQ.reset)] }
theorem witness_Cancels : (jobs.launches.map (·.key)).Nodup ∧ jobs.launchAt (64 * 1 + 5) 0 = some (pending 1 5 0) ∧ (pending 1 5 0).stage ≠ .ended ∧
    jobs.isFrozen 0 = true ∧ (jobs.ctx 0).launch = some launch1 ∧ launch1.key.asid = 1 ∧ jobs.launchOf ⟨2, 5, 0⟩ = some (pending 2 5 0) := by decide +kernel
/-- A launch and its successor in one graph, and a second frozen cell of the job. -/
def jobs2 : State := { jobs.updCtx 1 (fun _ => (frozen.ctx 0)) with
  launches := [{ pending 1 5 0 with succs := [1] }, { pending 1 5 1 with graph := 0, desc := { desc0 with gidx := 1 } }, pending 1 5 2] }
theorem witness_Cancels_more : (jobs2.launches.map (·.key)).Nodup ∧ jobs2.isFrozen 1 = true ∧ (jobs2.ctx 1).launch = some launch1 ∧
    Spec.Follows { pending 1 5 0 with succs := [1] } { pending 1 5 1 with graph := 0, desc := { desc0 with gidx := 1 } } ∧
    ¬ Spec.Follows { pending 1 5 0 with succs := [1] } (pending 1 5 2) := by
  unfold Spec.Follows; decide +kernel
/-- R150: kill job frees both. -/
theorem test_kill_job : ((after (exec (.killJob 0) jobs2)).ctx 1).launch = none ∧
    (after (exec (.killJob 0) jobs2)).launches.map (·.status) = [.cancelled, .cancelled, .cancelled] ∧
    (after (exec (.cancelGraph 1 5 0) jobs2)).launches.map (·.status) = [.cancelled, .cancelled, .pending] := by decide +kernel
theorem test_cancels : (after (exec (.cancelLaunch 1 5 0) jobs)).launches.map (·.status) = [.cancelled, .pending] ∧
    (after (exec (.cancelJob 2) jobs)).launches.map (·.status) = [.pending, .cancelled] ∧
    ((after (exec (.killJob 0) jobs)).ctx 0).launch = none ∧ ((after (exec (.processKill 1) jobs)).lq 69).cfg = 0 := by decide +kernel

/-! ## Engines: issue and tokens -/

/-- Cell 0 with the vector queue at its room of two, with its engine faulted, and with token 5 on its way. -/
def queued : State := running.updVec 0 (fun v => { v with queue := [vaddOp, vaddOp] })
def faulted : State := running.updVec 0 (fun v => { v with queue := [vaddOp], fault := some engPacket })
def armed : State := running.updCore 0 (fun k => { k with tok := (k.tok.set 5 ⟨1, [1], false, false, 1⟩).set 7 ⟨2, [], true, true, 3⟩ })
def vaddI : Instr := .vadd ⟨0, some 5⟩ .f32 3 1 2 none .rne
theorem witness_EngineIssue : Spec.EngForm vaddI ⟨0, some 5⟩ 1 [] [] ∧ (running.ctx 0).engFault 1 = none ∧ (running.ctx 0).waitFault 0 = none ∧
    Free running [] ∧ ((running.ctx 0).engQueue 1).length < 2 ∧ (queued.ctx 0).engFault 1 = none ∧ 2 ≤ ((queued.ctx 0).engQueue 1).length ∧
    (faulted.ctx 0).engFault 1 = some engPacket :=
  ⟨.vadd ⟨0, some 5⟩ .f32 3 1 2 none .rne, rfl, rfl, rfl, by decide +kernel, rfl, by decide +kernel, rfl⟩
theorem witness_EngineIssue_engines : Spec.EngForm (.mspl ⟨0, none⟩ .ring 4) ⟨0, none⟩ 2 [0, 4] [] ∧ Spec.EngForm (.cpy ⟨0, some 2⟩ 5 6 8 10) ⟨0, some 2⟩ 3 [5, 6, 8, 10, 9] [] ∧
    Free running ([5, 6, 8, 10, 9] ++ []) :=
  ⟨.mspl _ _ 4, .cpy _ 5 6 8 10, rfl⟩
/-- R166, R264: the operation takes the x values at issue and arms its token; the third stalls; a faulted engine stops the cell at 0x100. -/
theorem test_issue : ((after (exec (.vbc ⟨0, some 5⟩ .n32 3 1 none) running)).ctx 0).vec.queue.map (fun o => (o.xs, o.gen)) = [([0, 5], 1)] ∧
    (((after (exec (.vbc ⟨0, some 5⟩ .n32 3 1 none) running)).ctx 0).token 5).out = [1] ∧ after (exec vaddI queued) = queued ∧
    ((after (exec vaddI faulted)).core 0).run = .frozen { engPacket with pc := 0x100 } false 0 ∧
    ((after (exec (.mzero ⟨0x20, none⟩ (.tile 3)) armed)).ctx 0).mat.queue.map (·.waits) = [[(5, 1)]] := by decide +kernel

theorem witness_TokensAndCompletion : Free armed [3] ∧ (∀ j, j < 8 → (0x80 : BitVec 8).getLsbD j = true → ((armed.ctx 0).token j).complete = true) ∧
    (∃ j, j < 8 ∧ (0x20 : BitVec 8).getLsbD j = true ∧ ((armed.ctx 0).token j).complete = false) ∧ (armed.ctx 0).waitFault 0x20 = none := by
  refine ⟨rfl, ?_, ⟨5, by decide, by decide, by decide +kernel⟩, by decide +kernel⟩
  decide +kernel
/-- R282: bits [7:0] errors and [15:8] cancels of the named tokens that the copy engine armed last. -/
theorem test_twait : (after (exec (.twait 0x80 3) armed)).readX 0 3 = 0x8080 ∧ after (exec (.twait 0xa0 3) armed) = armed := by decide +kernel

/-- A started QSCALE that owes x3, and an operation that has not started. -/
def doneOp : EngOp := { ins := .qscale ⟨0, some 5⟩ 3 4 5, xs := [0, 0, 0], started := true, writes := [(3, 77)], gen := 1, waits := [], ord := 0 }
def completing : State := armed.updVec 0 (fun v => { v with queue := [doneOp] })
theorem witness_TokensAndCompletion_engine : Spec.EngForm (.qscale ⟨0, some 5⟩ 3 4 5) ⟨0, some 5⟩ 1 [0, 4, 5] [3] ∧
    (completing.ctx 0).engQueue 1 = doneOp :: [] ∧ doneOp.started = true ∧ (∀ w ∈ doneOp.writes, w.1 < 32) ∧ (queued.ctx 0).engQueue 1 = vaddOp :: [vaddOp] ∧
    vaddOp.started = false := ⟨.qscale _ 3 4 5, rfl, rfl, by decide, rfl, rfl⟩
theorem test_completion : (after (exec (.vectorOpComplete 0) completing)).readX 0 3 = 77 ∧
    (((after (exec (.vectorOpComplete 0) completing)).ctx 0).token 5).complete = true ∧
    ((after (exec (.vectorOpComplete 0) completing)).ctx 0).vec.queue = [] ∧ after (exec (.vectorOpComplete 0) queued) = queued := by decide +kernel

/-! ## The vector engine -/

/-- A register of lanes, lowest first; cell 0 with registers, masks k1 = lanes 0 and 2 and k2 = lane 1, and one operation queued. -/
def lanes (w : Nat) (l : List Nat) : BitVec 512 := ofLanes w l.length (fun i => l.getD i 0)
def vecOp (regs : List (Nat × BitVec 512)) (i : Instr) (xs : List Word) : State :=
  running.updVec 0 (fun v =>
    { v with v := regs.foldl (fun a p => a.set! p.1 p.2) v.v, k := (v.k.set 1 5).set 2 2, tag := 2, queue := [op i xs] })
theorem ready (regs : List (Nat × BitVec 512)) (i : Instr) (xs : List Word) : Spec.VecReady (vecOp regs i xs) 0 (op i xs) [] :=
  ⟨rfl, rfl, rfl, (by intro w h; cases h), rfl, ⟨rfl, rfl⟩, rfl, rfl⟩
/-- Low lanes of a register, and what is owed to x registers, after the operation. -/
def outLanes (w n : Nat) (r : VReg) (s : State) : List Nat :=
  (List.range n).map (laneOf w (((after (exec (.vectorOpStart 0) s)).ctx 0).vec.reg r))
def outX (s : State) : List (Nat × Word) := (((after (exec (.vectorOpStart 0) s)).ctx 0).vec.queue.map (·.writes)).flatten
def outK (r : KReg) (s : State) : Word := ((after (exec (.vectorOpStart 0) s)).ctx 0).vec.mask r

/-- Lanes of integers and of FP32: 1.0, the greatest finite, −2.0; 2.0, the greatest finite, 3.0. -/
def ints : List (Nat × BitVec 512) := [(1, lanes 8 [0x7f, 0x80, 0x00, 0xff]), (2, lanes 8 [0x01, 0xff, 0x01, 0x02]), (3, lanes 8 [9, 9, 9, 9])]
def flts : List (Nat × BitVec 512) := [(1, lanes 32 [0x3f800000, 0x7f7fffff, 0xc0000000]), (2, lanes 32 [0x40000000, 0x7f7fffff, 0x40400000])]

theorem witness_LaneOperations : Spec.VecReady (vecOp ints (.vadd noKeys .s8 3 1 2 (some 1) .rne) []) 0 (op (.vadd noKeys .s8 3 1 2 (some 1) .rne) []) [] ∧
    (.s8 : LaneTy).isFloat = false ∧ Spec.VecReady (vecOp flts (.vadd noKeys (FloatTy.lane .f32) 3 1 2 none .rtz) []) 0
      (op (.vadd noKeys (FloatTy.lane .f32) 3 1 2 none .rtz) []) [] ∧ (SgnTy.lane .s8).isFloat = false ∧ (SgnTy.lane .bf16).isFloat = true :=
  ⟨ready _ _ _, rfl, ready _ _ _, rfl, rfl⟩
theorem witness_LaneOperations_moves (i : Instr) (h : i ∈ [Instr.vsel noKeys .s8 3 1 2 1, .vshf noKeys .s8 3 1 2 none, .vbc noKeys .s8 3 4 none,
    .viota noKeys .s8 3 4 none, .vexp2 noKeys .f32 3 1 none .rne, .vlog2 noKeys .f32 3 1 none .rne, .vrcp noKeys .f32 3 1 none .rne,
    .vsqrt noKeys .f32 3 1 none .rne, .vneg noKeys .s8 3 1 none, .vabs noKeys .f32 3 1 none, .vfma noKeys .f32 3 1 2 4 none .rne]) :
    Spec.VecReady (vecOp ints i [0, 5]) 0 (op i [0, 5]) [] ∧ (op i [0, 5]).ins ∈ [Instr.vsel noKeys .s8 3 1 2 1, .vshf noKeys .s8 3 1 2 none,
    .vbc noKeys .s8 3 4 none, .viota noKeys .s8 3 4 none, .vexp2 noKeys .f32 3 1 none .rne, .vlog2 noKeys .f32 3 1 none .rne,
    .vrcp noKeys .f32 3 1 none .rne, .vsqrt noKeys .f32 3 1 none .rne, .vneg noKeys .s8 3 1 none, .vabs noKeys .f32 3 1 none,
    .vfma noKeys .f32 3 1 2 4 none .rne] := ⟨ready _ _ _, h⟩
/-- R234: wrap and sign, with lanes 1 and 3 inactive under k1; −2^7 saturates. -/
theorem test_int_lanes : outLanes 8 4 3 (vecOp ints (.vadd noKeys .s8 3 1 2 (some 1) .rne) []) = [0x80, 9, 0x01, 9] ∧
    outLanes 8 4 3 (vecOp ints (.vsub noKeys .n8 3 1 2 none .rne) []) = [0x7e, 0x81, 0xff, 0xfd] ∧
    outLanes 8 4 3 (vecOp ints (.vmul noKeys .n8 3 1 2 none .rne) []) = [0x7f, 0x80, 0x00, 0xfe] ∧
    outLanes 8 4 3 (vecOp ints (.vmin noKeys .s8 3 1 2 none) []) = [0x01, 0x80, 0x00, 0xff] ∧
    outLanes 8 4 3 (vecOp ints (.vmax noKeys .n8 3 1 2 none) []) = [0x7f, 0xff, 0x01, 0xff] ∧
    outLanes 8 4 3 (vecOp ints (.vabs noKeys .s8 3 1 none) []) = [0x7f, 0x7f, 0x00, 0x01] ∧
    outLanes 8 4 3 (vecOp ints (.vneg noKeys .s8 3 1 none) []) = [0x81, 0x7f, 0x00, 0x01] := by decide +kernel
/-- R234, R44, R55: the sum of two greatest values is ∞ to nearest and the greatest value toward zero; VFMA rounds once. -/
theorem test_float_lanes : outLanes 32 3 3 (vecOp flts (.vadd noKeys .f32 3 1 2 none .rne) []) = [0x40400000, 0x7f800000, 0x3f800000] ∧
    outLanes 32 3 3 (vecOp flts (.vadd noKeys .f32 3 1 2 none .rtz) []) = [0x40400000, 0x7f7fffff, 0x3f800000] ∧
    outLanes 32 3 3 (vecOp flts (.vsub noKeys .f32 3 1 2 none .rne) []) = [0xbf800000, 0, 0xc0a00000] ∧
    outLanes 32 3 3 (vecOp flts (.vmul noKeys .f32 3 1 2 none .rne) []) = [0x40000000, 0x7f800000, 0xc0c00000] ∧
    outLanes 32 3 3 (vecOp flts (.vfma noKeys .f32 3 1 2 2 none .rne) []) = [0x40800000, 0x7f800000, 0xc0400000] ∧
    outLanes 32 3 3 (vecOp flts (.vneg noKeys .f32 3 1 none) []) = [0xbf800000, 0xff7fffff, 0x40000000] := by decide +kernel
/-- R237, R248, R249: a select by k1, a shuffle with an index beyond the lanes, a broadcast and a count from x. -/
theorem test_moves : outLanes 8 4 3 (vecOp ints (.vsel noKeys .s8 3 1 2 1) []) = [0x7f, 0xff, 0x00, 0x02] ∧
    outLanes 8 4 3 (vecOp ints (.vshf noKeys .s8 3 1 2 none) []) = [0x80, 0, 0x80, 0] ∧
    outLanes 8 3 3 (vecOp ints (.vbc noKeys .n8 3 4 none) [0, 0x1fe]) = [0xfe, 0xfe, 0xfe] ∧
    outLanes 8 3 3 (vecOp ints (.viota noKeys .n8 3 4 none) [0, 0x1fe]) = [0xfe, 0xff, 0] := by decide +kernel
/-- R239: 2^3, log2 8, 1/2, √4, and the signs of their special cases. -/
theorem test_functions : outLanes 32 2 3 (vecOp [(1, lanes 32 [0x40400000, 0xff800000])] (.vexp2 noKeys .f32 3 1 none .rne) []) = [0x41000000, 0] ∧
    outLanes 32 2 3 (vecOp [(1, lanes 32 [0x41000000, 0x80000000])] (.vlog2 noKeys .f32 3 1 none .rne) []) = [0x40400000, 0xff800000] ∧
    outLanes 32 2 3 (vecOp [(1, lanes 32 [0x40000000, 0x80000000])] (.vrcp noKeys .f32 3 1 none .rne) []) = [0x3f000000, 0xff800000] ∧
    outLanes 32 2 3 (vecOp [(1, lanes 32 [0x40800000, 0x80000000])] (.vsqrt noKeys .f32 3 1 none .rne) []) = [0x40000000, 0x80000000] := by
  decide +kernel

theorem witness_MasksAndMoves (i : Instr) : Spec.VecReady (vecOp ints i [0, 0xfffe]) 0 (op i [0, 0xfffe]) [] ∧ (.s8 : LaneTy).isFloat = false ∧
    (63 : BitVec 6).toNat < LaneTy.lanes .s8 := ⟨ready _ _ _, rfl, by decide⟩
/-- R236, R250, R251, R256: a compare under k1, the first and the count of ones, a lane with its sign, lane 63, tags. -/
theorem test_masks : outK 4 (vecOp ints (.vcmp noKeys .s8 4 1 2 .lt (some 1)) []) = 0x4 ∧ outK 4 (vecOp ints (.vcmp noKeys .n8 4 1 2 .lt none) []) = 0x6 ∧
    outK 4 (vecOp ints (.kop noKeys (.first 4 1)) []) = 1 ∧ outK 4 (vecOp ints (.kop noKeys (.andn 4 1 2)) []) = 5 ∧
    outK 4 (vecOp ints (.kop noKeys (.set 4)) []) = 2 ^ 64 - 1 ∧ outX (vecOp ints (.kop noKeys (.pop 9 1)) []) = [(9, 2)] ∧
    outX (vecOp ints (.vmx noKeys (.get .s8 1 9 1)) []) = [(9, 0xffffffffffffff80)] ∧ outX (vecOp ints (.vmx noKeys (.get .n8 1 9 1)) []) = [(9, 0x80)] ∧
    (outLanes 8 64 3 (vecOp ints (.vmx noKeys (.put .n8 63 3 4)) [0, 0xfffe])).getLast? = some 0xfe ∧
    outX (vecOp ints (.vmx noKeys (.kget 9 1)) []) = [(9, 5)] ∧ outX (vecOp ints (.vptag noKeys (.get 9 1)) []) = [(9, 1)] := by decide +kernel

/-- The last 64 bytes of the scratchpad, and an address that is no multiple of 4, for a .n32 operation. -/
def vldI : Instr := .vld noKeys .n32 3 4 none
def vstI : Instr := .vst noKeys .n32 1 4 none
def line : State := { vecOp ints vldI [0, 0x7ffc0] with mem := [(spBase 0 + 0x7ffc0, 1), (spBase 0 + 0x7ffff, 2)] }
theorem line_clean (s : State) (h : s.poison = []) (l : Nat) : s.poisoned l = false := by unfold State.poisoned; rw [h]; rfl
theorem witness_VectorMemory : Spec.VecReady line 0 (op vldI [0, 0x7ffc0]) [] ∧ Spec.OwnRun line 0 0x7ffc0 64 ∧
    line.racing 0 1 (spBase 0 + 0x7ffc0) 64 = [] ∧ 0x7ffc0 % (LaneTy.width .n32 / 8) = 0 ∧
    0x7ffc2 % (LaneTy.width .n32 / 8) ≠ 0 ∧ ((settled (vecOp ints vstI [0, 0x7ffc0])).ctx 0).retriable = false ∧
    (settled (vecOp ints vstI [0, 0x7ffc0])).racing 0 1 (spBase 0 + 0x7ffc0) 64 = [] := by
  refine ⟨⟨rfl, rfl, rfl, (by intro w h; cases h), rfl, ⟨rfl, rfl⟩, rfl, rfl⟩, ⟨by decide +kernel, by decide +kernel, by decide, by decide +kernel,
    fun r h => (by cases h), fun l _ _ => line_clean _ rfl _⟩, rfl, by decide, by decide, by decide +kernel, by decide +kernel⟩
theorem test_vector_memory : (outLanes 8 64 3 line).head? = some 1 ∧ (outLanes 8 64 3 line).getLast? = some 2 ∧
    (after (exec (.vectorOpStart 0) (settled (vecOp ints vstI [0, 0x7ffc0])))).readNat (spBase 0 + 0x7ffc0) 4 = 0xff00807f ∧
    (((after (exec (.vectorOpStart 0) (vecOp ints vstI [0, 0x7ffc2]))).ctx 0).vec.fault.map (fun f => (f.cause, f.addr))) = some (0x13, 0x7ffc2) := by
  decide +kernel
/-- R108, R296: while a VST is under way another engine may still read its lane as it was, the vector engine and a joined one may not. -/
theorem test_race : let u := after (exec (.vectorOpStart 0) (settled (vecOp ints vstI [0, 0x7ffc0])))
    (u.racing 0 2 (spBase 0 + 0x7ffc0) 64).map (fun h => (h.pa - spBase 0, h.old, h.new)) = [(0x7ffc0, [0, 0, 0, 0], [0x7f, 0x80, 0, 0xff])] ∧
    u.racing 0 1 (spBase 0 + 0x7ffc0) 64 = [] ∧ (after (exec (.vectorOpComplete 0) u)).racing 0 2 (spBase 0 + 0x7ffc0) 64 = [] := by decide +kernel
/-- R230, R232, R233: strides and element indices, the highest lane last. -/
theorem test_strides : outLanes 8 2 3 { vecOp ints (.vlds noKeys .n8 3 4 5 (some 1)) [0, 0x7ffff, 0xfffffffffffffffe] with
      mem := [(spBase 0 + 0x7fffb, 5), (spBase 0 + 0x7ffff, 2)] } = [2, 9] ∧
    (after (exec (.vectorOpStart 0) (settled (vecOp ints (.vsts noKeys .n8 2 4 5 none) [0, 0x7fff0, 0])))).readB (spBase 0 + 0x7fff0) = 0 ∧
    outLanes 32 2 3 { vecOp [(2, lanes 32 [1, 0xffffffff])] (.vgth noKeys .n32 3 4 2 6 false none) [0, 0x2000] with
      mem := [(spBase 0 + 0x1ffc, 7), (spBase 0 + 0x2004, 8)] } = [8, 7] ∧
    (after (exec (.vectorOpStart 0) (settled (vecOp [(2, 0), (1, lanes 32 [1, 2])] (.vsct noKeys .n32 1 4 2 (some 2)) [0, 0x2000])))).readNat
      (spBase 0 + 0x2000) 4 = 2 := by decide +kernel

theorem witness_EngineFaults : Spec.VecReady ((vecOp flts (.vrcpa noKeys .f32 3 1 none) []).updCtx 0 (fun x => { x with launch := some { launch1 with det := 3 } })) 0
      (op (.vrcpa noKeys .f32 3 1 none) []) [] ∧
    3 ≤ (((vecOp flts (.vrcpa noKeys .f32 3 1 none) []).updCtx 0 (fun x => { x with launch := some { launch1 with det := 3 } })).ctx 0).det :=
  ⟨⟨rfl, rfl, rfl, (by intro w h; cases h), rfl, ⟨rfl, rfl⟩, rfl, rfl⟩, by decide +kernel⟩

/-- VRNG's words by R63; a VCVT of −1.0 and one that saturates; pairs of 1.0 and 2.0 in X; a VREDM with its lowest lane; the worked scan of
R244; the worked block of R59. -/
def one : BitVec 512 := BitVec.ofNat 512 (2 ^ 266)
theorem test_draw : outLanes 32 2 3 (vecOp [] (.vrng noKeys 3 4 5 6 none) [0, 1, 2, 3]) = [0x2704694b, 0x59cecc5c] := by decide +kernel
theorem test_reductions : outLanes 32 1 3 (vecOp [(1, lanes 32 [0xbf800000])] (.vcvt noKeys .s32 .f32 3 1 0 none .rne) []) = [0xffffffff] ∧
    outLanes 8 2 3 (vecOp ints (.vcvt noKeys .n8 .s8 3 1 0 none .rne) []) = [0x7f, 0] ∧
    (((after (exec (.vectorOpStart 0) (vecOp flts (.vredx noKeys .f32 4 1 false (some 1)) []))).ctx 0).vec.reg 4).toNat = 2 ^ 512 - 2 ^ 266 ∧
    (((after (exec (.vectorOpStart 0) (vecOp [(4, one), (6, one)] (.vxadd noKeys 4 6) []))).ctx 0).vec.reg 4).toNat = 2 ^ 267 ∧
    outLanes 32 2 3 (vecOp [(4, one)] (.vxrnd noKeys .f32 3 4 1 .rne) []) = [0, 0x3f800000] ∧
    outLanes 32 3 3 (vecOp [(1, lanes 32 [5, 0xffffffff, 9, 9])] (.vredm noKeys .s32 3 1 false none) []) = [9, 2, 0] ∧
    outLanes 32 2 3 (vecOp flts (.vredf noKeys 3 2 (some 1) .rne) []) = [0x40a00000, 0] := by decide +kernel
def scan (m : Option KReg) : State :=
  (vecOp [(2, lanes 32 [0x3e800000, 0x3f000000, 0x3e000000, 0x3e000000]), (10, BitVec.ofNat 512 (19 * 2 ^ 261))] (.vxscan noKeys .f32 7 2 8 10 m) []).updVec 0
    (fun v => { v with k := v.k.set 4 0xfffd })
theorem test_scan : outX (scan none) = [(7, 1)] ∧ (((after (exec (.vectorOpStart 0) (scan none))).ctx 0).vec.reg 8) = one ∧
    outX (scan (some 4)) = [(7, 0xffffffffffffffff)] ∧ (((after (exec (.vectorOpStart 0) (scan (some 4)))).ctx 0).vec.reg 8).toNat = 2 ^ 265 := by
  decide +kernel
def block : State := settled (vecOp [(1, lanes 32 [0x40400000, 0xbfa00000, 0x3f000000])] (.qpack noKeys .pb4 .f32 4 1 5) [0x2000, 0, 200])
def block' : State := { vecOp [] (.qunpk noKeys .f32 .pb4 3 4) [0, 0x2000] with
  mem := [(spBase 0 + 0x2000, 0x80), (spBase 0 + 0x2001, 0xfc), (spBase 0 + 0x2002, 0xa6), (spBase 0 + 0x2003, 0x01)] }
theorem test_block : (after (exec (.vectorOpStart 0) block)).read (spBase 0 + 0x2000) 10 = [0x80, 0xfc, 0xa6, 0x01, 0, 0, 0, 0, 0, 0] ∧
    outLanes 32 4 3 block' = [0x40400000, 0xbf800000, 0x3f000000, 0] := by decide +kernel

/-- X at its greatest value, so that one more leaves the range; a histogram region at the boundary and at the end, and one byte beyond. -/
def top : List (Nat × BitVec 512) := [(4, BitVec.allOnes 512), (5, BitVec.ofNat 512 (2 ^ 63 - 1)), (6, one)]
theorem witness_ReductionsAndHistograms : (evenReg (4 : VReg) = true) ∧
    Spec.VecReady (vecOp [(4, one), (6, one)] (.vxadd noKeys 4 6) []) 0 (op (.vxadd noKeys 4 6) []) [] ∧
    (vecOp top (.vxadd noKeys 4 6) []).cells.map (fun p => ((p.2.ctx.vec.pair 4).x.toInt + (p.2.ctx.vec.pair 6).x.toInt ≥ 2 ^ 575 : Bool)) = [true] ∧
    (RedTy.lane .s32).isFloat = false ∧ LaneTy.lanes .n8 = LaneTy.lanes .s8 ∧
    ((vecOp flts (.qhist noKeys .f32 4 1 none) [0x1000]).core 0).xoTop ≤ 0x1000 ∧
    0x7fc00 + 1024 ≤ ((vecOp flts (.qhist noKeys .f32 4 1 none) [0x7fc00]).cell 0).fpCap ∧
    ((vecOp flts (.qhist noKeys .f32 4 1 none) [0x7fc04]).cell 0).fpCap < 0x7fc04 + 1024 :=
  ⟨rfl, ready _ _ _, by decide +kernel, rfl, rfl, by decide +kernel, by decide +kernel, by decide +kernel⟩
/-- R252, R58: exponents 127 and 128 once each in lanes 0 and 2, which k1 names; the clip exponent at half of a histogram of 3 and 1. -/
theorem test_histogram : let t := after (exec (.vectorOpStart 0) (settled (vecOp flts (.qhist noKeys .f32 4 1 (some 1)) [0x2000])))
    (t.readNat (spBase 0 + 0x2000 + 4 * 127) 4, t.readNat (spBase 0 + 0x2000 + 4 * 128) 4, t.readNat (spBase 0 + 0x2000 + 4 * 254) 4) = (1, 1, 0) ∧
    outX { vecOp [] (.qscale noKeys 9 4 5) [0, 0x2000, 32768] with mem := [(spBase 0 + 0x2000 + 4 * 100, 3), (spBase 0 + 0x2000 + 4 * 200, 1)] } = [(9, 100)] ∧
    outX { vecOp [] (.qscale noKeys 9 4 5) [0, 0x2000, 65536] with mem := [(spBase 0 + 0x2000 + 4 * 100, 3), (spBase 0 + 0x2000 + 4 * 200, 1)] } = [(9, 200)] := by
  decide +kernel

/-! ## The matrix engine -/

/-- Cell 0 with one matrix operation queued and the engine's registers changed. -/
def matOp (f : MatEng → MatEng) (i : Instr) (xs : List Word) : State := running.updMat 0 (fun m => { f m with queue := [op i xs] })
def last (i : Instr) : State := matOp (fun m => { m with head := 3, fresht := 8 }) i [0, 0xffff]
def matAfter (s : State) : MatEng := ((after (exec (.matrixOpStart 0) s)).ctx 0).mat
def matX (s : State) : List (Nat × Word) := ((matAfter s).queue.map (·.writes)).flatten
/-- The accumulator of an integer. -/
def acc (v : Int) : XA := { XA.zero with x := BitVec.ofInt 576 (v * 2 ^ 266) }

theorem witness_TileOperations (i : Instr) : Spec.MatReady (last i) 0 (op i [0, 0xffff]) [] ∧ ((last i).cell 0).acap = 4 ∧
    Spec.named .ring ((last i).ctx 0).mat.head = 3 ∧ ((last i).ctx 0).mat.fresht.getLsbD 3 = true ∧ ((settled (last i)).ctx 0).retriable = false :=
  ⟨⟨rfl, rfl, rfl, (by intro w h; cases h), rfl, ⟨rfl, rfl⟩, rfl, rfl⟩, rfl, rfl, (show (8 : BitVec 4).getLsbD 3 = true by decide), rfl⟩
/-- R305, R291, R310, R311: the head goes from 3 to 0; tags join; mx.stat gives head 3 and four tiles. -/
theorem test_tiles : (matAfter (matOp (fun m => { m with head := 3 }) (.madv noKeys false) [])).head = 0 ∧
    ((matAfter (matOp (fun m => { m with tiles := m.tiles.set 3 ⟨[(0, acc 1)], 1⟩ }) (.mzero noKeys (.tile 3)) [])).tile 3) = Tile.zero ∧
    ((matAfter (settled (matOp (fun m => { m with tiles := m.tiles.set 2 ⟨[], 1⟩ }) (.mrtg noKeys (.or 2 4)) [0, 0x1f0]))).tile 2).tags = 0x1f1 ∧
    matX (matOp (fun m => { m with tiles := m.tiles.set 2 ⟨[], 0x8001⟩ }) (.mrtg noKeys (.get 9 2)) []) = [(9, 0x8001)] ∧
    (matX (matOp (fun m => { m with head := 3 }) (.mstat noKeys 9 false false) [])).map (fun p => (p.2.toNat % 4, p.2.toNat / 2 ^ 13)) = [(3, 4)] := by
  decide +kernel

theorem witness_EngineFaults_tile : ((matOp id (.mzero noKeys (.tile 3)) []).ctx 0).mat.queue = op (.mzero noKeys (.tile 3)) [] :: [] ∧
    (((matOp id (.mzero noKeys (.tile 3)) []).updCell 0 (fun cl => { cl with floor := { cl.floor with accum := [0, 1, 2] } })).cell 0).acap ≤ (3 : AReg).toNat :=
  ⟨rfl, by decide +kernel⟩
theorem test_engine_faults : (matAfter ((matOp id (.mzero noKeys (.tile 3)) []).updCell 0 (fun cl => { cl with floor := { cl.floor with accum := [0, 1, 2] } }))).fault.map
      (·.cause) = some 0x09 ∧
    (((after (exec (.vectorOpStart 0) ((vecOp flts (.vrsqa noKeys .f32 3 1 none) []).updCtx 0 (fun x => { x with launch := some { launch1 with det := 3 } })))).ctx
      0).vec.fault.map (·.cause)) = some 0x18 := by decide +kernel

/-- Latch rows of BF16: 1.0 at element 0 of row 0, and 2.0, −3.0 at element 0 of rows 0 and 1. -/
def panels (m : MatEng) : MatEng := { m with l0 := ⟨some .bf16, 1, 1, [(0, 0x3f80)]⟩, l1 := ⟨some .bf16, 1, 0, [(0, 0x4000), (64, 0xc040)]⟩ }
def mmacI : Instr := .mmac noKeys .ring 0 1
/-- X one short of its range at (0, 0). -/
def topTile : Tile := ⟨[(0, { XA.zero with x := BitVec.ofInt 576 (2 ^ 575 - 2 ^ 267) })], 0⟩
theorem witness_ExactSums : Spec.MatReady (settled (matOp panels mmacI [])) 0 (op mmacI []) [] ∧
    Spec.named .ring ((settled (matOp panels mmacI [])).ctx 0).mat.head < ((settled (matOp panels mmacI [])).cell 0).acap ∧
    ((settled (matOp panels mmacI [])).ctx 0).retriable = false ∧
    (List.zipWith Fl.mul ((panels MatEng.reset).l0.row 0 1) ((panels MatEng.reset).l1.row 0 1)).all (·.isFinite) = true ∧
    topTile.acc.map (fun p => decide (p.2.x.toInt + ((List.zipWith Fl.mul ((panels MatEng.reset).l0.row 0 1) ((panels MatEng.reset).l1.row 0 1)).map
      Spec.units).sum = 2 ^ 575)) = [true] :=
  ⟨⟨rfl, rfl, rfl, (by intro w h; cases h), rfl, ⟨rfl, rfl⟩, rfl, rfl⟩, by decide, rfl, by decide +kernel, by decide +kernel⟩
theorem witness_ExactSums_pair : Spec.VecReady (vecOp flts (.vredx noKeys .f32 4 1 true none) []) 0 (op (.vredx noKeys .f32 4 1 true none) []) [] ∧
    (4 : VReg).toNat % 2 = 0 := ⟨ready _ _ _, rfl⟩
/-- R304: the products, and the tags of A's rows; R53: the guard's cause and X as before. -/
theorem test_mmac : ((matAfter (settled (matOp panels mmacI []))).tile 0).at 0 = acc 2 ∧ ((matAfter (settled (matOp panels mmacI []))).tile 0).at 1 = acc (-3) ∧
    ((matAfter (settled (matOp panels mmacI []))).tile 0).at 16 = XA.zero ∧ ((matAfter (settled (matOp panels mmacI []))).tile 0).tags = 1 ∧
    (matAfter (settled (matOp (fun m => { panels m with tiles := m.tiles.set 0 topTile }) mmacI []))).fault.map (·.cause) = some 0x0a ∧
    (((matAfter (settled (matOp (fun m => { panels m with tiles := m.tiles.set 0 topTile }) mmacI []))).tile 0).at 0).cg = true := by decide +kernel

/-- R301, R303: one row of one group of BF16 from 0x2000; row 0 gathered from index 2 at a stride of 32. -/
theorem test_panels : (matAfter { matOp id (.mlda noKeys .bf16 1 4 5) [0, 0x2000, 1] with mem := [(spBase 0 + 0x2000, 0x80), (spBase 0 + 0x2001, 0x3f)] }).l1.rows =
      [(0, 0x3f80)] ∧
    ((matAfter { matOp id (.mldb noKeys .bf16 0 4 5) [0, 0x2000, 1] with mem := [(spBase 0 + 0x2000, 0x80), (spBase 0 + 0x2001, 0x3f)] }).l0.kg) = 1 ∧
    (matAfter { (matOp id (.mgth noKeys .bf16 1 4 2 5) [0, 0x2000, 0, 32 * 2 ^ 32 + 1]).updVec 0 (fun v => { v with v := v.v.set 2 (lanes 32 [2]) }) with
      mem := [(spBase 0 + 0x2040, 0x80), (spBase 0 + 0x2041, 0x3f)] }).l1.rows = [(0, 0x3f80)] := by decide +kernel

/-- The worked column select of R309: six rows and two columns with row base 16, row 3 tagged. -/
def selTile : Tile :=
  ⟨[(0, acc 1), (1, acc 2), (16, acc 3), (17, acc 2), (32, acc 3), (33, { XA.zero with x := BitVec.ofNat 576 (2 ^ 265) }), (48, acc 5), (49, acc 9), (64, acc 2), (65, acc 2),
    (80, acc (-1)), (81, acc 4)], 8⟩
def drained : State := after (exec (.matrixOpStart 0) (settled (matOp (fun m => { m with
    tiles := m.tiles.set 0 selTile
    epi := { Epi.off with c := 2, sel := 0x4000 } }) (.mdrn noKeys .f32 (.tile 0) 4 5 6 false .rne) [0, 0x3000, 64 * 2 ^ 32 + 0x105, 16])))
theorem test_drain : drained.readNat (spBase 0 + 0x4000) 4 = 17 ∧ drained.readNat (spBase 0 + 0x4004) 4 = 18 ∧ drained.readNat (spBase 0 + 0x4008) 4 = 0xffffffff ∧
    drained.readNat (spBase 0 + 0x4040) 4 = 21 ∧ drained.readNat (spBase 0 + 0x4044) 4 = 16 ∧ drained.readNat (spBase 0 + 0x4400) 4 = 0x40400000 ∧
    drained.readNat (spBase 0 + 0x4440) 4 = 0x40800000 ∧ drained.readNat (spBase 0 + 0x4800) 8 = 0x270000 ∧
    drained.readNat (spBase 0 + 0x3000 + 5 * 64) 4 = 0xbf800000 ∧ drained.poisoned ((spBase 0 + 0x3000) / 64 + 3) = true := by decide +kernel
/-- R306: an image that is not 64-byte aligned. -/
theorem test_spill : (matAfter (matOp id (.mspl noKeys (.tile 1) 4) [0, 0x2020])).fault.map (fun f => (f.cause, f.addr)) = some (0x13, 0x2020) := by
  decide +kernel
/-- R307: a descriptor of one kept row per column; an activation code of 3 faults. -/
theorem test_mepi : (matAfter { matOp id (.mepi noKeys 4) [0x2000] with mem := [(spBase 0 + 0x2088, 0x10), (spBase 0 + 0x2091, 0x40)] }).epi.c = 1 ∧
    (matAfter { matOp id (.mepi noKeys 4) [0x2000] with mem := [(spBase 0 + 0x2088, 0x03)] }).fault.map (fun f => (f.cause, f.addr)) = some (0x13, 0x2000) := by
  decide +kernel

/-! ## The copy engine -/

def copOp (i : Instr) (xs : List Word) : State := running.updCop 0 (fun e => { e with queue := [op i xs] })
theorem ready_cop (i : Instr) (xs : List Word) : Spec.CopReady (copOp i xs) 0 (op i xs) [] :=
  ⟨rfl, rfl, rfl, (by intro w h; cases h), rfl, ⟨rfl, rfl⟩, rfl, rfl, (show 0 < 16 by decide), (by intro f h; cases h), rfl⟩
/-- An operation of an empty flight list, in its checks. -/
def flightOf (o : EngOp) : Flight := ⟨o, false, false, false, 0, 0, 0, 0, 0, 0, false, none, false, none, .cell, [], []⟩
def checked (s : State) : State := (s.updCop 0 (fun e => { e with queue := [], flight := e.queue.map flightOf })).copyBegin 0 0

/-- R279: two slots of 64 bytes at the last place for a producer, with cell 1 as peer, and the same one unit further. -/
def cbI : Instr := .cbdef noKeys 2 4 5 6
theorem witness_Copies (i : Instr) (xs : List Word) : Spec.CopReady (copOp i xs) 0 (op i xs) [] := ready_cop i xs
theorem witness_Copies_cbdef : 0x7ff80 % 64 = 0 ∧ 0x7ff80 + 2 * 64 ≤ 524288 ∧ ¬ 0x7ffc0 + 2 * 64 ≤ 524288 ∧
    ((copOp cbI [0, 0x7ff80, 2 ^ 48 + 1, 1]).destOf 0 1).isSome = true ∧ ((2 ^ 48 + 1) / 2 ^ 48 % 2 = 1) := by decide +kernel
def slots : Handle := ⟨true, true, 0, 1, 1, 0, 0x100, 1⟩
def turning : State := (copOp (.cbadv noKeys 9 2 3) []).updCore 0 (fun k => { k with hnd := k.hnd.set 2 slots })
theorem witness_Copies_cbadv : ((copOp (.cbadv noKeys 9 2 3) []).core 0).hnd[(2 : BReg).toNat].valid = false ∧
    (turning.core 0).hnd[(2 : BReg).toNat].valid = true := by decide +kernel
theorem test_handles : ((checked (copOp cbI [0, 0x7ff80, 2 ^ 48 + 1, 1])).core 0).hnd[2] = ⟨true, true, 0, 0, 1, 0, 0x7ff80, 1⟩ ∧
    ((checked (copOp cbI [0, 0x7ffc0, 2 ^ 48 + 1, 1])).ctx 0).cop.fault.map (·.cause) = some 0x13 ∧
    ((checked turning).core 0).hnd[2].index = 0 := by decide +kernel
/-- Rows of 0 bytes, of 2^24 + 1 bytes, a count of 0 rows, and a reserved bit. -/
theorem witness_Copies_shape : (2 ^ 32 : Nat) % 2 ^ 32 = 0 ∧ 2 ^ 24 < (2 ^ 32 + 2 ^ 24 + 1) % 2 ^ 32 ∧ (64 : Nat) / 2 ^ 32 % 2 ^ 16 = 0 ∧ (2 ^ 48 + 2 ^ 32 + 64) / 2 ^ 48 ≠ 0 := by
  decide
theorem test_shape : ((checked (copOp (.cpy noKeys 5 6 8 10) [0x2000, 0x3000, 2 ^ 32 + 2 ^ 24 + 1, 0])).ctx 0).cop.fault.map (fun f => (f.cause, f.eng)) = some (0x13, 3) := by
  decide +kernel

/-- A copy in flight, before its row has moved, of a non-retriable activation; and CPYX of its token behind it. -/
def flight1 : Flight := flightOf { op (.cpy ⟨0, some 2⟩ 5 6 8 10) [0x2000, 0x7ffc0, 2 ^ 32 + 64, 0] with started := true, gen := 1 }
def copying : State := { settled (running.updCop 0 (fun e => { e with flight := [flight1] })) with
  mem := [(spBase 0 + 0x7ffc0, 1), (spBase 0 + 0x7ffff, 2)] }
theorem witness_Copies_complete : ((copying.ctx 0).cop.flight.map (fun f => (f.op.ins, f.op.started, f.stopped, f.resume, f.dropped)) =
      [(.cpy ⟨0, some 2⟩ 5 6 8 10, true, false, 0, false)]) ∧ (copying.cell 0).moving = none ∧ (copying.ctx 0).retriable = false ∧ Memory.wf copying.mem = true ∧
    ((copying.ctx 0).cop.flight.map (fun f => (f.op.xs.getD 2 0, f.op.xs.getD 3 0))) = [(BitVec.ofNat 64 (2 ^ 32 + 64), 0)] ∧
    Spec.OwnRun copying 0 0x7ffc0 64 ∧ copying.racing 0 (flight1.op.copyEng) (spBase 0 + 0x7ffc0) 64 = [] ∧
    copying.racing 0 (flight1.op.copyEng) (spBase 0 + 0x2000) 64 = [] ∧ (copying.core 0).xoTop ≤ 0x2000 ∧ 0x2000 + 64 ≤ (copying.cell 0).fpCap :=
  ⟨by decide +kernel, rfl, rfl, by decide +kernel, by decide +kernel, ⟨by decide +kernel, by decide +kernel, by decide, by decide +kernel,
    (by intro r h; cases h), fun l _ _ => line_clean _ rfl _⟩, by decide +kernel, by decide +kernel, by decide +kernel, by decide +kernel⟩
theorem test_copy : (after (exec (.copyOpComplete 0 0) copying)).readB (spBase 0 + 0x2000) = 1 ∧ (after (exec (.copyOpComplete 0 0) copying)).readB (spBase 0 + 0x203f) = 2 ∧
    ((after (exec (.copyOpComplete 0 0) copying)).ctx 0).cop.flight = [] := by decide +kernel

/-! ## Translation -/

/-- Page tables of ASID 1: its entry at 0x8_0008 and tables at 0x10_0000, 0x10_2000, 0x10_8000 and 0x11_0000 lead 0x10_0000 to the page at
0x400_0000 (R79, R80). The page holds a descriptor at 0 (R117), code of one word at 0x100 and a binding table at 0x200. -/
def tables : List Host.Cell :=
  [(0x80008, 1), (0x8000a, 0x10), (0x100000, 1), (0x100001, 0x20), (0x100002, 0x10), (0x102000, 1), (0x102001, 0x80), (0x102002, 0x10), (0x108000, 1),
   (0x108002, 0x11), (0x110080, 0x1f), (0x110083, 0x04)]
def descriptor : List Host.Cell :=
  [(0x4000001, 1), (0x4000002, 0x10), (0x4000008, 4), (0x400000c, 1), (0x4000011, 2), (0x4000012, 0x10), (0x4000018, 1), (0x4000019, 1), (0x400001c, 1),
   (0x4000020, 1), (0x4000024, 1), (0x4000028, 1), (0x400002a, 1), (0x400002c, 1), (0x400002e, 32), (0x4000031, 0x80), (0x4000207, 1), (0x400020c, 1)]
def paged : State := { running.updDie 0 (fun d => { d with asidBase := 0x80000 }) with mem := tables ++ descriptor }
def walking (gather : Bool) (gran : Nat) : State :=
  (paged.updDie 0 (fun d => { d with walks := [⟨1, gran, [(0, gather)], false, none⟩] })).updCell 0 (fun cl => { cl with utlb := [] })
theorem walk_of (gather : Bool) : Spec.Walk4 (walking gather 16) 0 1 (16 * 65536) 0x100001 0x102001 0x108001 0x110001 0x400001f := by
  cases gather <;> exact ⟨by decide +kernel, by decide +kernel, by decide +kernel, by decide +kernel, by decide +kernel, by decide +kernel,
    by decide, by decide, by decide, by decide⟩
theorem walk_of_missing : Spec.Walk4 (walking true 17) 0 1 (17 * 65536) 0x100001 0x102001 0x108001 0x110001 0 :=
  ⟨by decide +kernel, by decide +kernel, by decide +kernel, by decide +kernel, by decide +kernel, by decide +kernel, by decide, by decide, by decide, by decide⟩
theorem witness_Translation : ((walking true 16).die 0).walks = ⟨1, 16, [(0, true)], false, none⟩ :: [] ∧
    (∀ i ∈ ((walking true 16).die 0).inv.toList, i.busy = false) ∧ ((walking true 16).cell 0).pinCount < 32 ∧ (0x400001f : Nat) % 2 = 1 ∧
    0x400001f / 2 ^ 53 = 0 ∧ 0x400001f / 2 ^ 6 % 2 = 0 ∧ Spec.pteTo 0x400001f % 65536 = 0 ∧ ((walking true 16).die 0).llt = [] ∧ ((walking true 16).cell 0).utlb = [] := by
  decide +kernel
/-- R80, R86, R87: the translation, pinned for a gather; the failure of the next page as a fault pin. -/
theorem test_walk : ((after (exec (.pageWalkComplete 0 0) (walking true 16))).cell 0).utlb = [⟨1, 0x100000, 0x10000, 0x4000000, 0x1f, some 0⟩] ∧
    ((after (exec (.pageWalkComplete 0 0) (walking true 17))).cell 0).pins = [⟨1, 17, 0x10, 0⟩] ∧
    ((after (exec (.pageWalkComplete 0 0) (walking false 17))).cell 0).walked = [(1, 17, 0x10)] := by decide +kernel

/-- A fault pin after 65,536 cycles and one before; an invalidation of all of ASID 1's first page, as it starts and as it ends. -/
def pinned : State := running.updCell 0 (fun cl => { cl with pins := [⟨1, 17, 0x10, 0⟩] })
def slot1 : InvSlot := ⟨1, 0x100000, 0, false, false, false⟩
def invalidating (busy : Bool) : State := (walking false 16).updDie 0 (fun d => { d with
  inv := d.inv.set 7 { slot1 with busy := busy }
  llt := [⟨1, 0x100000, 0x10000, 0x4000000, 0x1f, none⟩, ⟨2, 0x100000, 0x10000, 0x4000000, 0x1f, none⟩] })
theorem witness_Translation_pins : (∀ x ∈ (pinned.cell 0).utlb, x.pin = none) ∧ (pinned.cell 0).pins = ⟨1, 17, 0x10, 0⟩ :: [] ∧ 0 + 65536 ≤ 65536 ∧
    65535 < 0 + 65536 := by decide +kernel
theorem witness_Translation_invalidation : (1 : Word).getLsbD 0 = true ∧ ((invalidating false).die 0).inv.toList.getD 7 InvSlot.reset = slot1 ∧
    (((invalidating true).die 0).inv.toList.getD 7 InvSlot.reset).busy = true ∧
    (∀ p ∈ (invalidating true).cells, p.2.ctx.out.sb = [] ∧ p.2.ctx.out.held = [] ∧ (invalidating true).storesOut p.1 = false) := by decide +kernel
theorem test_invalidation : ((after (exec (.invalidationStart 0 7 1) (invalidating false))).die 0).walks.map (·.discard) = [true] ∧
    ((after (exec (.invalidationDone 0 7) (invalidating true))).die 0).llt.map (·.asid) = [2] ∧
    ((after (exec (.pinExpiry 0 0) { pinned with now := 65535 })).cell 0).pins.length = 1 ∧
    ((after (exec (.pinExpiry 0 0) { pinned with now := 65536 })).cell 0).pins = [] := by decide +kernel

/-! ## Memory ports, retirement, tests -/

/-- A window of block 5, and behind it a later one of the same block. -/
def port : State := State.reset.updStack 7 (fun x =>
  { x with queue := [.read 5 0 false, .read 5 8 false], acts := [(9, 3)], rd := 0xffffffffffffffff })
def held : State := State.reset.updStack 7 (fun x => { x with holds := [(3, 0)] })
theorem witness_MemoryPorts : (port.stack 7).queue[0]? = some (.read 5 0 false) ∧ (∀ h ∈ (port.stack 7).holds, h.1 ≠ bankOf 5) ∧
    (∀ q ∈ (port.stack 7).queue, ∃ b t, q = .read b t false) ∧ (∀ q ∈ (port.stack 7).queue.take 0, bankOf q.blk ≠ bankOf 5) ∧
    (port.stack 7).queue[1]? = some (.read 5 8 false) ∧ (∃ q ∈ (port.stack 7).queue.take 1, bankOf q.blk = bankOf 5) ∧
    (port.die 1).lines = [] ∧ (held.stack 7).queue = [] ∧ (∀ p ∈ port.memStacks, ∀ q ∈ p.2.queue, ∀ l, q ≠ .write l) ∧ 0 + 8 ≤ 8 ∧ 7 < 0 + 8 ∧
    (held.stack 7).holds = [(3, 0)] ∧ 0 + (held.stack 7).backoff.toNat ≤ 512 ∧ 511 < 0 + (held.stack 7).backoff.toNat ∧
    (∃ x, x < 48 ∧ x ≠ 47 ∧ x ∉ (port.die 0).deadSlices) := by
  have reads : ∀ q ∈ [PortReq.read 5 0 false, .read 5 8 false], ∃ b t, q = .read b t false := by
    intro q h
    rcases List.mem_cons.mp h with rfl | h
    · exact ⟨_, _, rfl⟩
    · exact ⟨_, _, List.mem_singleton.mp h⟩
  refine ⟨rfl, (by intro h hh; cases hh), reads, (by intro q h; cases h), rfl, ⟨.read 5 0 false, List.mem_singleton.mpr rfl, rfl⟩, rfl, rfl, ?_, by decide, by decide, rfl,
    by decide, by decide, ⟨0, by decide, by decide, (by intro h; cases h)⟩⟩
  intro p hp q hq l e
  obtain rfl := List.mem_singleton.mp hp
  obtain ⟨b, t, rfl⟩ := reads q hq
  cases e
theorem test_ports : ((after (exec (.bankHoldExpiry 7 3) { held with now := 512 })).stack 7).bocyc = 512 ∧
    ((after (exec (.rowRefresh 7 9) port)).stack 7).acts = [] ∧ ((after (exec (.statsClear 7) port)).stack 7).rd = 0 := by decide +kernel

/-- A cell without spare tiles, and one whose bank 15 moves to a spare since cycle 0. -/
def noSpare : State := running.updCell 0 (fun cl => { cl with floor := { cl.floor with saccum := [] } })
def evac1 : Evac := ⟨.scratch, 15, 16, false, 0⟩
def evacuating : State := running.updCell 0 (fun cl => { cl with floor := { cl.floor with evac := some evac1, sscratch := [17] } })
theorem witness_RetirementAndTests : (running.cell 0).floor.evac = none ∧ (running.cell 0).floor.scratch[15]? = some 15 ∧
    (∀ j, j < 15 → (running.cell 0).floor.scratch[j]? ≠ some 15) ∧ (running.cell 0).floor.sscratch = 16 :: [17] ∧ (noSpare.cell 0).floor.saccum = [] ∧
    (noSpare.cell 0).floor.accum[0]? = some 0 ∧ (evacuating.cell 0).floor.evac ≠ none ∧ 16 ∉ (running.cell 0).floor.scratch := by decide +kernel
theorem witness_RetirementAndTests_end : (evacuating.cell 0).floor.evac = some evac1 ∧ evac1.withdraw = false ∧ (evacuating.core 0).act ≠ none ∧
    evac1.since + 1024 ≤ 1024 ∧ 1023 < evac1.since + 1024 := by decide +kernel
theorem witness_RetirementAndTests_latch : State.reset.impValid = false ∧ { State.reset with impValid := true }.impValid = true := ⟨rfl, rfl⟩
/-- R152, R154: bank 15 is to go to spare 16; without a spare the highest tile's unit serves and is to be withdrawn; vector bank 1 has gone to
spare 4 after 16 cycles. -/
theorem test_retirement : ((after (exec (.retireScratchpadBank 0 15) running)).cell 0).floor.evac = some evac1 ∧
    ((after (exec (.retireAccumulatorTile 0 0) noSpare)).cell 0).floor.evac = some ⟨.accum, 0, 3, true, 0⟩ ∧
    ((after (exec (.evacuationComplete 0) { after (exec (.retireVectorBank 0 1) running) with now := 16 })).cell 0).floor.vector = [0, 4, 2, 3] ∧
    ((after (exec (.evacuationComplete 0) { evacuating with now := 1023 })).cell 0).floor.evac = some evac1 ∧
    ((after (exec (.inFieldTestFail 3) running)).dist 3).retired = true := by decide +kernel

/-! ## Migration and proof pairs -/

/-- The launch with the least footprint, so that its context moves in few words; the move in progress since cycle 0. -/
def small : LCtx := { launch1 with footprint := 64 }
def leaving : State := running.updCtx 0 (fun x => { x with launch := some small })
def moving0 : State := { leaving with mem := [(spBase 0, 7), (spBase 0 + 64, 8)] }.updCell 0 (fun cl => { cl with moving := some (1, 0) })
theorem witness_MigrationAndProofs : Spec.MayTake leaving 0 1 small := by
  refine ⟨rfl, by decide, by decide, by decide, ?_⟩; decide +kernel
theorem witness_MigrationAndProofs_handover : (moving0.cell 0).moving = some (1, 0) ∧ (moving0.ctx 0).launch = some small ∧ 0 + (small.footprint / 64 + 512) ≤ 513 ∧
    512 < 0 + (small.footprint / 64 + 512) ∧ small.cancelled = false ∧ small.partner = none ∧ (moving0.core 0).run = .running ∧ Memory.wf moving0.mem = true ∧
    (moving0.dist (distOfCell 1)).gated = false ∧ (moving0.ctx 0).rapWait = [] ∧ (moving0.ctx 1).rapWait = [] ∧ small.footprint ≤ 524288 := by decide +kernel
theorem witness_MigrationAndProofs_frozen : ((leaving.updCore 0 (fun k => { k with run := .frozen packet13 true 0 })).core 0).run = .frozen packet13 true 0 ∧
    Spec.MayTake (leaving.updCore 0 (fun k => { k with run := .frozen packet13 true 0 })) 0 1 small ∧ (leaving.core 0).act ≠ none := by
  refine ⟨rfl, ⟨rfl, by decide, by decide, by decide, ?_⟩, by decide⟩; decide +kernel
theorem test_migration : ((after (exec (.liveMigration 0 1) leaving)).cell 0).moving = some (1, 0) ∧
    (after (exec (.migrationHandover 0) { moving0 with now := 513 })).readX 1 1 = 5 ∧
    (after (exec (.migrationHandover 0) { moving0 with now := 513 })).readB (spBase 1) = 7 ∧
    (after (exec (.migrationHandover 0) { moving0 with now := 513 })).readB (spBase 1 + 64) = 0 ∧
    ((after (exec (.migrationHandover 0) { moving0 with now := 513 })).ctx 0).launch = none := by decide +kernel

/-- Cells 0 and 1 as a pair that has ended with one digest. -/
def pairOf (first : Bool) (q : Nat) (x : Ctx) (d : Option (BitVec 64)) : Ctx := { x with
  launch := some { launch1 with proof := true, partner := some q, first := first }
  out := { x.out with ended := d.map (fun w => (false, w)), held := [⟨0, packet (.msg 3 1 [])⟩] } }
def pair (d : Option (BitVec 64)) : State :=
  (running.updCtx 0 (fun x => pairOf true 1 x (some 9))).updCtx 1 (fun _ => pairOf false 0 (running.ctx 0) d)
theorem witness_MigrationAndProofs_pair : ((pair (some 9)).ctx 0).launch.bind (·.partner) = some 1 ∧
    ((pair (some 9)).ctx 1).launch.map (·.key) = some launch1.key ∧ ((pair (some 9)).ctx 0).out.ended = some (false, 9) ∧
    ((pair (some 9)).ctx 1).out.ended = some (false, 9) ∧ ((pair none).ctx 1).out.ended = none ∧ ((pair none).ctx 0).out.assisted = false ∧
    ((pair none).ctx 1).out.assisted = false ∧ (∀ r ∈ (pair none).svc, r.func ≠ 6) :=
  ⟨rfl, rfl, rfl, rfl, rfl, rfl, rfl, (by intro r h; cases h)⟩
theorem test_pair : ((after (exec (.proofDigestCompare 0) (pair (some 9)))).ctx 1).out.held = [] ∧
    ((after (exec (.proofDigestCompare 0) (pair (some 9)))).ctx 0).out.held.length = 1 ∧
    ((after (exec (.proofDigestCompare 0) (pair (some 9)))).ctx 0).out.ended = some (true, 9) := by decide +kernel

/-! ## The launch unit -/

/-- Queue 5 of ASID 1, enabled, its ring of 16 at the page with one descriptor submitted; the same disabled, empty or halted. -/
def queue1 : LQ := { LQ.reset with base := 0x100000, tail := 1, cfg := 0x10800 }
def ring (f : LQ → LQ) : State := { paged with queues := [(69, f queue1)] }
theorem witness_LaunchUnit : Spec.ahead ((ring id).lq 69).head ((ring id).lq 69).ents ((ring id).lq 69).tail ≤ Spec.ahead ((ring id).lq 69).head ((ring id).lq 69).ents 15 ∧
    Spec.ahead ((ring id).lq 69).head ((ring id).lq 69).ents 0 < Spec.ahead ((ring id).lq 69).head ((ring id).lq 69).ents ((ring id).lq 69).tail ∧
    ((ring (fun l => { l with cfg := 0, tail := 0 })).lq 69).cfg.getLsbD 11 = false ∧ ((ring (fun l => { l with tail := 0 })).lq 69).head = 0 ∧
    ((ring id).lq 69).cfg.getLsbD 11 = true ∧ ((ring id).lq 69).err = false ∧ ((ring id).lq 69).head ≠ ((ring id).lq 69).tail := by decide +kernel
/-- Whether a read fails, gives a first byte at an offset, or a descriptor is read whole with glast 0. -/
def failsRead (r : Except (SysErr × Nat) (List Byte) × State) : Bool := match r.1 with
  | .error _ => true
  | .ok _ => false
def readsByte (r : Except (SysErr × Nat) (List Byte) × State) (o : Nat) : Option Byte := match r.1 with
  | .error _ => none
  | .ok b => some (b.getD o 0)
def readsWhole (r : Except Nat (Bool × List Bind × List Nat × List Byte) × Option Desc × State) : Bool := match r with
  | (.ok _, some d, _) => d.glast = 0
  | _ => false
/-- A queue whose ring lies at an unmapped page, one with an empty descriptor, and one with a good descriptor. -/
theorem witness_LaunchUnit_reads : failsRead ((ring (fun l => { l with base := 0x200000 })).sysRead 0 1 0x200000 128) = true ∧
    readsByte ((ring (fun l => { l with head := 1, tail := 2 })).sysRead 0 1 (0x100000 + 128) 128) 24 = some 0 ∧
    readsWhole ((ring id).readDesc queue1 0) = true ∧ (∀ m ∈ (ring id).launches, m.status ≠ .rejected) := by decide +kernel
def read1 : State := after (exec (.descriptorRead 1 5) (ring id))
/-- R116, R117, R124: the launch of the descriptor; R119: a descriptor of a 0-wide grid. -/
theorem test_launch_unit : read1.launches.map (fun l => (l.key, l.status, l.desc.footprint, l.binds.length)) = [(⟨1, 5, 0⟩, .pending, 0x8000, 1)] ∧
    (read1.lq 69).head = 1 ∧ ((after (exec (.descriptorRead 1 5) (ring (fun l => { l with head := 1, tail := 2 })))).lq 69).cause = 0x01 ∧
    ((after (exec (.descriptorRead 1 5) (ring (fun l => { l with base := 0x200000 })))).lq 69).cause = 0x04 ∧
    ((after (exec (.launchSubmit 1 5 15) (ring id))).lq 69).tail = 15 ∧ ((after (exec (.launchSubmit 1 5 0) (ring id))).lq 69).tail = 1 ∧
    ((after (exec (.lqEntsWrite 1 5 65536) (ring (fun l => { l with cfg := 0, tail := 0 })))).lq 69).ents = 65536 := by decide +kernel

/-- A launch that waits, one that is placed with its one cell retired, and its successor with one dependence. -/
def done1 : Launch := { pending 1 5 0 with stage := .placed, place := [0], retired := [0], succs := [1] }
def next1 : Launch := { pending 1 5 1 with desc := { desc0 with gidx := 1 }, graph := 0, dep := 1 }
def launched : State := { State.reset with launches := [done1, next1], queues := [(69, queue1)] }
theorem witness_LaunchUnit_complete : launched.launchAt 69 0 = some done1 ∧ launched.launchOf done1.key = some done1 ∧ done1.stage = .placed ∧
    done1.retired.length = (done1.place ++ done1.place2).length ∧ done1.status = .pending ∧ done1.desc.notify = 0 ∧ (∀ p ∈ launched.net, p.launch ≠ some done1.key) ∧
    (∀ p ∈ launched.cells, ∀ w ∈ p.2.ctx.rapWait, w.pkt.launch ≠ some done1.key) ∧ next1 ∈ launched.launches ∧ next1.lq = done1.lq ∧ next1.graph = done1.graph ∧
    next1.desc.gidx = 1 ∧ next1.key ≠ done1.key ∧ done1.desc.gidx ≠ 1 ∧ (∀ m' ∈ launched.launches, m'.key = next1.key → m' = next1) ∧
    (∀ m' ∈ launched.launches, m'.desc.gidx = 1 → m' = next1) ∧ ({ done1 with retired := [] }).retired.length ≠ ({ done1 with retired := [] }.place).length := by
  decide +kernel
theorem witness_LaunchUnit_waits : launched.launchAt 69 1 = some next1 ∧ launched.launchOf next1.key = some next1 ∧ next1.dep ≠ 0 := by decide +kernel
/-- A packet of the launch on its way; a launch of one cell that is released, and is placed after the boot only. -/
theorem witness_LaunchUnit_packet : ∃ p ∈ { launched with net := [packet (.msg 3 1 [])] }.net, p.launch = some ⟨1, 0, 0⟩ :=
  ⟨_, List.mem_singleton.mpr rfl, rfl⟩
def placeable : Launch := { pending 1 5 0 with dies := [0] }
def placed2 : State := { booted with launches := [placeable], queues := [(69, queue1)] }
theorem witness_LaunchUnit_place : Spec.Booted placed2 ∧ placed2.launchAt 69 0 = some placeable ∧ placed2.released placeable = true ∧ placed2.waitsTurn placeable = false ∧
    placed2.placement placeable = some ([0], []) ∧ [0].Nodup ∧ placeable.proof = false ∧ [0].length = (placeable.desc.startedCells (placeable.desc.division placeable.fb)).length ∧
    ¬ Spec.Booted State.reset := by
  refine ⟨⟨rfl, rfl⟩, by decide +kernel, by decide +kernel, by decide +kernel, by decide +kernel, by decide, rfl, by decide +kernel, fun h => ?_⟩
  cases h.1
theorem test_complete : (after (exec (.launchComplete 1 5 0) launched)).launches.map (fun l => (l.stage, l.status, l.dep)) = [(.ended, .done, 0), (.waiting, .pending, 0)] ∧
    (after (exec (.launchPlacement 1 5 1) launched)).launches.map (·.stage) = [.placed, .waiting] := by decide +kernel

/-- District 3 as it wakes since cycle 0; gated after its idle cycles. -/
def waking : State := State.reset.updDist 3 (fun d => { d with gated := true, waking := some 0 })
theorem witness_LaunchUnit_power : (waking.dist 3).waking = some 0 ∧ 0 + 2100 ≤ 2100 ∧ 2099 < 0 + 2100 ∧ (State.reset.dist 3).gated = false ∧
    (State.reset.dist 3).waking = none ∧ State.reset.ppGate = true ∧ (State.reset.dist 3).freeSince + State.reset.ppIdle.toNat ≤ 1048576 ∧
    1048575 < (State.reset.dist 3).freeSince + State.reset.ppIdle.toNat := by decide +kernel
theorem all_free : (∀ c ∈ cellsOfDist 3, State.reset.isFree c = true) ∧ (0 ∈ cellsOfDist 0 ∧ running.isFree 0 = false) := by decide +kernel
theorem test_power : ((after (exec (.districtWakeComplete 3) { waking with now := 2100 })).dist 3).gated = false ∧
    ((after (exec (.districtWakeComplete 3) { waking with now := 2099 })).dist 3).gated = true ∧
    ((after (exec (.districtGate 3) { State.reset with now := 1048576 })).dist 3).gated = true ∧
    ((after (exec (.districtGate 0) { running with now := 1048576 })).dist 0).gated = false := by decide +kernel

/-! ## The device -/

def stretched : State := State.reset.updDist 3 (fun d => { d with stretched := true })
theorem witness_DeviceEvents : State.reset.faultPin = false ∧ State.reset.bsStage.toNat < 3 ∧ 100 ≤ (List.replicate 100 (0 : Byte)).length ∧
    (State.reset.dist 3).stretched = false ∧ State.reset.capStretch = false ∧ (stretched.dist 3).stretched = true ∧ { State.reset with capStretch := true }.capStretch = true ∧
    { State.reset with svc := [⟨4, 3, 0, 0, 0, 0, false⟩] }.svc = [⟨4, 3, 0, 0, 0, 0, false⟩] ∧ (∀ r ∈ State.reset.svc, r.sq ≠ 4) := by decide +kernel
theorem test_device : (after (exec (.fmCtlWrite 0xff) State.reset)).fmCtl = 0x7f ∧
    ((after (exec (.droopRecovery 3) { stretched with now := 40 })).dist 3).drCnt = 40 ∧
    (after (exec (.serviceDone 4) { State.reset with svc := [⟨4, 3, 0, 0, 0, 0, false⟩] })).svc.map (·.done) = [true] ∧
    (after (exec .powerCapStretch State.reset)).pcOver = true := by decide +kernel
/-- R409: a range is bound by whole lines. -/
theorem test_host_port : (after (exec (.hostPortAttach (some [(64, 128, 7)])) State.reset)).host = some [(64, 128, 7)] ∧
    (after (exec (.hostPortAttach (some [(32, 160, 7)])) State.reset)).host = some [(64, 128, 39)] ∧ (64 % 64 = 0 ∧ 128 % 64 = 0) := by decide +kernel
theorem test_cold_reset : after (exec .coldReset running) = State.reset := by decide +kernel

theorem witness_RegisterWrites : Spec.windowCell frozen 0 = 0 ∧ frozen.isFrozen 0 = true ∧ running.isFrozen 0 = false ∧ (64 * 5 : Word).toNat % 8 = 0 := by
  decide +kernel
/-- R127, R6, R136: fields at their places; a one clears; x0 takes nothing; a cell that runs is not written. -/
theorem test_registers : (after (exec (.registerWrite .ppCtl (2 ^ 40 + 2 ^ 8 * 3 + 9)) State.reset)).ppIdle = 3 ∧
    (after (exec (.registerWrite .ppCtl 9) State.reset)).ppGate = false ∧
    (after (exec (.registerWrite (.dw 0 0) 9) frozen)).readX 0 0 = 0 ∧ (after (exec (.registerWrite (.dw 0 0x18) 9) frozen)).readX 0 3 = 9 ∧
    (after (exec (.registerWrite (.dw 0 0x18) 9) running)).readX 0 3 = 0 ∧ frozen.readReg (.dw 0 0x100) = 0x100 ∧ running.readReg (.dw 0 0x100) = 0 ∧
    (after (exec (.registerWrite .impCtl 1) { State.reset with impValid := true })).impValid = false := by decide +kernel

/-! ## Agent programs -/

/-- Program 0 of ASID 1 at pc 0x20 with n1 = 5, n2 = −1, n3 = 0x100000, context 7 in c1, strings and scores; context 7 holds three tokens on
two pages of binding 2, whose vocabulary of 300 has the tables of R389's example. -/
def number (b : Bool) (k : Int) : XA := ⟨BitVec.ofInt 576 (k * 2 ^ 266), b, false, false, false⟩
def prog7 : Prog := { Prog.empty with
  pc := 0x20, asid := 1, mask := 0, status := 0x14
  n := ((Prog.empty.n.set 1 5).set 2 0xffffffffffffffff).set 3 0x100000
  c := Prog.empty.c.set 1 (some 7)
  s := ((Prog.empty.s.set 1 ⟨false, [97, 97, 97, 98]⟩).set 2 ⟨true, [257, 98]⟩).set 3 ⟨true, [1, 2]⟩
  q := ((Prog.empty.q.set 1 ⟨number false 3, false⟩).set 2 ⟨number false (-2), false⟩).set 3 ⟨number true 0, false⟩ }
def tables7 : CompTables :=
  { split := List.replicate 256 0, byteTok := (List.range 256).map (BitVec.ofNat 32)
    merges := [(97, 97, 256), (256, 97, 257), (97, 98, 258)]
    tokBytes := (List.range 256).map (fun k => BitVec.ofNat 64 (2 ^ 32 + k)) ++ [0x200000100, 0x300000100, 0x200000061] ++ List.replicate 41 0
    pool := (List.range 256).map (BitVec.ofNat 8) ++ [97, 97, 97] }
def binding2 (tb : Option CompTables) : Binding := ⟨⟨300, 2, false, none, []⟩, tb, false⟩
def ctx7 : Context := { Context.blank with owner := 0, tokens := [3, 4, 5], written := 2, binding := 2, pages := [65536, 131072] }
def agent (f : Imposer → Imposer) : State := { paged with
  actProg := 0
  imp := f { Imposer.reset with
    progs := [(0, prog7)], ctxs := [(7, ctx7)], nextCtx := 8, shares := [(65536, 1), (131072, 2)], bindings := [(2, binding2 (some tables7))] } }
def ag : State := agent id
def withProg (f : Prog → Prog) : State := ag.updProg 0 f
def withCtx (f : Context → Context) : State := ag.updCx 7 f
/-- What the moving program holds after an instruction. -/
def nOf (i : Instr) (r : Nat) : Word := ((after (exec i ag)).prog 0).n.toList.getD r 0
def causeOf (s : State) : Byte := ((s.imp.events.getLastD []).drop 3).headD 0

/-- R353: −1 + 5 wraps to 4, signed and unsigned comparison, an immediate by its sign, and the high half kept from the low. -/
theorem test_agent_integers : nOf (.nadd 4 1 2) 4 = 4 ∧ nOf (.nsub 4 1 2) 4 = 6 ∧ nOf (.nmul 4 1 2) 4 = 0xfffffffffffffffb ∧
    nOf (.nslt false 4 2 1) 4 = 1 ∧ nOf (.nslt true 4 2 1) 4 = 0 ∧ nOf (.naddi 1 1 0xffffffff) 1 = 4 ∧
    nOf (.nmovi false 4 0x80000000) 4 = 0xffffffff80000000 ∧ nOf (.nmovi true 1 7) 1 = 0x700000005 := by decide +kernel

/-- RET at a multiple of 8 and at none; a ring in which another program stands, and one in which program 0 does with program 3 behind it. -/
def ringed (pos : Nat) : State := agent (fun i => { i with progs := [(0, { prog7 with deficit := 9 }), (3, { Prog.empty with turnNew := false })], ring := i.ring.set 0 pos })
theorem witness_AgentOperations : (Spec.rn ag 3).toNat % 8 = 0 ∧ (Spec.rn ag 1).toNat % 8 ≠ 0 ∧ (ringed 3).imp.ringAt (Spec.me (ringed 3)).cls ≠ some (ringed 3).actProg ∧
    (ringed 0).imp.ringAt (Spec.me (ringed 0)).cls = some (ringed 0).actProg ∧ Spec.Rising (ringed 0).imp.progs ∧ (Spec.me (ringed 0)).cls < 4 ∧
    (ringed 0).imp.ringOf (Spec.me (ringed 0)).cls = [] ++ (ringed 0).actProg :: 3 :: [] ∧
    (ag.imp.ringOf (Spec.me ag).cls).getLast? = some ag.actProg := by
  refine ⟨by decide +kernel, by decide +kernel, by decide +kernel, by decide +kernel, ?_, by decide +kernel, by decide +kernel, by decide +kernel⟩
  unfold Spec.Rising
  decide +kernel
/-- R346: the offset of BR is 1: 8 bytes forward; taken and not taken. R376: CALL links pc + 8. -/
theorem test_agent_control : ((after (exec (.br .lt 2 1 0xffffffff) ag)).prog 0).pc = 0x18 ∧ ((after (exec (.br .ltn 2 1 0xffffffff) ag)).prog 0).pc = 0x28 ∧
    ((after (exec (.jmp 2) ag)).prog 0).pc = 0x30 ∧ nOf (.call 4 2) 4 = 0x28 ∧ ((after (exec (.ret 3) ag)).prog 0).pc = 0x100000 ∧
    causeOf (after (exec (.ret 1) ag)) = 0x03 ∧ ((after (exec (.ret 1) ag)).prog 0).status = 0x23 := by decide +kernel
theorem test_agent_status : nOf (.stat false 4) 4 = 0x14 ∧ ((after (exec (.stat true 4) ag)).prog 0).status = 0 ∧ causeOf (after (exec (.trapa 5) ag)) = 0x09 ∧
    ((after (exec (.trapa 5) ag)).prog 0).status = 0x21 ∧ causeOf (after (exec .agentFetchFault ag)) = 0x06 ∧
    ((after (exec (.unassignedOpcode true) ag)).prog 0).status = 0x20 ∧ causeOf (after (exec (.unassignedOpcode true) ag)) = 0x02 ∧
    (((after (exec .yield (ringed 0))).prog 3).turnNew = true ∧ ((after (exec .yield (ringed 0))).prog 0).deficit = 0) ∧
    ((after (exec .yield (ringed 3))).imp.ring.toList.headD 9) = 3 := by decide +kernel

/-! ## Contexts -/

theorem witness_ContextInstructions_new : Spec.holds ag 2 = none ∧ ag.binding 2 = some (binding2 (some tables7)) ∧ Spec.CtxRoom ag ∧ ag.binding 9 = none ∧
    ((2 : CReg) ≠ 1 ∧ Spec.holds ag 1 = some 7 ∧ 7 ≠ ag.imp.nextCtx ∧ (ag.cx 7).pages.Nodup ∧ ∀ pg ∈ (ag.cx 7).pages, Tab.get 0 ag.imp.shares pg < 65535) ∧ ag.svc = [] := by
  unfold Spec.CtxRoom; decide +kernel
/-- As many contexts as the spec allows, on a state where no evaluation looks at them. -/
theorem witness_ContextInstructions_full : ¬ Spec.CtxRoom (agent (fun i => { i with ctxs := List.replicate 1050624 (7, ctx7) })) ∧
    Spec.holds (agent (fun i => { i with ctxs := List.replicate 1050624 (7, ctx7) })) 2 = none := by
  refine ⟨fun h => Nat.lt_irrefl 1050624 ?_, rfl⟩
  exact lt_of_eq_of_lt List.length_replicate.symm h.1
theorem test_contexts : ((after (exec (.cnew 2 1 2) ag)).cx 8).seqn = 5 ∧ ((after (exec (.cnew 2 1 2) ag)).prog 0).c.toList.getD 2 none = some 8 ∧
    ((after (exec (.cnew 2 1 2) ag)).prog 0).status = 0 ∧ ((after (exec (.cnew 2 1 9) ag)).prog 0).status = 0x15 ∧
    ((after (exec (.cfork 2 1 1) ag)).cx 8).tokens = [3, 4, 5] ∧ Tab.get 0 (after (exec (.cfork 2 1 1) ag)).imp.shares 131072 = 3 ∧
    causeOf (after (exec (.cfork 1 1 1) ag)) = 0x03 ∧ causeOf (after (exec (.cfork 1 3 1) ag)) = 0x04 := by decide +kernel

/-- n4 = 0 and 2 (to trim), n5 = 0x40 (a block), n6 = 2^52. -/
def trims : State := withProg (fun g => { g with n := (((g.n.set 4 0).set 5 0x40).set 6 (2 ^ 52)).set 7 2 })
def auto1 : Automaton := ⟨2, 2, 300, List.replicate 300 0, [0x00005001, 0x00000001, 0x00006000, 0x00003000]⟩
def friskets : State := agent (fun i => { i with autos := [(0xfffe, auto1)] })
theorem witness_ContextInstructions_fields : Spec.holds trims 1 = some 7 ∧ (trims.cx 7).tokens.length ≤ (Spec.rn trims 1).toNat ∧
    Tab.find trims.imp.bindings (trims.cx 7).binding = some (binding2 (some tables7)) ∧ 1 ≤ (binding2 (some tables7)).reg.tpp ∧ (trims.cx 7).pages.Nodup ∧
    (Spec.rn trims 4).toNat < (trims.cx 7).tokens.length ∧ (trims.cx 7).forkBest = none ∧ (trims.cx 7).forkCur = none ∧
    (2 : BitVec 16).toNat = (trims.cx 7).binding ∧ trims.binding 3 = none ∧ ((Spec.rn trims 5).toNat % 64 = 0 ∧ (Spec.rn trims 5).toNat < 2 ^ 52) ∧
    ((Spec.rn trims 6).toNat % 64 ≠ 0 ∨ 2 ^ 52 ≤ (Spec.rn trims 6).toNat) ∧ ((Spec.rn trims 1).toNat % 64 ≠ 0 ∨ 2 ^ 52 ≤ (Spec.rn trims 1).toNat) := by
  decide +kernel
theorem witness_ContextInstructions_bind : (agent (fun i => { i with bindings := [(3, binding2 none)] })).binding 3 = some (binding2 none) ∧
    (∀ t ∈ ((agent (fun i => { i with bindings := [(3, binding2 none)] })).cx 7).tokens, t < (binding2 none).reg.vocab) ∧ (3 : BitVec 16).toNat ≠ (ag.cx 7).binding ∧
    (∃ t ∈ (ag.cx 7).tokens, (⟨⟨5, 2, false, none, []⟩, none, false⟩ : Binding).reg.vocab ≤ t) := by decide +kernel
theorem witness_ContextInstructions_frisket : (0xfffe : BitVec 16) ≠ 0xffff ∧ Tab.find friskets.imp.autos (0xfffe : BitVec 16).toNat = some auto1 ∧
    (1 : BitVec 12).toNat < auto1.states ∧ auto1.states ≤ (2 : BitVec 12).toNat ∧
    ((0 : BitVec 12) = 0 ∧ (0 : BitVec 4) = 0 ∧ Spec.rn friskets 0 = 0) ∧ ¬ ((0 : BitVec 12) = 0 ∧ (0 : BitVec 4) = 0 ∧ Spec.rn friskets 1 = 0) := by decide +kernel
/-- R358, R320, R359, R364: two pages' tokens stay of three, their last page goes; the count of a page on another chain falls; 8 symbols are taken. -/
theorem test_trim : ((after (exec (.ctrim 1 7) trims)).cx 7).tokens = [3, 4] ∧ ((after (exec (.ctrim 1 7) trims)).cx 7).pages = [65536] ∧
    Tab.get 0 (after (exec (.ctrim 1 7) trims)).imp.shares 131072 = 1 ∧ (after (exec (.ctrim 1 4) trims)).imp.free = [65536] ∧
    (after (exec (.cfree 1) trims)).imp.ctxs.length = 0 ∧ nOf (.clen 4 1) 4 = 3 ∧ nOf (.cget 4 1 1) 4 = 2 ∧ nOf (.cget 4 1 15) 4 = 2 ∧ nOf (.cget 4 1 14) 4 = 0xffff := by
  decide +kernel
theorem test_context_fields : ((after (exec (.setgen 1 5) trims)).cx 7).gen = 0x40 ∧ causeOf (after (exec (.setgen 1 6) trims)) = 0x03 ∧
    ((after (exec (.setfr 1 2 0xfffe 1 3) friskets)).cx 7).fStack = 0xffffff ∧ causeOf (after (exec (.setfr 1 2 0xfffe 2 3) friskets)) = 0x03 ∧
    causeOf (after (exec (.setfr 1 1 0xffff 0 0) friskets)) = 0x03 ∧ ((after (exec (.cbind 1 2) ag)).prog 0).status = 0 ∧
    ((after (exec (.cbind 1 3) ag)).prog 0).status = 0x15 ∧
    ((after (exec (.cbind 1 3) (agent (fun i => { i with bindings := [(3, binding2 none)] })))).cx 7).reappend = true := by decide +kernel

theorem witness_ContextInstructions_stops : Spec.holds ag 2 = none ∧ Spec.NeedsContext (.clen 0 2) 2 ∧
    (Spec.holds (withCtx (fun x => { x with tokens := [] })) 1 = some 7 ∧ ((withCtx (fun x => { x with tokens := [] })).cx 7).tokens = []) :=
  ⟨rfl, .clen 0 2, rfl, rfl⟩
theorem test_context_stops : causeOf (after (exec (.clen 0 2) ag)) = 0x04 ∧ causeOf (after (exec (.genu true 1 4) (withCtx (fun x => { x with tokens := [] })))) = 0x03 ∧
    exec (.cfree 2) ag = .next (Spec.retired ag) := ⟨by decide +kernel, by decide +kernel, rfl⟩

/-! ## Strings -/

/-- At 0x100300 a string object of four bytes, and one whose length is no multiple of 4 at 0x100310. -/
def strings : State := { ag with mem := ag.mem ++ [(0x4000300, 4), (0x4000304, 97), (0x4000305, 1), (0x4000310, 3)] }
def at7 (a : Word) (s : State) : State := s.updProg 0 (fun g => { g with n := g.n.set 9 a })
/-- Whether a system read or write comes through. -/
def reads (r : Except (SysErr × Nat) (List Byte) × State) : Option (List Byte) := match r.1 with
  | .error _ => none
  | .ok b => some b
theorem witness_AgentStrings : (Spec.rn (at7 0x100300 strings) 9).toNat % 8 = 0 ∧ (Spec.rn (at7 0x100304 strings) 9).toNat % 8 ≠ 0 ∧
    reads (strings.sysRead 0 1 0x100300 4) = some [4, 0, 0, 0] ∧ reads ((strings.sysRead 0 1 0x100300 4).2.sysRead 0 1 0x100304 4) = some [97, 1, 0, 0] ∧
    leNat [3, 0, 0, 0] % 4 ≠ 0 ∧ reads (strings.sysRead 0 1 0x100310 4) = some [3, 0, 0, 0] ∧ leNat [4, 0, 0, 0] % 4 = 0 ∧
    reads ((strings.sysRead 0 1 0x100310 4).2.sysRead 0 1 0x100314 3) = some [0, 0, 0] := by decide +kernel
theorem witness_AgentStrings_write : ((at7 0x100300 ag).sysWrite 0 1 0x100300 (Spec.object ⟨false, [97, 97, 97, 98]⟩)).1 = none ∧ ag.waiters = [] ∧
    ((at7 0x200000 ag).sysWrite 0 1 0x200000 (Spec.object ⟨false, [97, 97, 97, 98]⟩)).1.map (fun e => decide (e.1 = .poison)) = some false := by decide +kernel
theorem witness_AgentStrings_join : (Spec.rs ag 2).toks = (Spec.rs ag 3).toks ∧ (Spec.rs ag 2).data.length + (Spec.rs ag 3).data.length ≤ 1048576 ∧
    (Spec.rs ag 1).toks ≠ (Spec.rs ag 2).toks := by decide +kernel
theorem witness_AgentStrings_tables : Spec.holds ag 1 = some 7 ∧ ag.tablesOf 7 = some tables7 ∧ ag.imp.modes.getLsbD 3 = false ∧ (∀ v ∈ ag.svc, v.func ≠ 3) ∧
    (Spec.rs ag 1).toks = false ∧ (tables7.tokz (Spec.rs ag 1).data).length ≤ 1048576 ∧ (Spec.rs ag 2).toks = true ∧
    (∀ t ∈ (Spec.rs ag 2).data, t < ag.vocab (ag.cx 7).binding) ∧ (tables7.detok (Spec.rs ag 2).data).length ≤ 1048576 ∧
    (agent (fun i => { i with bindings := [(2, binding2 none)] })).tablesOf 7 = none := by decide +kernel
theorem witness_AgentStrings_range : (Spec.rs (withProg (fun g => { g with s := g.s.set 2 ⟨true, [300]⟩ })) 2).toks = true ∧
    (∃ t ∈ (Spec.rs (withProg (fun g => { g with s := g.s.set 2 ⟨true, [300]⟩ })) 2).data, (withProg (fun g => { g with s := g.s.set 2 ⟨true, [300]⟩ })).vocab 2 ≤ t) := by
  decide +kernel
def sOf (i : Instr) (s : State) (r : Nat) : Str := ((after (exec i s)).prog 0).s.toList.getD r Str.empty
/-- R37, R360: loads by kind; a store writes length, data and zeros. -/
theorem test_string_memory : sOf (.sld false 5 9) (at7 0x100300 strings) 5 = ⟨false, [97, 1, 0, 0]⟩ ∧ sOf (.sld true 5 9) (at7 0x100300 strings) 5 = ⟨true, [353]⟩ ∧
    causeOf (after (exec (.sld true 5 9) (at7 0x100310 strings))) = 0x05 ∧ (after (exec (.sst 1 9) (at7 0x100300 ag))).readNat 0x4000300 9 = 0x62616161 * 2 ^ 32 + 4 ∧
    causeOf (after (exec (.sst 1 9) (at7 0x200000 ag))) = 0x07 ∧ causeOf (after (exec (.sst 1 9) (at7 0x100304 ag))) = 0x03 := by decide +kernel
/-- R361, R362, R389: joining, cutting past the end, lengths, and the spec's own example of merging. -/
theorem test_strings : sOf (.scat 5 2 3) ag 5 = ⟨true, [257, 98, 1, 2]⟩ ∧ causeOf (after (exec (.scat 5 1 2) ag)) = 0x05 ∧
    sOf (.ssub 5 1 0 9) ag 5 = ⟨false, [97, 97, 97, 98]⟩ ∧ sOf (.ssub 5 1 1 1) ag 5 = ⟨false, []⟩ ∧ nOf (.slen 4 1) 4 = 4 ∧
    sOf (.tokz 5 1 1) ag 5 = ⟨true, [257, 98]⟩ ∧ sOf (.detok 5 2 1) ag 5 = ⟨false, [97, 97, 97, 98]⟩ ∧ causeOf (after (exec (.tokz 5 2 1) ag)) = 0x05 ∧
    ((after (exec (.tokz 5 1 1) (agent (fun i => { i with bindings := [(2, binding2 none)] })))).prog 0).status = 0x15 := by decide +kernel

/-! ## Scores, waits, the end -/

/-- q1 = 3, q2 = −2, q3 no number, q4 +∞, q5 −∞. -/
def scored : State := withProg (fun g => { g with q := (g.q.set 4 ⟨{ XA.zero with pinf := true }, false⟩).set 5 ⟨{ XA.zero with ninf := true }, false⟩ })
theorem witness_ScoresAndWaits : Spec.NoNumber (Spec.rq scored 3) ∧ ¬ Spec.NoNumber (Spec.rq scored 1) ∧ ¬ Spec.NoNumber (Spec.rq scored 2) ∧
    Spec.below (Spec.rq scored 2) (Spec.rq scored 1) ∧ ¬ Spec.below (Spec.rq scored 1) (Spec.rq scored 2) ∧ ¬ Spec.below (Spec.rq scored 1) (Spec.rq scored 1) ∧
    (Spec.rq scored 4).xa.value = .inf false ∧ (Spec.rq scored 5).xa.value = .inf true ∧ (Spec.rq scored 1).xa.x.toInt = 3 * 2 ^ 266 ∧
    (Spec.rq scored 2).xa.x.toInt = -2 * 2 ^ 266 := by
  unfold Spec.NoNumber Spec.below
  decide +kernel
def sn (i : Instr) : Word := ((after (exec i scored)).prog 0).n.toList.getD 4 0
theorem test_scores : sn (.qcmp 4 1 2) = 1 ∧ sn (.qcmp 4 2 1) = 0xffffffffffffffff ∧ sn (.qcmp 4 1 1) = 0 ∧ sn (.qcmp 4 1 3) = 2 ∧
    sn (.qcmp 4 5 1) = 0xffffffffffffffff ∧ sn (.qrnd .f32 .rne 4 1) = 0x40400000 ∧ sn (.qrnd .bf16 .rne 4 2) = 0xc000 ∧
    sn (.qrnd .s32 .rne 4 2) = 0xfffffffffffffffe ∧ sn (.qrnd .f32 .rne 4 5) = 0xff800000 := by decide +kernel

def waitingProg : State := (at7 0x100300 strings).updProg 0 (fun g => { g with run := .waiting 4 0x100300 1 .eq })
theorem witness_ScoresAndWaits_waits : (Spec.rn (at7 0x100304 strings) 9).toNat % 8 ≠ 0 ∧ (Spec.rn (at7 0x100300 strings) 9).toNat % 8 = 0 ∧
    reads ((at7 0x100300 strings).sysRead 0 1 0x100300 8) = some [4, 0, 0, 0, 97, 1, 0, 0] ∧ (BrCond.eq, fun (a b : Word) => decide (a = b)) ∈ Spec.brConds ∧
    (waitingProg.prog 0).run = .waiting 4 0x100300 1 .eq ∧ reads (waitingProg.sysRead 0 1 0x100300 8) = some [4, 0, 0, 0, 97, 1, 0, 0] ∧
    (ag.prog 0).run = .ready := by
  refine ⟨by decide +kernel, by decide +kernel, by decide +kernel, List.mem_cons_self .., by decide +kernel, by decide +kernel, by decide +kernel⟩
/-- R373: the value comes to n4 either way; the wait ends where it is not equal to n1 and goes on where it has to be. -/
theorem test_wait : ((after (exec (.waitc .ne 4 9 1) (at7 0x100300 strings))).prog 0).n.toList.getD 4 0 = 0x16100000004 ∧
    ((after (exec (.waitc .ne 4 9 1) (at7 0x100300 strings))).prog 0).pc = 0x28 ∧
    ((after (exec (.waitc .eq 4 9 1) (at7 0x100300 strings))).prog 0).run = .waiting 4 0x100300 5 .eq ∧
    ((after (exec (.programDoorbell 0) (waitingProg.updProg 0 (fun g => { g with run := .waiting 4 0x100300 0x16100000004 .eq })))).prog 0).run = .ready ∧
    ((after (exec (.waitcReread 0) waitingProg)).prog 0).run = .waiting 4 0x100300 1 .eq := by decide +kernel
/-- R376: the end frees context 7 and writes its record. -/
theorem test_enda : (after (exec (.enda 6) ag)).imp.ctxs.length = 0 ∧ ((after (exec (.enda 6) ag)).prog 0).run = .ended ∧
    (after (exec (.enda 6) ag)).imp.events = [[0, 0, 0, 0x0c, 6, 0, 0, 0, 0x20] ++ List.replicate 23 0] := by decide +kernel

/-! ## Long instructions -/

/-- ASID 0 mapped as ASID 1 is, with a block of parameters at 0x100400 (temperature 1, topp 65536, one token, end token 2), a sampling
queue's descriptor at 0x100500 and its one item at 0x100600, for row 0 of step 1 (R323, R275, R276). -/
def paged0 : List Host.Cell :=
  [(0x80000, 1), (0x80002, 0x10)] ++ ag.mem ++ [(0x400040a, 0x80), (0x400040b, 0x3f), (0x4000412, 1), (0x4000414, 1), (0x4000418, 2), (0x400041c, 1),
    (0x4000508, 1), (0x4000511, 6), (0x4000512, 0x10), (0x400051c, 1), (0x4000618, 1)]
def longs (f : Imposer → Imposer) (g : Context → Context) : State := ({ agent f with mem := paged0 }).updCx 7 (fun x => g { x with slot := some 3 })
def generated : State := longs id (fun x => { x with gen := 0x100400 })
def blank (free : List Nat) : State := longs (fun i => { i with free := free }) (fun x => { x with tokens := [], written := 0, pages := [] })
def runOf (s : State) : PRun := (s.prog 0).run

theorem first_of (s : State) (h : Spec.holds s 1 = some 7 ∧ s.binding (s.cx 7).binding = some (binding2 (some tables7)) ∧ Tab.find s.imp.ctxs 7 ≠ none ∧
    ((s.cx 7).accepted = none ∧ (s.cx 7).reappend = false ∧ (s.cx 7).progOp = 0 ∧ (s.cx 7).forkBest = none ∧ (s.cx 7).forkCur = none) ∧
    (s.svc = [] ∧ s.imp.modes = 0)) : Spec.FirstIssue s 1 7 (binding2 (some tables7)) :=
  ⟨h.1, h.2.1, h.2.2.1, by show 1 ≤ 2; decide, h.2.2.2.1, h.2.2.2.2⟩
theorem witness_LongInstructions : Spec.FirstIssue (longs id id) 1 7 (binding2 (some tables7)) ∧ Spec.FirstIssue generated 1 7 (binding2 (some tables7)) ∧
    Spec.FirstIssue (blank [196608]) 1 7 (binding2 (some tables7)) :=
  ⟨first_of _ (by decide +kernel), first_of _ (by decide +kernel), first_of _ (by decide +kernel)⟩
/-- Tokens and text to feed, one token, nothing, and the strings of two candidates. -/
theorem feeds_ids (s : State) (r : SReg) (l : List Nat) (h : (Spec.rs s r).toks = true ∧ (Spec.rs s r).data = l ∧ l.all (· < 300) = true ∧ l.length ≤ 1048576 ∧
    (s.cx 7).tokens.length + l.length ≤ 16777215) : Spec.Feeds s 7 (binding2 (some tables7)) false r l :=
  ⟨h.1, h.2.1.symm, fun t ht => of_decide_eq_true (List.all_eq_true.mp h.2.2.1 t ht), h.2.2.2⟩
theorem feeds_text (s : State) (r : SReg) (l : List Nat) (h : (Spec.rs s r).toks = false ∧ s.tablesOf 7 = some tables7 ∧ tables7.tokz (Spec.rs s r).data = l ∧
    l.all (· < 300) = true ∧ l.length ≤ 1048576 ∧ (s.cx 7).tokens.length + l.length ≤ 16777215) : Spec.Feeds s 7 (binding2 (some tables7)) true r l :=
  ⟨h.1, ⟨tables7, h.2.1, h.2.2.1.symm⟩, fun t ht => of_decide_eq_true (List.all_eq_true.mp h.2.2.2.1 t ht), h.2.2.2.2⟩
theorem witness_LongInstructions_feeds : Spec.Feeds (longs id id) 7 (binding2 (some tables7)) false 2 [257, 98] ∧
    Spec.Feeds (longs id id) 7 (binding2 (some tables7)) true 1 [257, 98] ∧ Spec.Feeds (longs id id) 7 (binding2 (some tables7)) true 4 [] ∧
    (∀ j l, [[257, 98], [1, 2]][j]? = some l → l ≠ [] ∧ Spec.Feeds (longs id id) 7 (binding2 (some tables7)) false (2 + BitVec.ofNat 4 j) l) := by
  refine ⟨feeds_ids _ _ _ ?_, feeds_text _ _ _ ?_, feeds_text _ _ _ ?_, ?_⟩
  iterate 3 (decide +kernel)
  intro j l h
  match j, h with
  | 0, h => cases h; exact ⟨List.cons_ne_nil _ _, feeds_ids _ _ _ (by decide +kernel)⟩
  | 1, h => cases h; exact ⟨List.cons_ne_nil _ _, feeds_ids _ _ _ (by decide +kernel)⟩
theorem witness_LongInstructions_one : ((blank [196608]).updProg 0 (fun g => { g with s := g.s.set 2 ⟨true, [9]⟩ })).imp.free = 196608 :: [] ∧
    ((blank [196608]).cx 7).tokens = [] ∧ ((blank [196608]).cx 7).written = 0 ∧ ((blank [196608]).cx 7).pages = [] ∧ ((blank [196608]).cx 7).gen = 0 ∧
    Spec.Feeds ((blank [196608]).updProg 0 (fun g => { g with s := g.s.set 2 ⟨true, [9]⟩ })) 7 (binding2 (some tables7)) false 2 [9] :=
  have h : (blank [196608]).imp.free = 196608 :: [] ∧ ((blank [196608]).cx 7).tokens = [] ∧ ((blank [196608]).cx 7).written = 0 ∧
    ((blank [196608]).cx 7).pages = [] ∧ ((blank [196608]).cx 7).gen = 0 := by decide +kernel
  ⟨h.1, h.2.1, h.2.2.1, h.2.2.2.1, h.2.2.2.2, feeds_ids _ _ _ (by decide +kernel)⟩
theorem witness_LongInstructions_choose : 2 ≤ (2 : BitVec 8).toNat ∧ (2 : BitVec 8).toNat ≤ 16 ∧ (16 : BitVec 8).toNat ≤ 16 ∧ ((longs id id).cx 7).gen = 0 ∧
    ((longs id id).cx 7).tokens ≠ [] := by decide +kernel
def block1 : List Byte := (reads (generated.sysRead 0 1 0x100400 256)).getD []
theorem witness_LongInstructions_block : ((generated.cx 7).tokens ≠ [] ∧ (generated.cx 7).gen ≠ 0) ∧ (generated.cx 7).gen.toNat = 0x100400 ∧
    (Spec.me generated).asid = 1 ∧ (reads (generated.sysRead 0 1 0x100400 256)).isSome = true ∧ generated.tablesOf 7 ≠ none ∧ Spec.GoodBlock block1 ∧
    leNat (((block1.set 20 0).drop 20).take 4) = 0 := by
  unfold Spec.GoodBlock
  decide +kernel
theorem witness_LongInstructions_bare : (longs (fun i => { i with bindings := [(2, binding2 none)] }) id).tablesOf 7 = none ∧ (Spec.me generated).mask = 0 ∧
    ((longs id id).cx 7).gen = 0 ∧ (Spec.rs (longs id id) 1).toks = false ∧ (Spec.rs (longs id id) 2).toks = true ∧ (longs id id).tablesOf 7 ≠ none := by decide +kernel
/-- R365, R367, R370, R371, R368: the first issue begins and feeds; without a block GENU ends with PARAM; APPEND of one token needs no step. -/
theorem test_long_issue : runOf (after (exec (.append true 1 1) (longs id id))) = .long (.append true 1 1) ∧
    ((after (exec (.append true 1 1) (longs id id))).cx 7).feed = [[257, 98]] ∧ ((after (exec (.score false 6 1 2) (longs id id))).cx 7).progOp = 0x2a ∧
    ((after (exec (.choose false 4 1 2 2 0) (longs id id))).cx 7).progStop = 0xff00 ∧ ((after (exec (.choose false 4 1 2 2 0) (longs id id))).cx 7).feed = [[257, 98], [1, 2]] ∧
    ((after (exec (.genu true 1 4) (longs id id))).prog 0).status = 0x16 ∧ ((after (exec (.genu true 1 4) generated)).cx 7).status = 0x04 ∧
    ((after (exec (.append false 1 2) ((blank [196608]).updProg 0 (fun g => { g with s := g.s.set 2 ⟨true, [9]⟩ })))).cx 7).pages = [196608] := by decide +kernel
theorem test_long_issue_ends : ((after (exec (.append true 1 4) (longs id id))).prog 0).status = 0x01 ∧ causeOf (after (exec (.append true 1 2) (longs id id))) = 0x05 ∧
    ((after (exec (.genu false 1 4) (longs (fun i => { i with bindings := [(2, binding2 none)] }) (fun x => { x with gen := 0x100400 })))).prog 0).status = 0x15 := by decide +kernel

/-- Program 0 in APPEND of [l] on context 7, with a slot and one page. -/
def fed (l : List Nat) (g : Prog → Prog) : State := (longs id (fun x => { x with
    tokens := [], written := 0, pages := [65536], slot := some 3, progOp := 0x28, feed := [l], status := 0x04 })).updProg 0 (fun p =>
      g { p with run := .long (.append false 1 2) })
def cutoff : State := fed [9, 8] (fun g => { g with intr := true })
theorem witness_LongInstructions_again : cutoff.imp.step = none ∧ (cutoff.prog 0).run = .long (.append false 1 2) ∧ (cutoff.prog 0).longCtx = some 7 ∧
    (cutoff.cx 7).slot = some 3 ∧ (cutoff.prog 0).intr = true ∧ (cutoff.cx 7).progOp.toNat = 0x28 ∧ cutoff.binding (cutoff.cx 7).binding = some (binding2 (some tables7)) ∧
    (cutoff.cx 7).accepted = none ∧ (cutoff.cx 7).reappend = false ∧ (cutoff.cx 7).gen = 0 ∧ ((fed [9, 8] id).prog 0).intr = false ∧ (ag.prog 0).longCtx = none := by
  decide +kernel
theorem witness_LongInstructions_continues : Spec.Continues (.append false 1 2) 0x28 ∧ Spec.Continues (.choose false 4 1 2 2 0) 0x2b ∧
    ((cutoff.updCx 7 (fun x => { x with feed := [[1], [2]], progStop := 0xff01 })).cx 7).feed.getD (0xff01 % 256) [] ≠ [] :=
  ⟨.append false 1 2, .choose false 4 1 2 2 0, by decide +kernel⟩
def gone (m : BitVec 6) : State := (longs (fun i => { i with bindings := [] }) id).updProg 0 (fun g => { g with mask := m })
theorem witness_LongInstructions_gone : Spec.holds (gone 0x20) 1 = some 7 ∧ (gone 0x20).binding ((gone 0x20).cx 7).binding = none ∧ ((gone 0x20).cx 7).forkBest = none ∧
    ((gone 0x20).cx 7).forkCur = none ∧ (Spec.me (gone 0x20)).mask.getLsbD 5 = true ∧ (Spec.me (gone 0x1f)).mask.getLsbD 5 = false := by decide +kernel
/-- R334, R377: a re-issue clears the mark and keeps the progress; a trap stands behind the instruction. -/
theorem test_long_reissue : ((after (exec (.longInstructionReissue 0) cutoff)).prog 0).intr = false ∧ ((after (exec (.longInstructionReissue 0) cutoff)).cx 7).feed = [[9, 8]] ∧
    ((after (exec (.append false 1 2) (gone 0))).prog 0).status = 0x15 ∧ causeOf (after (exec (.append false 1 2) (gone 0x20))) = 0x0a ∧
    ((after (exec (.append false 1 2) (gone 0x20))).prog 0).pc = 0x28 ∧ (after (exec (.append false 1 2) (gone 0x20))).notices = [.trap 0] := by decide +kernel

theorem witness_AgentFrame : Spec.AgentQuiet (.nadd 4 1 2) (some 4) ∧ (∃ t, exec (.nadd 4 1 2) ag = .next t) ∧ (∃ t, exec (.sst 1 9) (at7 0x100300 ag) = .next t) ∧
    ((at7 0x100300 ag).sysPieces 0 (Spec.me ag).asid .store (piecesOf 0 (Spec.rn (at7 0x100300 ag) 9).toNat (Spec.object (Spec.rs ag 1)).length)).toOption =
      some [(⟨0, 0x100300, 8⟩, 0x4000300)] :=
  ⟨.nadd 4 1 2, next_of (by decide +kernel), next_of (by decide +kernel), by decide +kernel⟩

/-! ## System software -/

def load3 (ctxs : List (Nat × Nat)) : ProgLoad := ⟨1, 0x40, 3, 255, 0x3f, [0x420c000000000000], ctxs, ctxs.map (·.2)⟩
theorem witness_ImposerSoftware : (65535 < 65536 ∧ (load3 []).cls < 4 ∧ 1 ≤ (load3 []).weight ∧ (load3 []).weight ≤ 255) ∧ Tab.find ag.imp.progs 65535 = none ∧
    (load3 []).ctxs = [] ∧ (load3 [(15, 2)]).ctxs = [((15 : CReg).toNat, 2)] ∧ ag.binding 2 = some (binding2 (some tables7)) ∧ Spec.CtxRoom ag ∧
    (∀ m ∈ (load3 [(15, 2)]).models, ag.binding m ≠ none) ∧ (∃ d ∈ (load3 [(15, 9)]).ctxs, ag.binding d.2 = none) ∧
    (∃ m ∈ { load3 [] with models := [9] }.models, ag.binding m = none) := by
  unfold Spec.CtxRoom; decide +kernel
def stopped9 : State := withProg (fun g => { g with run := .stopped, status := 0x21 })
theorem witness_ImposerSoftware_resume : (stopped9.prog 0).run = .stopped ∧ (stopped9.prog 0).status ≠ 0x22 ∧ (ag.prog 0).run ≠ .stopped := by decide +kernel
theorem each_of {α : Type} {p : α → Prop} [DecidablePred p] {l : List α} (h : l.all (fun x => decide (p x)) = true) : ∀ x ∈ l, p x :=
  fun x hx => of_decide_eq_true (List.all_eq_true.mp h x hx)
theorem tables7_fit : Spec.TablesFit tables7 300 :=
  ⟨by decide +kernel, each_of (by decide +kernel), by decide +kernel, each_of (by decide +kernel), by decide, each_of (by decide +kernel), by decide +kernel, by decide, by decide +kernel, each_of (by decide +kernel)⟩
theorem witness_ImposerSoftware_tables : Spec.TablesFit tables7 (binding2 none).reg.vocab ∧ Tab.find ag.imp.bindings 2 = some (binding2 (some tables7)) ∧
    ¬ Spec.TablesFit tables7 (⟨⟨299, 2, false, none, []⟩, none, false⟩ : Binding).reg.vocab := by
  refine ⟨tables7_fit, by decide +kernel, fun h => absurd h.2.2.2.2.2.2.2.2.1 ?_⟩
  decide +kernel
/-- A step of no logit rows at a stage, with program 0's APPEND in its one row, and one with a logit row. -/
def row0 : StepRow := ⟨7, 0, 3, 1, 0, 0, 0, 0, 0, [9], [], 2⟩
def step0 : StepState := ⟨3, 2, false, false, 0x100000, 0x100080, 0x100200, 0, 0x100180, 64, 0, 0, 0x100800, [row0], [], [], none⟩
def stepping (f : StepState → StepState) : State := (fed [9, 8] id).updImp (fun i => { i with step := some (f step0), stepNo := 1 })
/-- An automaton of two states and two classes for three tokens, stored at 0x100700 with its lists, and one of no states. -/
def autoBytes : State := { ag with mem := paged0 ++ [(0x4000700, 2), (0x4000702, 2), (0x4000704, 3), (0x4000708, 0x40), (0x4000709, 7), (0x400070a, 0x10),
  (0x4000710, 0x44), (0x4000711, 7), (0x4000712, 0x10), (0x4000741, 1), (0x4000744, 1), (0x4000745, 0x50), (0x4000748, 1)] }
theorem witness_ImposerSoftware_automata :
    let h := (reads (autoBytes.sysRead 0 1 0x100700 64)).getD []
    let f := fun (o n : Nat) => leNat ((h.drop o).take n)
    let cls := (reads (autoBytes.sysRead 0 1 (f 8 8) (f 4 4))).getD []
    let tr := (reads (autoBytes.sysRead 0 1 (f 16 8) (4 * f 0 2 * f 2 2))).getD []
    h.length = 64 ∧ cls.length = 3 ∧ tr.length = 16 ∧ f 0 2 = 2 ∧ f 2 2 = 2 ∧ f 24 40 = 0 ∧ (∀ c ∈ cls, c.toNat < f 2 2) ∧
    (∀ k, k < f 0 2 * f 2 2 → leNat ((tr.drop (4 * k)).take 4) < 2 ^ 22 ∧ leNat ((tr.drop (4 * k)).take 4) % 4096 < f 0 2) ∧
    (reads (autoBytes.sysRead 0 1 0x100800 64)).map (fun x => leNat (x.take 2)) = some 0 := by decide +kernel
theorem witness_ImposerSoftware_withdrawal : (fed [9, 8] id).imp.step = none ∧ (fed [9, 8] id).imp.progs = [(0, (fed [9, 8] id).prog 0)] ∧
    ((fed [9, 8] id).prog 0).longCtx = some 7 ∧ ((fed [9, 8] id).cx 7).binding = 2 ∧ ((fed [9, 8] id).prog 0).mask.getLsbD 5 = false ∧
    ((fed [9, 8] id).cx 7).forkBest = none ∧ ((fed [9, 8] id).cx 7).forkCur = none ∧ (stepping id).imp.step ≠ none ∧ (0x30000 ∉ ag.imp.free ∧ Tab.get 0 ag.imp.shares 0x30000 = 0) := by
  decide +kernel
theorem test_load : ((after (exec (.programLoad 65535 (load3 [(15, 2)])) ag)).prog 65535).pc = 0x40 ∧
    ((after (exec (.programLoad 65535 (load3 [(15, 2)])) ag)).prog 65535).c.toList.getD 15 none = some 8 ∧
    ((after (exec (.programLoad 65535 (load3 [(15, 9)])) ag)).imp.progs.length = 1) ∧
    (after (exec (.programLoad 65535 { load3 [] with models := [9] }) ag)).notices = [.loadError 65535] ∧ ((after (exec (.programResume 0 true) stopped9)).prog 0).pc = 0x28 ∧
    ((after (exec (.programResume 0 false) stopped9)).prog 0).run = .ready ∧ (after (exec (.modelBindingRegister 9 (binding2 none).reg) ag)).binding 9 = some (binding2 none) ∧
    (after (exec (.galleyPoolGrant [0x30000, 65536]) ag)).imp.free = [0x30000] := by decide +kernel
theorem test_registering : (Tab.find (after (exec (.automatonRegister 0xfffe 1 0x100700) autoBytes)).imp.autos 0xfffe) = some ⟨2, 2, 3, [0, 1, 0], [0x5001, 1, 0, 0]⟩ ∧
    (after (exec (.automatonRegister 0xfffe 1 0x100800) autoBytes)).imp.autos = [] ∧ (after (exec (.samplerTemplateRegister [1, 2]) ag)).imp.sampler = some [1, 2] ∧
    ((after (exec (.compositorTablesRegister 2 { tables7 with byteTok := [] }) ag)).binding 2) = some (binding2 (some tables7)) ∧
    ((after (exec (.bindingWithdrawal 2) (fed [9, 8] id))).prog 0).status = 0x15 ∧ ((after (exec (.bindingWithdrawal 2) (fed [9, 8] id))).prog 0).pc = 0x28 ∧
    (after (exec (.bindingWithdrawal 2) (stepping id))).imp.withdrawn = [2] := by decide +kernel
theorem test_tables_register : (after (exec (.compositorTablesRegister 2 tables7) (agent (fun i => { i with bindings := [(2, binding2 none)] })))).binding 2 =
    some (binding2 (some tables7)) := by decide +kernel

/-! ## Steps -/

theorem lone_of (s : State) (i : Instr) (tb : Option CompTables) (tpp : Nat) (g : Prog) (h : (s.imp.progs = [(0, g)] ∧ g.run = .long i ∧ g.longCtx = some 7 ∧ g.killed = false ∧ g.intr = false ∧
      g.turnNew = true ∧ g.cls < 4 ∧ 1 ≤ g.weight) ∧ s.binding (s.cx 7).binding = some ⟨⟨300, tpp, false, none, []⟩, tb, false⟩ ∧
    (s.svc = [] ∧ s.fmCtl = 0 ∧ s.imp.modes = 0 ∧ s.imp.withdrawn = []) ∧
    ((s.cx 7).accepted = none ∧ (s.cx 7).reappend = false ∧ (s.cx 7).forkBest = none ∧ (s.cx 7).forkCur = none ∧ (s.cx 7).owner = 0) ∧
    ((s.cx 7).pages = [65536] ∧ Tab.get 0 s.imp.shares 65536 = 1 ∧ (s.cx 7).tokens.length + ((s.cx 7).feed.headD []).length < tpp)) :
    Spec.Lone s 0 7 i ⟨⟨300, tpp, false, none, []⟩, tb, false⟩ := ⟨⟨g, h.1⟩, h.2.1, h.2.2.1, h.2.2.2.1, ⟨65536, h.2.2.2.2⟩⟩
/-- A page of 20 tokens, and buffers of steps from 0x108000 on. -/
def fed20 (l : List Nat) : State := (fed l id).updImp (fun i => { i with bindings := [(2, ⟨⟨300, 20, false, none, []⟩, none, false⟩)], bufBase := 0x100000 })
def upTo17 : List Nat := [1, 2, 3, 4, 5, 6, 7, 8, 9, 10, 11, 12, 13, 14, 15, 16, 17]
theorem lone20 (l : List Nat) (h : l = [9, 8] ∨ l = upTo17) : Spec.Lone (fed20 l) 0 7 (.append false 1 2) ⟨⟨300, 20, false, none, []⟩, none, false⟩ := by
  rcases h with h | h <;> subst h <;> exact lone_of _ _ _ _ ((fed20 []).prog 0) (by decide +kernel)
/-- Two addresses of one 64 KiB page are walked alike (R80), and everything from 0x100000 to 0x10ffff may be written. -/
theorem walkFrom_page (s : State) (asid : Nat) {u v : Nat} (h : u / 65536 = v / 65536) (fuel : Nat) : ∀ lvl tbl,
    s.walkFrom asid u fuel lvl tbl = s.walkFrom asid v fuel lvl tbl := by
  have hi : ∀ l, walkIdx u l = walkIdx v l := by intro l; unfold walkIdx; split <;> omega
  have hl : ∀ l, u / leafSize l = v / leafSize l := by intro l; unfold leafSize; split <;> omega
  have h26 : u / 2 ^ 26 = v / 2 ^ 26 := by omega
  induction fuel with
  | zero => intros; rfl
  | succ n ih => intros; simp only [State.walkFrom, State.groupBase, hi, hl, h26, ih]
theorem mapped (va : Nat) (h1 : 0x100000 ≤ va) (h2 : va < 0x100000 + 192 + 5 * 17) : ∃ pa, (fed20 upTo17).sysPlace 0 0 va .store = .ok pa := by
  have h0 : (fed20 upTo17).walk 0 0 0x100000 = .ok ⟨0, 0x100000, 0x10000, 0x4000000, 0x1f, none⟩ := by
    have h : ((fed20 upTo17).walk 0 0 0x100000).toOption = some ⟨0, 0x100000, 0x10000, 0x4000000, 0x1f, none⟩ := by decide +kernel
    cases hw : (fed20 upTo17).walk 0 0 0x100000 with
    | error x => rw [hw] at h; cases h
    | ok e => rw [hw] at h; cases h; rfl
  have hw : (fed20 upTo17).walk 0 0 va = .ok ⟨0, 0x100000, 0x10000, 0x4000000, 0x1f, none⟩ := by
    rw [← h0]
    simp only [State.walk, walkFrom_page _ _ (show va / 65536 = 0x100000 / 65536 by omega)]
  have hn : nodeField (0x4000000 + (va - 0x100000)) = 0 := by unfold nodeField; rw [if_pos (by unfold hostBase; omega)]; omega
  have hl : localOf (0x4000000 + (va - 0x100000)) = 0x4000000 + (va - 0x100000) := by unfold localOf; rw [if_pos (by unfold hostBase; omega)]; omega
  have hr : regionOf (0x4000000 + (va - 0x100000)) = .hbm := by unfold regionOf; rw [if_pos (by omega)]
  refine ⟨0x4000000 + (va - 0x100000), ?_⟩
  have hb : (decide (va ≥ 2 ^ 52) || decide (va < 0x100000)) = false := by simp; omega
  simp only [State.sysPlace, hb, hw, State.isHere, hn, hl, hr]
  rfl
theorem witness_ImposerSteps_form : Spec.Booted (fed20 upTo17) ∧ ¬ Spec.Booted State.reset ∧ (fed20 upTo17).imp.step = none ∧ ((fed20 upTo17).cx 7).slot = some 3 ∧ ((fed20 upTo17).cx 7).progOp = 0x28 ∧ ((fed20 upTo17).cx 7).progDone = 0 ∧
    ((fed20 upTo17).cx 7).feed = [upTo17] ∧ ((fed20 upTo17).cx 7).tokens = [] ∧ ((fed20 upTo17).cx 7).written = 0 ∧ 2 ≤ upTo17.length ∧ upTo17.length ≤ 17 ∧
    16 ≤ (fed20 upTo17).imp.quantum.toNat ∧ (fed20 upTo17).imp.bufs = [] ∧ (fed20 upTo17).imp.bufBase.toNat = 0x100000 ∧ (fed20 upTo17).imp.bufBase.toNat % 65536 = 0 ∧
    (∀ e ∈ (fed20 upTo17).imp.ctxs, e.1 < (fed20 upTo17).imp.nextCtx) ∧ booted.imp.progs = [] ∧ booted.imp.withdrawn = [] := by
  unfold Spec.Booted; decide +kernel
def formed : State := after (exec .stepForm (fed20 upTo17))
/-- R10, R329, R366: the row of an APPEND of 17 tokens feeds 16, and its step's number is 1. -/
theorem test_step_form : (formed.imp.step.map (fun st => st.rows.map (fun r => (r.ctx, r.slot, r.ntok, r.kind)))) = some [(7, 3, 16, 0)] ∧ formed.imp.stepNo = 1 ∧
    formed.imp.step.map (·.stage) = some 1 := by decide +kernel

/-! ## Masks, the step graph, and the commit -/

/-- A step with one logit row, for program 0's GENU on context 7 with its Frisket fields. -/
def lrow0 : LogitRow := ⟨0, 0, 0, 0, 0, 0, none, false, none⟩
def genuStep (stage : Nat) (a : Automaton) (f : Context → Context) : State :=
  (((longs id (fun x => { f { x with pages := [65536] } with slot := some 3, progOp := 0x29, gblk := some ⟨0, 0x3f800000, 0, 65536, 2, 2, true, false, [], []⟩ })).updProg 0
      (fun g => { g with run := .long (.genu true 1 4) })).updImp (fun i => { i with
    bindings := [(2, ⟨⟨300, 20, false, none, []⟩, none, false⟩)]
    autos := [(1, a)], stepNo := 1, step := some { step0 with stage := stage, rows := [{ row0 with kind := 1, ntok := 1, nl := 1 }], lrows := [lrow0] } }))
/-- Only token 0 is of the class that state 0 lets through; auto1 lets every token through in state 0 and none in state 1 with an empty stack. -/
def auto2 : Automaton := ⟨1, 2, 300, 1 :: List.replicate 299 0, [0x3000, 0]⟩
def masking (a : Automaton) (st : BitVec 12) : State := genuStep 1 a (fun x => { x with fAuto := 1, fState := st })
theorem witness_ImposerSteps_masks : (∃ st, (masking auto1 0).imp.step = some st ∧ st.stage = 1 ∧ st.lrows = [lrow0] ∧
      st.rows = [{ row0 with kind := 1, ntok := 1, nl := 1 }] ∧ st.draft = false ∧ st.verify = false) ∧ lrow0.row = 0 ∧ (masking auto1 0).svc = [] ∧
    (masking auto1 0).imp.modes = 0 ∧ ((masking auto1 0).prog 0).longCtx = some 7 ∧ ((masking auto1 0).cx 7).fAuto ≠ 0xffff ∧
    Tab.find (masking auto1 0).imp.autos ((masking auto1 0).cx 7).fAuto.toNat = some auto1 ∧ (masking auto1 0).vocab 2 = 300 :=
  ⟨⟨_, rfl, rfl, rfl, rfl, rfl, rfl⟩, rfl, rfl, rfl, by decide +kernel, by decide +kernel, by decide +kernel, by decide +kernel⟩
/-- The tokens at the edges of the three cases: none, the last one of many, one alone and its neighbour. -/
theorem witness_ImposerSteps_allowed : (∀ t, ¬ Spec.Allowed auto1 300 ⟨1, 0, 0⟩ t) ∧ Spec.Allowed auto1 300 ⟨0, 0, 0⟩ 299 ∧ Spec.Allowed auto1 300 ⟨0, 0, 0⟩ 0 ∧
    Spec.Allowed auto2 300 ⟨0, 0, 0⟩ 0 ∧ (∀ t, Spec.Allowed auto2 300 ⟨0, 0, 0⟩ t → t = 0) ∧ Spec.Allowed auto1 300 ⟨1, 1, 1⟩ 0 ∧ ¬ Spec.Allowed auto1 300 ⟨1, 1, 2⟩ 0 := by
  have all : ∀ t, t < 300 → ¬ Spec.Allowed auto1 300 ⟨1, 0, 0⟩ t ∧ (Spec.Allowed auto2 300 ⟨0, 0, 0⟩ t → t = 0) := by unfold Spec.Allowed; decide +kernel
  refine ⟨fun t h => (all t h.1).1 h, ?_, ?_, ?_, fun t h => (all t h.1).2 h, ?_, ?_⟩ <;> unfold Spec.Allowed <;> decide +kernel
def masksOf (s : State) : Option (Nat × List (Nat × Nat × Nat)) :=
  (after (exec .frisketMasks s)).imp.step.map (fun st => (st.stage, st.lrows.map (fun l => (l.mode, l.count, l.settled))))
/-- R395: no token settles the row with count 0, one with itself, and of many the mask's bytes hold each. -/
theorem test_step_masks : masksOf (masking auto1 1) = some (2, [(3, 0, 0)]) ∧ masksOf (masking auto2 0) = some (2, [(3, 1, 0)]) ∧ masksOf (masking auto1 0) = some (2, [(0, 300, 0)]) ∧
    (after (exec .frisketMasks (masking auto1 0))).readNat 0x40001a5 2 = 0x000f ∧ (after (exec .frisketMasks (masking auto1 0))).readNat 0x40001a4 1 = 0xff := by decide +kernel
theorem witness_ImposerSteps_passed : ∃ st, (stepping (fun st => { st with stage := 1 })).imp.step = some st ∧ st.stage = 1 ∧ st.lrows = [] :=
  ⟨_, rfl, rfl, rfl⟩

/-- Stage 2 done; queue 0 of ASID 0 has its ring of 16 at 0x108000, the last place next. -/
def graph0 : List Byte := List.replicate 128 7
def placing : State := { (stepping (fun st => { st with stage := 2 })).updImp (fun i => { i with bindings := [(2, ⟨⟨300, 20, false, none, [graph0]⟩, none, false⟩)], sqDesc := 0x100500 }) with
  queues := [(0, { queue1 with base := 0x108000, head := 3, tail := 15 })] }
theorem witness_ImposerSteps_place : (∃ st, placing.imp.step = some st ∧ st.stage = 2 ∧ st.lrows = [] ∧ st.binding = 2 ∧ st.desc = 0x100000) ∧
    (Tab.find placing.imp.bindings 2).map (·.reg.graph) = some [graph0] ∧ (placing.lq 0).tail < (placing.lq 0).ents ∧ (placing.lq 0).head < (placing.lq 0).ents ∧
    ((placing.lq 0).tail + (placing.lq 0).ents - (placing.lq 0).head) % (placing.lq 0).ents + 1 < (placing.lq 0).ents ∧
    (placing.sysWrite 0 ((placing.lq 0).cfg.toNat / 2 ^ 16 % 2 ^ 16) ((placing.lq 0).base.toNat + 128 * (placing.lq 0).tail)
      (graph0.take 80 ++ leBytes 8 (0x100000 % 2 ^ 64) ++ leBytes 8 placing.imp.sqDesc.toNat ++ graph0.drop 96)).1 = none :=
  ⟨⟨_, rfl, rfl, rfl, rfl, rfl⟩, by decide +kernel, by decide +kernel, by decide +kernel, by decide +kernel, by decide +kernel⟩
theorem test_step_graph : (after (exec .stepGraphPlace placing)).imp.step.map (fun st => (st.stage, st.graph.length)) = some (3, 1) ∧
    ((after (exec .stepGraphPlace placing)).lq 0).tail = 0 ∧ (after (exec .stepGraphPlace placing)).readNat 0x40087d0 8 = 0x100000 ∧
    (after (exec .stepGraphPlace placing)).readNat 0x40087d8 8 = 0x100500 := by decide +kernel

/-- Stage 3 with a launch of the step's graph that has not ended: the commit waits (R335). -/
def graphing : State := stepping (fun st => { st with stage := 3, lrows := [], graph := [⟨1, 5, 0⟩] }) |> fun s => { s with launches := [pending 1 5 0] }
theorem witness_ImposerSteps_graph : (∃ st, graphing.imp.step = some st ∧ st.stage = 3 ∧ ∃ k ∈ st.graph, graphing.launchOf k = some (pending 1 5 0)) ∧
    (pending 1 5 0).stage ≠ .ended ∧ exec .stepCommit graphing = .next graphing :=
  ⟨⟨_, rfl, rfl, _, List.mem_singleton.mpr rfl, by decide +kernel⟩, by decide, rfl⟩

/-- Stage 3 done with the row of an APPEND whose tokens have been fed but for the last, and with more left. -/
def appended (l : List Nat) : State := (fed20 l).updImp (fun i => { i with step := some { step0 with rows := [{ row0 with ntok := 1 }] }, stepNo := 1 })
theorem witness_ImposerSteps_commit : Spec.Lone (appended [9, 8]) 0 7 (.append false 1 2) ⟨⟨300, 20, false, none, []⟩, none, false⟩ ∧
    Spec.Lone (appended [9, 8, 7]) 0 7 (.append false 1 2) ⟨⟨300, 20, false, none, []⟩, none, false⟩ ∧
    (∃ st, (appended [9, 8]).imp.step = some st ∧ st.stage = 3 ∧ st.rows = [{ row0 with ntok := 1 }] ∧ st.lrows = [] ∧ st.graph = [] ∧ st.sampler = none) ∧
    (({ row0 with ntok := 1 } : StepRow).prog = 0 ∧ ({ row0 with ntok := 1 } : StepRow).ctx = 7) ∧ (1 + 1 = [9, 8].length ∧ 1 + 1 < [9, 8, 7].length) ∧
    (((appended [9, 8]).cx 7).progDone = 0 ∧ ((appended [9, 8]).cx 7).tokens = [] ∧ ((appended [9, 8]).cx 7).written = 0 ∧ ((appended [9, 8]).cx 7).feed = [[9, 8]]) := by
  refine ⟨?_, ?_, ⟨_, rfl, rfl, rfl, rfl, rfl, rfl⟩, ⟨rfl, rfl⟩, by decide, by decide +kernel⟩
  · exact lone_of _ _ _ _ ((appended []).prog 0) (by decide +kernel)
  · exact lone_of _ _ _ _ ((appended []).prog 0) (by decide +kernel)
/-- R367: the row's token and the last one, or the row's token alone. -/
theorem test_append_commit : ((after (exec .stepCommit (appended [9, 8]))).cx 7).tokens = [9, 8] ∧ ((after (exec .stepCommit (appended [9, 8]))).prog 0).pc = 0x28 ∧
    ((after (exec .stepCommit (appended [9, 8, 7]))).cx 7).tokens = [9] ∧ runOf (after (exec .stepCommit (appended [9, 8, 7]))) = .long (.append false 1 2) ∧
    (after (exec .stepCommit (appended [9, 8, 7]))).imp.step = none := by decide +kernel

/-- GENU's one row answered with token y, on a page with room. -/
def answered (y : Nat) : State := (genuStep 3 auto1 (fun x => { x with draw := 7 })).updImp (fun i => { i with
  shares := [(65536, 1)]
  step := i.step.map (fun st => { st with lrows := [{ lrow0 with reply := some (BitVec.ofNat 64 (2 ^ 40 + 2 ^ 32 + y)) }] }) })
def token1 : Word := BitVec.ofNat 64 (2 ^ 40 + 2 ^ 32 + 9)
theorem witness_ImposerSteps_genu : Spec.Lone (answered 9) 0 7 (.genu true 1 4) ⟨⟨300, 20, false, none, []⟩, none, false⟩ ∧
    (∃ st, (answered 9).imp.step = some st ∧ st.stage = 3 ∧ st.rows = [{ row0 with kind := 1, ntok := 1, nl := 1 }] ∧ st.lrows = [{ lrow0 with reply := some token1 }] ∧
      st.graph = [] ∧ st.sampler = none ∧ st.draft = false) ∧ (token1.toNat / 2 ^ 32 % 256 = 1 ∧ token1.toNat % 2 ^ 32 = 9) ∧
    (∃ blk, ((answered 9).cx 7).gblk = some blk ∧ blk.stops = [] ∧ blk.temp ≠ 0 ∧ blk.spec = false ∧ ((answered 9).cx 7).progDone.toNat + 1 < blk.maxnew ∧
      blk.maxnew < 2 ^ 32 ∧ blk.eos = 2) ∧ ((answered 9).cx 7).fAuto = 0xffff ∧ ((answered 9).prog 0).s[(4 : SReg).toNat].data.length < 1048576 ∧ ((answered 9).cx 7).feed = [] ∧
    ((answered 9).cx 7).tokens.length + 1 < 20 := by
  refine ⟨?_, ⟨_, rfl, rfl, rfl, by decide +kernel, rfl, rfl, rfl⟩, by decide, ⟨⟨0, 0x3f800000, 0, 65536, 2, 2, true, false, [], []⟩, by decide +kernel, rfl, by decide, rfl, by decide +kernel,
    by decide, rfl⟩, by decide +kernel, by decide +kernel, by decide +kernel, by decide +kernel⟩
  exact lone_of _ _ _ _ ((answered 9).prog 0) (by decide +kernel)
/-- R368: the token, the draw index and the output; the end token ends it and is not put out. -/
theorem test_genu_commit : ((after (exec .stepCommit (answered 9))).cx 7).tokens = [3, 4, 5, 9] ∧ ((after (exec .stepCommit (answered 9))).cx 7).draw = 8 ∧
    sOf .stepCommit (answered 9) 4 = ⟨false, [9]⟩ ∧ ((after (exec .stepCommit (answered 2))).cx 7).status = 0x02 ∧
    sOf .stepCommit (answered 2) 4 = ⟨false, []⟩ ∧ ((after (exec .stepCommit (answered 2))).prog 0).pc = 0x28 := by decide +kernel

/-- A row posted at cycle 0 that waits for its reply, and one that the Attic has been asked for: two tokens, no temperature, no mask, and a value of
token 1 above that of token 0. -/
def asking (l : LogitRow) : State := (genuStep 3 auto1 id).updImp (fun i => { i with
  sqDesc := 0x100500, step := i.step.map (fun st => { st with lrows := [l] }) })
def overdue : State := { asking { lrow0 with posted := some 0 } with now := 1048576 }
def passedOn (record : List Host.Cell) : State :=
  let s := asking { lrow0 with asked := true }
  { s with mem := record.foldl (fun m p => memSet m p.1 p.2) s.mem }
def row2 : List Host.Cell := [(0x40000a4, 2)]
theorem witness_ImposerSteps_replies : (∃ st, overdue.imp.step = some st ∧ st.lrows[0]? = some { lrow0 with posted := some 0 } ∧ st.stage = 3) ∧
    overdue.imp.modes.getLsbD 5 = false ∧ token1.toNat / 2 ^ 40 = overdue.imp.stepNo.toNat % 2 ^ 24 ∧ (2 : Word).toNat / 2 ^ 40 ≠ overdue.imp.stepNo.toNat % 2 ^ 24 ∧
    overdue.imp.sqEn = true ∧ 0 + overdue.imp.sqTime.toNat ≤ overdue.now ∧ 1048575 < 0 + overdue.imp.sqTime.toNat := by
  refine ⟨⟨_, rfl, rfl, rfl⟩, ?_⟩
  decide +kernel
theorem witness_ImposerSteps_attic : (∃ st, (passedOn row2).imp.step = some st ∧ st.stage = 3 ∧ st.lrows[0]? = some { lrow0 with asked := true } ∧ st.reqBase = 0x100080) ∧
    (reads ((passedOn row2).sysRead 0 0 0x100080 192)).map (fun b => (leNat ((b.drop 36).take 4), leNat ((b.drop 48).take 8), leNat ((b.drop 24).take 4))) = some (2, 0, 0) ∧
    ((passedOn row2).sysRead 0 0 0x100080 192).2.mem = (passedOn row2).mem ∧ (reads ((passedOn row2).sysRead 0 0 0x100200 8)).map (idsOf 2) = some [0, 0x01000000] ∧
    Spec.f32Key 0 < Spec.f32Key 0x01000000 := by
  refine ⟨⟨_, rfl, rfl, rfl, rfl⟩, ?_⟩
  decide +kernel
def replyOf (s : State) (i : Instr) : Option (List (Option Word)) := (after (exec i s)).imp.step.map (fun st => st.lrows.map (·.reply))
/-- R384: the first reply of the step is taken, one of another step is not; a late row's record goes to the Attic at its cycle and not before. -/
theorem test_replies : (overdue.takeReply 0 token1).imp.step.map (fun st => st.lrows.map (·.reply)) = some [some token1] ∧
    (overdue.takeReply 0 2).imp.step.map (fun st => st.lrows.map (·.reply)) = some [none] ∧
    (after (exec (.samplingTimeout 0) overdue)).svc.map (fun r => (r.func, r.addr)) = [(5, 0x100080)] ∧
    (after (exec (.samplingTimeout 0) { overdue with now := 1048575 })).svc = [] ∧ (after (exec (.samplingTimeout 0) { asking lrow0 with now := 1048576 })).svc = [] := by
  decide +kernel
/-- R384, R381: the Attic's greedy token, a settled one of mode 3, NOMASK of none, NUMERIC where token 1's value is infinite; nothing unasked. -/
theorem test_attic : replyOf (passedOn row2) (.samplerReply 0 0) = some [some 0x10100000001] ∧
    replyOf (passedOn (row2 ++ [(0x40000a8, 3), (0x40000aa, 1), (0x40000ac, 7)])) (.samplerReply 0 0) = some [some 0x10100000007] ∧
    replyOf (passedOn (row2 ++ [(0x40000a8, 3)])) (.samplerReply 0 0) = some [some 0x11200000000] ∧
    replyOf (passedOn (row2 ++ [(0x4000206, 0x80), (0x4000207, 0x7f)])) (.samplerReply 0 0) = some [some 0x11000000000] ∧
    replyOf overdue (.samplerReply 0 token1) = some [none] := by decide +kernel

/-- The row that R378 works by hand: k = 1.0, K = 4, P = 52,429, token 3 masked. -/
def handRow : List Nat := [0xbf800000, 0, 0xc0400000, 0x40000000, 0xc0000000, 0xbf800000, 0xc0800000, 0xc0000000]
def handA : List Nat := [0, 1, 2, 4, 5, 6, 7]
def handReq : SampleReq := ⟨0, 0, 0, 0x3fb8aa3b, 4, 52429, 8, 0, 0, 0, 0, 0, 0, 0x3f800000⟩
theorem witness_SamplingFunction : handA.Pairwise (· < ·) ∧ handA ≠ [] ∧ (∀ t ∈ handA, t < handRow.length) ∧ (1 ≤ 52429 ∧ 52429 ≤ 65536) ∧
    handRow.all (fun x => decide (x < 2 ^ 32 ∧ x / 2 ^ 23 % 2 ^ 8 ≠ 255)) = true ∧ 2 ^ 32 - 1 < 2 ^ 32 ∧ 0 < ([0, 1] : List Nat).sum ∧ handReq.temp ≠ 0 ∧
    0 < ((rowWeights handRow 0x3f800000 4 52429 handA).map weightUnit).sum := by decide +kernel
/-- The weights that R378's table keeps, the tokens of its three draws, the greedy token and NUMERIC by the masked token; k of R380. -/
theorem test_sampling : rowWeights handRow 0x3f800000 4 52429 handA = [0x3f000000, 0x3f800000, 0, 0, 0, 0x3f000000, 0, 0] ∧
    ([0, 0x90000000, 0xe0000000].map (fun u => pickToken u 4 0 0 [1, 2, 0, 0, 0, 1, 0, 0])) = [some 0, some 1, some 5] ∧
    (sampleRow { handReq with temp := 0 } handRow false handA).tok = 1 ∧ (sampleRow handReq (handRow.set 3 0x7fc00000) false handA).code = 0x10 ∧
    tempFactor 0x3fb8aa3b = 0x3f800000 ∧ (sampleRow { handReq with mode := 1, childs := 2 } handRow false handA).childs.length = 2 := by decide +kernel

/-! ## Text and Frisket -/

theorem witness_TextAndFrisket : (97 : Nat) ∈ [97, 97, 97, 98] ∧ ([97, 98, 97, 98, 97].take 4).length ≤ 5 ∧ (0x5001 / 2 ^ 12 % 4 = 1 ∧ 0x6000 / 2 ^ 12 % 4 = 2 ∧ 1 / 2 ^ 12 % 4 = 0) ∧
    ((8 : BitVec 4).toNat ≤ 8 ∧ (7 : BitVec 4).toNat < 8) := by decide
/-- R390, R389: "a", "a", "a", "b" merge as the spec's example says; a space that stands alone cuts. R391: of "ababa" with 4 bytes matched, an "a" leaves 5 and a "b" 0. -/
theorem test_text : tables7.tokz [97, 97, 97, 98] = [257, 98] ∧
    ({ tables7 with split := (List.replicate 256 0).set 97 0x100 }).tokz [97, 97, 98] = [97, 97, 98] ∧ tables7.detok [257, 98] = [97, 97, 97, 98] ∧
    nextCount [97, 98, 97, 98, 97] 4 97 = 5 ∧ nextCount [97, 98, 97, 98, 97] 4 98 = 0 ∧ nextCount [97, 98, 97, 97] 3 98 = 2 := by decide +kernel
/-- R389: "aa" comes to its merged token by rank 0. -/
theorem witness_TextAndFrisket_merges : Spec.Merges tables7 [97, 97] [256] := by
  refine .one [] [] _ 97 97 0 256 ⟨_, rfl, by decide, by decide⟩ (by decide +kernel) (fun _ _ _ _ k _ _ => Nat.zero_le k)
    (fun u' _ _ => Nat.zero_le u'.length) (.done _ ?_)
  intro u x y v r h
  have l := congrArg List.length h
  simp at l
  omega
/-- R394: a push at depth 7 fills entry 7; at depth 8 there is no room; a pop zeroes the entry it leaves. -/
theorem test_frisket : auto1.move ⟨0, 7, 0⟩ 5 = some ⟨1, 8, 2 ^ 56⟩ ∧ auto1.move ⟨0, 8, 0⟩ 5 = none ∧ auto1.move ⟨1, 2, 0x102⟩ 5 = some ⟨0, 1, 2⟩ := by decide +kernel

/-! ## Encodings -/

/-- The words of the spec's worked encodings, and the words it refuses (R163, R164, R168 and others, as the statement cites them). -/
theorem test_words : (∀ p ∈ Spec.words, decodeDamvon 32 p.1 p.2.1 = .ok p.2.2) ∧ (∀ p ∈ Spec.criumWords, decodeCrium p.1 = .ok p.2) := by decide +kernel
theorem test_refused : (Spec.refused.all (fun p => decide (decodeDamvon 32 p.1 p.2 = .illegal))) = true ∧ decodeDamvon 32 0xc4018440 0x0000e000 = .pointer ∧
    decodeDamvon 32 0xf002990a 0x0000f000 = .pointer ∧ decodeDamvon 1 0xc4008400 0x00008000 = .illegal := by decide +kernel

theorem witness_DamvonRoundTrip : (Instr.vadd ⟨0x09, some 5⟩ .f32 31 31 31 (some 7) .rup).wf = true ∧ encode (.vadd ⟨0x09, some 5⟩ .f32 31 31 31 (some 7) .rup) ≠ [] ∧
    ¬ Spec.Agent (.vadd ⟨0x09, some 5⟩ .f32 31 31 31 (some 7) .rup) := by
  refine ⟨by decide, by decide, ?_⟩
  intro h
  cases h with
  | quiet i d h => cases h
theorem witness_CriumRoundTrip : (Instr.choose true 31 15 0 16 7).wf = true ∧ encode (.choose true 31 15 0 16 7) ≠ [] ∧ Spec.Agent (.choose true 31 15 0 16 7) :=
  ⟨by decide, by decide, .choose true 31 15 0 16 7⟩
theorem witness_WordsHaveOneMeaning : decodeDamvon 32 0x04e72800 0 = .ok (.add 7 7 5) ∧ decodeCrium 0x3100000000000001 = .ok (.setfr 0 0 1 0 0) := by decide +kernel

/-! ## Invariants and isolation -/

def listed : State := { program with mem := [(5, 1), (9, 2)], poison := [3, 4] }
theorem witness_StepKeepsCanon : listed.Canon ∧ ∃ t, step listed = .next t :=
  ⟨⟨rfl, by show List.Pairwise (· < ·) [3, 4]; decide⟩, next_of (by decide +kernel)⟩
theorem witness_Isolation : encode (.add 3 1 2) ≠ [] ∧ ¬ Spec.Agent (.add 3 1 2) ∧ (∃ t, exec (.add 3 1 2) running = .next t) ∧ (1 : Nat) ≠ running.actCell ∧
    encode (.nadd 4 1 2) ≠ [] ∧ Spec.Agent (.nadd 4 1 2) ∧ ∃ t, exec (.nadd 4 1 2) ag = .next t := by
  refine ⟨by decide, ?_, ⟨_, rfl⟩, by decide, by decide, .quiet _ _ (.nadd 4 1 2), ⟨_, rfl⟩⟩
  intro h
  cases h with
  | quiet i d h => cases h

/-! ## Ill-formed instructions -/

/-- One term for every check of well-formedness, which the check refuses: a body of no words, more words than SEND has or than registers follow,
rap.xa other than add, an unordered RAP with a destination, a barrier beyond 255, unassigned special registers, SYNCE of no engine. -/
theorem smoke_control : (Instr.loop 1 0).wf = false ∧ (Instr.loopi 1 0).wf = false ∧ (Instr.send 1 2 3 5).wf = false ∧ (Instr.send 1 2 3 0).wf = false ∧
    (Instr.send 1 2 30 3).wf = false ∧ (Instr.send 1 2 28 4).wf = true ∧ (Instr.rap .xa .min true .cell 1 2 3).wf = false ∧ (Instr.rap .s32 .add false .cell 1 2 3).wf = false ∧
    (Instr.arm 256 true 1).wf = false ∧ (Instr.arm 256 false 1).wf = true ∧ (Instr.mfs 1 0x00f).wf = false ∧ (Instr.mts 0x013 1).wf = false ∧ (Instr.synce 0).wf = false := by decide
/-- A rounding mode on integers, odd pairs, parts and lanes out of range. -/
theorem smoke_vector : (Instr.vadd ⟨0, none⟩ .s32 1 2 3 none .rtz).wf = false ∧ (Instr.vsub ⟨0, none⟩ .n8 1 2 3 none .rtz).wf = false ∧
    (Instr.vmul ⟨0, none⟩ .s16 1 2 3 none .rtz).wf = false ∧ (Instr.vgth ⟨0, none⟩ .s32 1 2 3 5 false none).wf = false ∧ (Instr.vcvt ⟨0, none⟩ .s32 .s8 1 2 4 none .rne).wf = false ∧
    (Instr.vcvt ⟨0, none⟩ .s32 .f32 1 2 1 none .rne).wf = false ∧ (Instr.vredx ⟨0, none⟩ .f32 3 2 false none).wf = false ∧ (Instr.vxadd ⟨0, none⟩ 3 2).wf = false ∧
    (Instr.vxadd ⟨0, none⟩ 2 3).wf = false ∧ (Instr.vxrnd ⟨0, none⟩ .f32 1 3 0 .rne).wf = false ∧ (Instr.vxrnd ⟨0, none⟩ .f32 1 2 16 .rne).wf = false ∧
    (Instr.vmx ⟨0, none⟩ (.get .s32 16 1 2)).wf = false ∧ (Instr.vmx ⟨0, none⟩ (.put .s16 32 1 2)).wf = false := by decide
/-- Registers of copies that run past x31, a token set or wait set of none, CHOOSE and SETFR beyond their ranges, and the budget of vector registers. -/
theorem smoke_others : (Instr.cpy ⟨0, none⟩ 1 2 31 3).wf = false ∧ (Instr.cpyg ⟨0, none⟩ 1 2 29 3 false).wf = false ∧ (Instr.cpyx 1 0).wf = false ∧
    (Instr.twait 0 5).wf = false ∧ (Instr.choose true 1 2 3 1 0).wf = false ∧ (Instr.choose true 1 2 3 17 0).wf = false ∧ (Instr.choose true 1 2 3 14 0).wf = false ∧
    (Instr.setfr 1 2 3 4 9).wf = false ∧ (Instr.vadd ⟨0, none⟩ .f32 1 2 31 none .rne).vregsOk 31 = false ∧ (Instr.vxadd ⟨0, none⟩ 6 4).vregsOk 7 = false := by decide

/-! ## Further clauses of the statements above -/

/-- R99: a store in the buffer. R96, R97, R108: nothing of the cell meets the bytes of an atomic, of an XA operand, of a VLD and of a copy's
source. -/
theorem witness_Fences_stall : (buffered.core 0).run = .running ∧ (buffered.ctx 0).out.sb ≠ [] ∧ FenceKind.rel ≠ .acq ∧
    ((settled buffered').ctx 0).retriable = false ∧ ((settled buffered').ctx 0).out.sb ≠ [] := by decide +kernel
theorem witness_Settled : Spec.Settled (atAddr memory 0x1000) 0 0 (spBase 0 + 0x1000) 8 ∧ Spec.Quiet (atAddr memory 0x1000) 0 ∧
    Spec.Settled packets 0 0 (spBase 0 + 0x1000) 80 ∧ Spec.Settled line 0 1 (spBase 0 + 0x7ffc0) 64 ∧
    Spec.Settled copying 0 flight1.op.copyEng (spBase 0 + 0x7ffc0) 64 ∧ copying.isFrozen 0 = false := by
  unfold Spec.Settled Spec.Quiet; decide +kernel
theorem witness_MessagesSent_rap_ready : (packets.core 0).run = .running ∧ (packets.die (dieOfCell 0)).einjArm = false ∧ (packets.ctx 0).out.sb = [] ∧
    (packets.ctx 0).retriable = true ∧ heldSize (packets.ctx 0).out.held + 96 ≤ 65536 ∧ ((settled packets).ctx 0).retriable = false := by decide +kernel
theorem test_fence_stalls : exec (.fence .full .die) (settled buffered') = .next (settled buffered') := rfl

/-- R194: an arrival that leaves a phase open, at either bound, and one that ends it. -/
theorem witness_Bellboard_arrive : (0 : Int) < max (-(2 ^ 31)) (2 - 1) ∧ max (-(2 ^ 47)) (min (2 ^ 47 - 1) (2 ^ 47 - 1 + 1)) ≠ (0 : Int) ∧
    max (-(2 ^ 31)) (1 - 1) ≤ (0 : Int) ∧ max (-(2 ^ 47)) (min (2 ^ 47 - 1) (-8 + 8)) = (0 : Int) ∧ (0 : Int) < max (-(2 ^ 31)) (1 - 1) + 1 := by decide
theorem test_arrive : ((({ bar1 with pend := -8 } : Entry).arrive 1 8).1.phase, (({ bar1 with pend := -8 } : Entry).arrive 1 8).1.pend,
    (({ bar1 with pend := -8 } : Entry).arrive 1 8).2) = (true, 0, 1) ∧ (bar1.arrive 1 8).1.pend = 8 ∧
    (({ bar1 with count := -(2 ^ 31) } : Entry).arrive 5 8).1.count = -(2 ^ 31) := by decide +kernel

/-- R133: the vector engine goes on, or has faulted while the matrix engine goes on. -/
def owedBusy : State := owed'.updMat 0 (fun m => { m with queue := [mzeroOp] })
theorem witness_SystemInstructions_quiet : Spec.EnginesIdle running ∧ running.quiet 0 = true ∧ Spec.EngineGoes owed 1 ∧ owed.quiet 0 = false :=
  ⟨⟨rfl, rfl, rfl, rfl, rfl, rfl, rfl⟩, by decide +kernel, ⟨rfl, _, _, rfl, .inr rfl⟩, by decide +kernel⟩
theorem witness_OwedRegistersStall_forms : Spec.Names (.addp 3 1 2) [3, 1, 2] ∧ Spec.Names (.mts 0x22 3) [3] ∧ Spec.Names (.ld .d64 4 3 0) [4, 3] ∧
    (owed.ctx 0).owing [3] = some 1 ∧ owed'.quiet 0 = true ∧ (owedBusy.ctx 0).engFault 1 = some engPacket ∧ owedBusy.quiet 0 = false ∧
    faulted.quiet 0 = true ∧ (owedBusy.ctx 0).engFault 1 ≠ none :=
  ⟨.addp 3 1 2, .mts 0x22 3, .access _ _ _ _ _ (.ld .d64 4 3 0), by decide +kernel, by decide +kernel, rfl, by decide +kernel, by decide +kernel, by decide⟩
theorem test_halts : exec (.trap 1) owed = .next owed ∧ exec (.addp 3 1 2) owed = .next owed ∧ exec (.mts 0x22 3) owedBusy = .next owedBusy ∧
    exec vaddI owedBusy = .next owedBusy := ⟨rfl, rfl, rfl, rfl⟩

/-- R127, R258: cell 0 waits for its start message; the item waits with it. -/
def asleep : State := { arriving (.msg 3 1 [7]) with launches := [{ pending 1 0 0 with sleepy := [0] }] }
theorem witness_Items_sleepy : asleep.takesItems 0 = true ∧ asleep.retiredFrom (some ⟨1, 0, 0⟩) 0 = false ∧ asleep.sleepyCell 0 = true ∧
    asleep.net[0]? = some (packet (.msg 3 1 [7])) ∧ (arriving (.msg 3 1 [7])).sleepyCell 0 = false ∧ (free1.ctx 0).out.sb = [] := by decide +kernel
theorem test_sleepy : exec (.delivery 0) asleep = .next asleep := rfl
/-- R133: the issuer of a refused store while an operation of its vector engine is under way, and without one. -/
def shutBusy : State := shut.updVec 1 (fun v => { v with queue := [{ vaddOp with started := true }] })
theorem witness_StoresPerform_waits : shutBusy.opsRun 1 = true ∧ shut.opsRun 1 = false ∧ (shutBusy.core 1).run = .running ∧
    (arriving (.land 4 8)).racing 1 0 (spBase 0 + 0x7fffc) 4 = [] := by decide +kernel
theorem test_shut_waits : exec (.remoteStoreArrival 0) shutBusy = .next shutBusy := rfl

/-- R418: entry 4 with a count lowered by 1 and its reload set from 3, and the start of the activation with handle 2 valid and xo.top 0x800. -/
def undone2 : State := (undone.updCtx 0 (fun x => { x with bell := [(4, { bar1 with reload := 9 })] })).updOut 0 (fun o => { o with
  record := [(4, { EntryRec.empty with dCount := -1, reload := some 3 })]
  start := some ⟨Core.reset.hnd.set 2 ⟨true, true, 0, 1, 1, 0, 0x100, 1⟩, 0x800, 0, 0, MatEng.reset.epi, [], none, false, false⟩ })
theorem witness_Kills_undone : (undone2.cell 0).floor.due = [] ∧ ((undone2.ctx 0).out.record.map (·.1)).Nodup ∧
    (4, { EntryRec.empty with dCount := -1, reload := some 3 }) ∈ (undone2.ctx 0).out.record ∧ (undone2.ctx 0).out.start.map (·.xoTop) = some 0x800 ∧
    ((settled undone).cell 0).floor.due = [] := by decide +kernel
theorem test_undo : (((after (exec (.killActivation 0) undone2)).ctx 0).entry 4).count = 2 ∧
    (((after (exec (.killActivation 0) undone2)).ctx 0).entry 4).reload = 3 ∧ ((after (exec (.killActivation 0) undone2)).core 0).xoTop = 0x800 ∧
    ((after (exec (.killActivation 0) undone2)).core 0).hnd[2].valid = true := by decide +kernel

/-- R252: a table at the boundary and one at the end of the scratchpad, which no other engine writes. -/
theorem witness_ReductionsAndHistograms_alone : Spec.Alone (vecOp flts (.qhist noKeys .f32 4 1 none) [0x1000]) 0 1 (spBase 0 + 0x1000) 1024 ∧
    Spec.Alone (vecOp flts (.qscale noKeys 9 4 5) [0, 0x7fc00, 0]) 0 1 (spBase 0 + 0x7fc00) 1024 :=
  ⟨fun h hm => (by cases hm), fun h hm => (by cases hm)⟩

/-- R280: a consumer's handle whose peer is cell 1, in a retriable activation and in one that is not. -/
def consuming : State := turning.updCore 0 (fun k => { k with hnd := k.hnd.set 2 { slots with producer := false } })
theorem witness_Copies_credit : Spec.CopReady consuming 0 (op (.cbadv noKeys 9 2 3) []) [] ∧ ((consuming.core 0).hnd[(2 : BReg).toNat]).valid = true ∧
    ((consuming.core 0).hnd[(2 : BReg).toNat]).producer = false ∧ (3 : BitVec 8) ≠ 0 ∧ consuming.destOf 0 ((consuming.core 0).hnd[(2 : BReg).toNat]).peer = some (0, [1]) ∧
    consuming.recipients 0 0 [1] = [1] ∧ (consuming.ctx 0).retriable = true ∧ heldSize (consuming.ctx 0).out.held + 16 ≤ 65536 ∧
    ((settled consuming).ctx 0).retriable = false ∧ ((turning.core 0).hnd[(2 : BReg).toNat]).producer = true := by
  refine ⟨⟨rfl, rfl, rfl, (by intro w h; cases h), rfl, ⟨rfl, rfl⟩, rfl, rfl, (show 0 < 16 by decide), (by intro f h; cases h), rfl⟩, ?_⟩
  decide +kernel
theorem test_credit : (checked (settled consuming)).net.map (fun p => (p.dst, p.body)) = [(1, .msg 0 3 [])] ∧
    ((checked consuming).ctx 0).out.held.map (fun h => (h.pkt.dst, h.pkt.body)) = [(1, .msg 0 3 [])] ∧
    (checked turning).net = [] := by decide +kernel

theorem witness_MigrationAndProofs_more : (∀ m ∈ moving0.launches, 0 ∉ m.sleepy ∧ 1 ∉ m.sleepy) ∧
    (∃ m, ((pair (some 9)).ctx 1).launch = some m ∧ m.key = launch1.key ∧ m.partner = some 0) :=
  ⟨(by intro m h; cases h), ⟨_, rfl, rfl, rfl⟩⟩

/-- R410: the failed read of a descriptor, and the failed write of a string, have no request out. -/
theorem witness_Answered : ((ring (fun l => { l with base := 0x200000 })).sysRead 0 1 0x200000 128).2.sysReqs = [] ∧
    ((at7 0x200000 ag).sysWrite 0 1 0x200000 (Spec.object ⟨false, [97, 97, 97, 98]⟩)).2.sysReqs = [] ∧
    (State.masks (masking auto1 0)).sysReqs = [] ∧ (State.masks (masking auto1 1)).sysReqs = [] ∧ (State.masks (masking auto2 0)).sysReqs = [] := by
  decide +kernel

/-- Programs that run no long instruction; one row whose context is unconstrained. -/
theorem witness_ImposerSteps_idle : Spec.Booted program ∧ program.imp.step = none ∧ program.imp.progs.length = 1 ∧
    (∀ e ∈ program.imp.progs, ∀ i, e.2.run ≠ .long i) ∧ program.imp.withdrawn = [] := by
  refine ⟨⟨rfl, rfl⟩, rfl, rfl, ?_, rfl⟩
  intro e h i
  obtain rfl := List.mem_singleton.mp h
  exact fun h => (by cases h)
def unmasked : State := genuStep 1 auto1 id
theorem witness_ImposerSteps_unconstrained : (∃ st, unmasked.imp.step = some st ∧ st.stage = 1 ∧ st.draft = false ∧ st.lrows = [lrow0] ∧
      st.rows[lrow0.row]? = some { row0 with kind := 1, ntok := 1, nl := 1 }) ∧ unmasked.svc = [] ∧ unmasked.imp.modes = 0 ∧
    (unmasked.prog 0).longCtx = some 7 ∧ (unmasked.cx 7).fAuto = 0xffff := ⟨⟨_, rfl, rfl, rfl, rfl, rfl⟩, rfl, rfl, by decide +kernel, by decide +kernel⟩
theorem test_unconstrained : masksOf unmasked = some (2, [(0, 0, 0)]) ∧ (after (exec .frisketMasks unmasked)).mem = unmasked.mem ∧
    (after (exec .stepForm program)).imp.step = none := by decide +kernel

/-- R56: 1 + 2^−8 and its negative in q0 and q1, values past both formats in q2 and q3, and 2^31 in q4. -/
def halves : State := withProg (fun g => { g with q := ((((g.q.set 0 ⟨{ XA.zero with x := BitVec.ofInt 576 (2 ^ 266 + 2 ^ 258) }, false⟩).set 1
  ⟨{ XA.zero with x := BitVec.ofInt 576 (-(2 ^ 266 + 2 ^ 258)) }, false⟩).set 2 ⟨{ XA.zero with x := BitVec.ofInt 576 (2 ^ 394) }, false⟩).set 3
  ⟨{ XA.zero with x := BitVec.ofInt 576 (-(2 ^ 394)) }, false⟩).set 4 ⟨{ XA.zero with x := BitVec.ofInt 576 (2 ^ 297) }, true⟩ })
def dn (i : Instr) : Nat := (((after (exec i halves)).prog 0).n.toList.getD 4 0).toNat
def rnds : List Rnd := [.rne, .rtz, .rup, .rdn, .rna]
theorem witness_ScoresAndWaits_drain : let m := (Spec.rq halves 0).xa.x.toInt.natAbs
    Spec.magnitude 7 133 0x3f80 ≤ m ∧ m < Spec.magnitude 7 133 0x3f81 ∧ 2 * m = Spec.magnitude 7 133 0x3f80 + Spec.magnitude 7 133 0x3f81 ∧
    Spec.magnitude 7 133 0x7f80 = 2 ^ 394 ∧ Spec.magnitude 23 117 0x7f800000 = 2 ^ 394 ∧ 2 ^ 394 ≤ (Spec.rq halves 2).xa.x.toInt.natAbs ∧
    (Spec.rq halves 3).xa.x.toInt < 0 ∧ (Spec.rq scored 4).xa.pinf = true ∧ (Spec.rq scored 5).xa.ninf = true ∧ (Spec.rq scored 3).xa.nan = true ∧
    (Spec.rq halves 0).xa.nan = false := by decide +kernel
theorem test_drains : rnds.map (fun r => dn (.qrnd .bf16 r 4 0)) = [0x3f80, 0x3f80, 0x3f81, 0x3f80, 0x3f81] ∧
    rnds.map (fun r => dn (.qrnd .bf16 r 4 1)) = [0xbf80, 0xbf80, 0xbf80, 0xbf81, 0xbf81] ∧
    rnds.map (fun r => dn (.qrnd .f32 r 4 2)) = [0x7f800000, 0x7f7fffff, 0x7f800000, 0x7f7fffff, 0x7f800000] ∧
    rnds.map (fun r => dn (.qrnd .bf16 r 4 3)) = [0xff80, 0xff7f, 0xff7f, 0xff80, 0xff80] ∧
    rnds.map (fun r => dn (.qrnd .s32 r 4 0)) = [1, 1, 2, 1, 1] ∧ dn (.qrnd .s32 .rne 4 4) = 0x7fffffff ∧ dn (.qrnd .s32 .rne 4 3) = 2 ^ 64 - 2 ^ 31 := by
  decide +kernel

/-- R410: what the pieces of an access to another device leave where no answer has come. That Config.routeLost says so is assumed, since it has
no body. -/
theorem unanswered (s : State) (p : Piece × Nat) (t : List (Piece × Nat)) (hr : s.sysReqs = []) (hn : s.now = 0) (hp : s.isHere p.2 = false)
    (h : ∀ va, Config.routeLost s.tick va = true) : (s.sysAnswers 0 1 (p :: t)).1 = some p.1.va ∧
      ∃ r ∈ (s.sysAnswers 0 1 (p :: t)).2.sysReqs, r ∉ s.sysReqs ∧ r.asked = s.tick := by
  have e : ∀ l : List (Piece × Nat), l.find? (fun _ => false) = none := fun l => List.find?_eq_none.2 (fun _ _ => Bool.false_ne_true)
  simp [State.sysAnswers, hr, hn, hp, h, e]
/-- A ring whose page is in another device. -/
def farRing : State := { ring id with mem := (tables.filter (fun p => p.1 < 0x110000)) ++ [(0x110080, 0x1f), (0x110085, 8)] }
theorem far_pieces : (farRing.sysPieces 0 1 .load (piecesOf 0 0x100000 128)).toOption = some [(⟨0, 0x100000, 64⟩, 2 ^ 43), (⟨0, 0x100040, 64⟩, 2 ^ 43 + 64)] ∧
    farRing.isHere (2 ^ 43) = false := by decide +kernel
theorem witness_Unanswered (h : ∀ va, Config.routeLost farRing.tick va = true) :
    (∃ e, (farRing.sysRead 0 1 0x100000 128).1 = .error e) ∧
    ∃ r ∈ (farRing.sysRead 0 1 0x100000 128).2.sysReqs, r ∉ farRing.sysReqs ∧ r.asked = farRing.tick := by
  obtain ⟨hp, e1⟩ := far_pieces
  have hr : farRing.sysReqs = [] := rfl
  have hn : farRing.now = 0 := rfl
  generalize farRing = s at *
  cases hq : s.sysPieces 0 1 .load (piecesOf 0 0x100000 128) with
  | error e => rw [hq] at hp; cases hp
  | ok ps =>
    rw [hq] at hp
    obtain rfl : ps = _ := Option.some.inj hp
    obtain ⟨h1, h2⟩ := unanswered s (⟨0, 0x100000, 64⟩, 2 ^ 43) [(⟨0, 0x100040, 64⟩, 2 ^ 43 + 64)] hr hn e1 h
    have e : s.sysRead 0 1 0x100000 128 = (.error (.access, 0x100000), (s.sysAnswers 0 1 [(⟨0, 0x100000, 64⟩, 2 ^ 43), (⟨0, 0x100040, 64⟩, 2 ^ 43 + 64)]).2) := by
      unfold State.sysRead State.sysReadAs
      rw [hq]
      dsimp only
      revert h1
      rcases s.sysAnswers 0 1 [(⟨0, 0x100000, 64⟩, 2 ^ 43), (⟨0, 0x100040, 64⟩, 2 ^ 43 + 64)] with ⟨o, s0⟩
      rintro rfl
      rfl
    rw [e]
    exact ⟨⟨_, rfl⟩, h2⟩

/-- A program whose string goes to that page. -/
def farString : State := { at7 0x100000 ag with mem := farRing.mem }
theorem far_string : (farString.sysPieces 0 1 .store (piecesOf 0 0x100000 8)).toOption = some [(⟨0, 0x100000, 8⟩, 2 ^ 43)] ∧
    farString.isHere (2 ^ 43) = false ∧ (Spec.object ⟨false, [97, 97, 97, 98]⟩).length = 8 := by decide +kernel
theorem witness_Unanswered_string (h : ∀ va, Config.routeLost farString.tick va = true) : ∃ e f, e ≠ SysErr.poison ∧
    (farString.sysWrite 0 1 0x100000 (Spec.object ⟨false, [97, 97, 97, 98]⟩)).1 = some (e, f) ∧
    ∃ r ∈ (farString.sysWrite 0 1 0x100000 (Spec.object ⟨false, [97, 97, 97, 98]⟩)).2.sysReqs, r.asked = farString.tick ∧ r ∉ farString.sysReqs := by
  obtain ⟨hp, e1, hl⟩ := far_string
  have hr : farString.sysReqs = [] := rfl
  have hn : farString.now = 0 := rfl
  generalize farString = s at *
  cases hq : s.sysPieces 0 1 .store (piecesOf 0 0x100000 8) with
  | error e => rw [hq] at hp; cases hp
  | ok ps =>
    rw [hq] at hp
    obtain rfl : ps = _ := Option.some.inj hp
    obtain ⟨h1, r, h2, h3, h4⟩ := unanswered s (⟨0, 0x100000, 8⟩, 2 ^ 43) [] hr hn e1 h
    have e : s.sysWrite 0 1 0x100000 (Spec.object ⟨false, [97, 97, 97, 98]⟩) =
        (some (.access, 0x100000), (s.sysAnswers 0 1 [(⟨0, 0x100000, 8⟩, 2 ^ 43)]).2) := by
      unfold State.sysWrite
      rw [hl, hq]
      dsimp only
      revert h1
      rcases s.sysAnswers 0 1 [(⟨0, 0x100000, 8⟩, 2 ^ 43)] with ⟨o, s0⟩
      rintro rfl
      rfl
    rw [e]
    exact ⟨_, _, (by decide), rfl, r, h2, h4, h3⟩

end Sys2Proof.Tests
end

section
/-! SUPPORT. Fields of a word as numbers (the register maps name a field by its bits, the statements by quotient and remainder), and what a
register write and the debug window do, each said once. -/

namespace Sys2Proof.Machine

/-! ## Fields of a word -/

theorem extractLsb'_eq_ofNat_div (v : Word) (lo len : Nat) : v.extractLsb' lo len = BitVec.ofNat len (v.toNat / 2 ^ lo) := by
  rw [BitVec.extractLsb', Nat.shiftRight_eq_div_pow]

/-- A mask of `len` ones from bit `lo` on keeps that field in its place. -/
theorem and_fieldMask (v : Word) (lo len : Nat) :
    v &&& BitVec.ofNat 64 ((2 ^ len - 1) * 2 ^ lo) = BitVec.ofNat 64 (v.toNat / 2 ^ lo % 2 ^ len * 2 ^ lo) := by
  have hnat : v.toNat &&& (2 ^ len - 1) * 2 ^ lo = v.toNat / 2 ^ lo % 2 ^ len * 2 ^ lo := by
    refine Nat.eq_of_testBit_eq fun i => ?_
    simp only [Nat.testBit_and, Nat.testBit_mul_two_pow, Nat.testBit_two_pow_sub_one, Nat.testBit_mod_two_pow, Nat.testBit_div_two_pow]
    by_cases h : lo ≤ i
    · simp [h, Bool.and_comm]
    · simp [h]
  rw [← hnat, BitVec.ofNat_and, BitVec.ofNat_toNat, BitVec.setWidth_eq]

/-- The mask of lq.base (R116). -/
theorem and_lqBaseMask (v : Word) : v &&& ~~~0x7f = BitVec.ofNat 64 (v.toNat / 128 * 128) := by
  have h := and_fieldMask v 7 57
  rwa [Nat.mod_eq_of_lt (by omega)] at h

/-- The mask of asid.base (R80). -/
theorem and_asidBaseMask (v : Word) : v &&& asidBaseMask = BitVec.ofNat 64 (v.toNat / 2 ^ 19 % 2 ^ 33 * 2 ^ 19) :=
  and_fieldMask v 19 33

theorem clampWatts_eq (w : BitVec 12) : clampWatts w = BitVec.ofNat 12 (max 600 (min 2200 w.toNat)) := by
  unfold clampWatts
  split
  · rw [show max 600 (min 2200 w.toNat) = 600 by bv_omega]; rfl
  · split
    · rw [show max 600 (min 2200 w.toNat) = 2200 by bv_omega]; rfl
    · rw [show max 600 (min 2200 w.toNat) = w.toNat by bv_omega, BitVec.ofNat_toNat, BitVec.setWidth_eq]

/-- The two readings of a number's low bits as two's complement agree. -/
theorem sextNat_eq_toInt (w n : Nat) : sextNat (w + 1) n = (BitVec.ofNat (w + 1) n).toInt := by
  have hhalf : n % 2 ^ (w + 1) < 2 ^ w ↔ 2 * (n % 2 ^ (w + 1)) < 2 ^ (w + 1) := by
    rw [Nat.pow_succ 2 w]; omega
  simp only [sextNat, Nat.add_sub_cancel, BitVec.toInt_eq_toNat_cond, BitVec.toNat_ofNat, hhalf]
  push_cast
  rfl

/-- A field's place does not show in its value as two's complement. -/
theorem sextNat_fieldNat (v : Word) (lo : Nat) : sextNat 32 (fieldNat v lo 32) = (BitVec.ofNat 32 (v.toNat / 2 ^ lo)).toInt := by
  have hlow : BitVec.ofNat 32 (fieldNat v lo 32) = BitVec.ofNat 32 (v.toNat / 2 ^ lo) :=
    BitVec.eq_of_toNat_eq (Nat.mod_mod _ _)
  rw [sextNat_eq_toInt 31, hlow]

theorem b2n_le_one : ∀ b : Bool, b2n b ≤ 1 := by decide

/-! ## The map of the debug window (R136) -/

theorem dwPart_pc : dwPart 0x100 = .pc := rfl

theorem dwPart_vtags : dwPart 0x1840 = .vtags := rfl

theorem dwPart_mxStat : dwPart 0x1880 = .mxStat := rfl

theorem dwPart_x : ∀ r : XReg, dwPart (8 * r.toNat) = .x r := by decide

theorem dwPart_handleA : ∀ b : BReg, dwPart (0x240 + 16 * b.toNat) = .handle b false := by decide

theorem dwPart_mask : ∀ k : KReg, dwPart (0x1800 + 8 * k.toNat) = .mask k := by decide

/-- Offsets from 0x20000 on lie behind every part before the bellboard, 64 bytes to an entry (R191). -/
theorem dwPart_entry (e : Nat) (h : e < 512) : dwPart (0x20000 + 64 * e) = .entry e 0 := by
  have halign : (0x20000 + 64 * e) / 8 * 8 = 0x20000 + 64 * e := by omega
  have hno : (0x20000 + 64 * e - 0x20000) / 64 = e := by omega
  have hoff : (0x20000 + 64 * e) % 64 = 0 := by omega
  unfold dwPart
  simp only [halign, hno, hoff]
  grind

/-! ## Register writes (R6) -/

theorem exec_registerWrite {r : MmioReg} {v : Word} {s t : State} (h : s.writeReg r v = t) : exec (.registerWrite r v) s = .next t :=
  congrArg Host.Outcome.next h

theorem State.writeReg_ppCtl (s : State) (v : Word) : s.writeReg .ppCtl v =
    { s with ppGate := v.getLsbD 40, ppIdle := BitVec.ofNat 32 (v.toNat / 2 ^ 8), ppWake := BitVec.ofNat 8 v.toNat } := by
  simp only [State.writeReg, State.writePp, bitAt, extractLsb'_eq_ofNat_div, Nat.pow_zero, Nat.div_one]

theorem State.writeReg_imCfg (s : State) (v : Word) : s.writeReg .imCfg v = s.updImp (fun i => { i with
    quantum := BitVec.ofNat 16 (v.toNat / 2 ^ 32), chunk := BitVec.ofNat 16 (v.toNat / 2 ^ 16), stepmax := BitVec.ofNat 16 v.toNat }) := by
  simp only [State.writeReg, Imposer.writeCfg, extractLsb'_eq_ofNat_div, Nat.pow_zero, Nat.div_one]

theorem State.writeReg_pcLim (s : State) (v : Word) : s.writeReg .pcLim v = { s with
    pcOver := (s.pcOver && !v.getLsbD 16) || s.capStretch, pcWatts := BitVec.ofNat 12 (max 600 (min 2200 (v.toNat % 4096))) } := by
  simp only [State.writeReg, bitAt, clampWatts_eq, BitVec.extractLsb'_toNat, Nat.shiftRight_zero, Nat.reducePow]

theorem State.writeReg_rmCtl (s : State) (k : Nat) (v : Word) : s.writeReg (.rmCtl k) v = s.updStack k (fun x => { x with
    en := v.getLsbD 32, backoff := BitVec.ofNat 16 (v.toNat / 2 ^ 16), thresh := BitVec.ofNat 16 v.toNat }) := by
  simp only [State.writeReg, bitAt, extractLsb'_eq_ofNat_div, Nat.pow_zero, Nat.div_one]

theorem State.writeReg_asidBase (s : State) (die : Nat) (v : Word) : s.writeReg (.asidBase die) v =
    s.updDie die (fun x => { x with asidBase := BitVec.ofNat 64 (v.toNat / 2 ^ 19 % 2 ^ 33 * 2 ^ 19) }) := by
  simp only [State.writeReg, and_asidBaseMask]

theorem State.writeReg_lqBase (s : State) (asid q : Nat) (v : Word) : s.writeReg (.lqBase asid q) v =
    s.updLq (64 * asid + q) (fun l => { l with base := BitVec.ofNat 64 (v.toNat / 128 * 128) }) := by
  simp only [State.writeReg, lqIndex, and_lqBaseMask]

theorem State.writeReg_einjCtl (s : State) (die : Nat) (v : Word) : s.writeReg (.einjCtl die) v =
    s.updDie die (fun d => { d with
      einjFired := d.einjFired && !v.getLsbD 3, einjKind := BitVec.ofNat 2 (v.toNat / 2), einjArm := v.getLsbD 0 }) := by
  simp only [State.writeReg, Die.writeEinj, bitAt, extractLsb'_eq_ofNat_div, Nat.pow_one]

/-- A write of dw.ctl whose act field is zero selects and does nothing else (R137). -/
theorem State.writeReg_dwCtl_noAction (s : State) (d : Nat) (v : Word) (h : v.toNat % 8 = 0) :
    s.writeReg (.dwCtl d) v = s.updDist d (fun x => { x with sel := BitVec.ofNat 6 (v.toNat / 64) }) := by
  have hact : fieldNat v 0 3 = 0 := by simpa [fieldNat] using h
  simp only [State.writeReg, State.writeDwCtl, hact, State.hallAction, extractLsb'_eq_ofNat_div]
  rfl

/-! ## The debug window (R136, R137) -/

theorem State.writeReg_dw_frozen {s : State} {d off : Nat} {p : DwPart} (v : Word) (h : s.isFrozen (s.selected d) = true)
    (hp : dwPart off = p) : s.writeReg (.dw d off) v = s.writePart (s.selected d) v p :=
  hp ▸ if_pos h

theorem State.readReg_dw_frozen {s : State} {d off : Nat} {p : DwPart} (h : s.isFrozen (s.selected d) = true) (hp : dwPart off = p) :
    s.readReg (.dw d off) = s.readPart (s.selected d) p :=
  hp ▸ if_pos h

theorem State.writeReg_dw_running {s : State} {d : Nat} (off : Nat) (v : Word) (h : s.isFrozen (s.selected d) = false) :
    s.writeReg (.dw d off) v = s := if_neg (Bool.eq_false_iff.mp h)

theorem State.readReg_dw_running {s : State} {d : Nat} (off : Nat) (h : s.isFrozen (s.selected d) = false) :
    s.readReg (.dw d off) = 0 := if_neg (Bool.eq_false_iff.mp h)

theorem State.core_writeX_zero (s : State) (c : Nat) (v : Word) : (s.writeX c 0 v).core c = s.core c := by
  simp only [State.writeX, State.core_updCore_same, Core.writeX_zero]

theorem State.writePart_pc (s : State) (c : Nat) (v : Word) :
    s.writePart c v .pc = s.updCore c (fun x => { x with pc := BitVec.ofNat 52 v.toNat }) := by
  simp only [State.writePart, extractLsb'_eq_ofNat_div, Nat.pow_zero, Nat.div_one]

theorem State.writePart_vtags (s : State) (c : Nat) (v : Word) :
    s.writePart c v .vtags = s.updVec c (fun e => { e with tag := BitVec.ofNat 32 v.toNat }) := by
  simp only [State.writePart, extractLsb'_eq_ofNat_div, Nat.pow_zero, Nat.div_one]

/-- The first word of a bellboard entry holds its count and its reload value (R191). -/
theorem Entry.writeWord_zero (e : Entry) (may : Bool) (v : Word) : e.writeWord may 0 v =
    { e with count := (BitVec.ofNat 32 v.toNat).toInt, reload := (BitVec.ofNat 32 (v.toNat / 2 ^ 32)).toInt } := by
  simp only [Entry.writeWord, Nat.zero_div, if_true, sextNat_fieldNat, Nat.pow_zero, Nat.div_one]

theorem State.entry_writePart_entry (s : State) (c e off : Nat) (v : Word) :
    ((s.writePart c v (.entry e off)).ctx c).entry e = ((s.ctx c).entry e).writeWord (e < 256) off v := by
  simp only [State.writePart, State.ctx_updCtx_same, Ctx.entry, Tab.get_upd_same]

theorem State.readPart_pc (s : State) (c : Nat) : s.readPart c .pc = BitVec.ofNat 64 (s.pc c) :=
  (BitVec.ofNat_toNat 64 _).symm

theorem State.readPart_vtags (s : State) (c : Nat) : s.readPart c .vtags = BitVec.ofNat 64 (s.ctx c).vec.tag.toNat :=
  (BitVec.ofNat_toNat 64 _).symm

/-- The word of dw.ctl as a number: its three fields stay below 2^12. -/
theorem State.readDwCtl_toNat (s : State) (d : Nat) : ∃ act : Bool, (s.readDwCtl d).toNat =
    2 ^ 6 * (s.dist d).sel.toNat + 2 ^ 5 * b2n (s.isFrozen (s.selected d)) + 2 ^ 4 * b2n act := by
  refine ⟨(s.core (s.selected d)).act.isSome && !(s.ctx (s.selected d)).retriable, ?_⟩
  rw [State.readDwCtl, BitVec.toNat_ofNat]
  refine Nat.mod_eq_of_lt ?_
  have hfrozen := b2n_le_one (s.isFrozen (s.selected d))
  have hact := b2n_le_one ((s.core (s.selected d)).act.isSome && !(s.ctx (s.selected d)).retriable)
  have hsel := (s.dist d).sel.isLt
  omega

theorem State.readDwCtl_frozen (s : State) (d : Nat) : (s.readReg (.dwCtl d)).getLsbD 5 = s.isFrozen (s.selected d) := by
  obtain ⟨act, h⟩ := s.readDwCtl_toNat d
  have hfrozen := b2n_le_one (s.isFrozen (s.selected d))
  have hact := b2n_le_one act
  have hbit : (s.readDwCtl d).toNat / 2 ^ 5 % 2 = b2n (s.isFrozen (s.selected d)) := by omega
  rw [State.readReg, BitVec.getLsbD, Nat.testBit_eq_decide_div_mod_eq, hbit]
  cases s.isFrozen (s.selected d) <;> rfl

theorem State.readDwCtl_sel (s : State) (d : Nat) : (s.readReg (.dwCtl d)).toNat / 64 = (s.dist d).sel.toNat := by
  obtain ⟨act, h⟩ := s.readDwCtl_toNat d
  have hfrozen := b2n_le_one (s.isFrozen (s.selected d))
  have hact := b2n_le_one act
  rw [State.readReg, h]
  omega

/-- The cell that the statements name is the one that the model selects. -/
theorem windowCell_eq_selected (s : State) (d : Nat) : Spec.windowCell s d = s.selected d := rfl

end Sys2Proof.Machine
end

section
/-! The statements about register writes and about memory at reset. -/

namespace Sys2Proof.Proofs

open Machine

theorem mappedRegisters : Spec.MappedRegisters := by
  intro s v k die asid q
  refine ⟨exec_registerWrite (s.writeReg_ppCtl v), exec_registerWrite (s.writeReg_imCfg v), exec_registerWrite (s.writeReg_pcLim v),
    exec_registerWrite rfl, exec_registerWrite (s.writeReg_rmCtl k v), exec_registerWrite (s.writeReg_asidBase die v),
    exec_registerWrite (s.writeReg_lqBase asid q v), exec_registerWrite rfl, _, exec_registerWrite (s.writeReg_einjCtl die v), ?_⟩
  rw [State.die_updDie_same]
  exact ⟨rfl, rfl, rfl⟩

/-! ## The debug window of a district whose selected cell is frozen -/

section
variable {s : State} {d : Nat} (frozen : s.isFrozen (s.selected d) = true)
include frozen

theorem exec_window_write {off : Nat} {p : DwPart} {v : Word} {t : State} (hp : dwPart off = p)
    (ht : s.writePart (s.selected d) v p = t) : exec (.registerWrite (.dw d off) v) s = .next t :=
  exec_registerWrite ((State.writeReg_dw_frozen v frozen hp).trans ht)

/-- The first word of an entry is written, and its handler stays. -/
theorem exec_window_write_entry (v : Word) (e : Nat) (he : e < 512) :
    ∃ t, exec (.registerWrite (.dw d (0x20000 + 64 * e)) v) s = .next t ∧
      ((t.ctx (s.selected d)).entry e).count = (BitVec.ofNat 32 v.toNat).toInt ∧
      ((t.ctx (s.selected d)).entry e).reload = (BitVec.ofNat 32 (v.toNat / 2 ^ 32)).toInt ∧
      ((t.ctx (s.selected d)).entry e).handler = ((s.ctx (s.selected d)).entry e).handler := by
  refine ⟨_, exec_window_write frozen (dwPart_entry e he) rfl, ?_⟩
  rw [State.entry_writePart_entry, Entry.writeWord_zero]
  exact ⟨rfl, rfl, rfl⟩

end

theorem debugWindow : Spec.DebugWindow := by
  intro s d v r k b
  simp only [windowCell_eq_selected]
  refine ⟨fun frozen => ⟨?x, ?x0, ?pc, ?mask, ?vtags, ?mxStat, ?handle, ?entry, ?readX, ?readPc, ?readMask, ?readVtags⟩,
    fun running off => ⟨exec_registerWrite (State.writeReg_dw_running off v running), State.readReg_dw_running off running⟩,
    fun noAction => exec_registerWrite (s.writeReg_dwCtl_noAction d v noAction), s.readDwCtl_frozen d, s.readDwCtl_sel d⟩
  case x => exact exec_window_write frozen (dwPart_x r) rfl
  case x0 => rintro rfl; exact s.core_writeX_zero _ v
  case pc => exact exec_window_write frozen dwPart_pc (s.writePart_pc _ v)
  case mask => exact exec_window_write frozen (dwPart_mask k) rfl
  case vtags => exact exec_window_write frozen dwPart_vtags (s.writePart_vtags _ v)
  case mxStat => exact exec_window_write frozen dwPart_mxStat rfl
  case handle => exact exec_window_write frozen (dwPart_handleA b) rfl
  case entry => exact exec_window_write_entry frozen v
  case readX => exact State.readReg_dw_frozen frozen (dwPart_x r)
  case readPc => exact (State.readReg_dw_frozen frozen dwPart_pc).trans (s.readPart_pc _)
  case readMask => exact State.readReg_dw_frozen frozen (dwPart_mask k)
  case readVtags => exact (State.readReg_dw_frozen frozen dwPart_vtags).trans (s.readPart_vtags _)

/-- Settles O24: each clause is the register's own write rule, its fields read as numbers, and the window's map says which part an
offset names. -/
theorem registerWrites : Obligations.RegisterWrites := ⟨mappedRegisters, debugWindow⟩

/-- Settles O37: no byte and no line is listed at reset. -/
theorem canonAtReset : Obligations.CanonAtReset := ⟨State.reset_canon, fun _ => ⟨rfl, rfl⟩⟩

end Sys2Proof.Proofs
end
